-- ==== Sys2Proof/Word.lean ====
section
/-! DEFINITION. The word types of the VS-5120 and their plainest arithmetic. -/

namespace Sys2Proof

/-- A general register, control register or port element (spec 03 R54, R55). -/
abbrev Word := BitVec 64
/-- A byte of memory. -/
abbrev Byte := BitVec 8
/-- One 16-bit instruction word (03 R44). -/
abbrev Half := BitVec 16
/-- A virtual address (07 R132). -/
abbrev VAddr := BitVec 48
/-- A vector register (22 R386). -/
abbrev Vec := BitVec 512
/-- A 64-byte record, packet or descriptor, byte 0 in bits 7:0 (03 R68, 12 R220). -/
abbrev Rec := BitVec 512

end Sys2Proof
end

