-- ==== Sys2Proof/Config.lean ====
section
/-! DEFINITION. What one implementation fixes, and the values the spec leaves open: opaque constants, of which no proof
knows more than the type. -/

namespace Sys2Proof.Config

/-- COREID.STEP, the stepping of a core (03 R72: fixed, no number given). -/
opaque step : BitVec 8

/-- SERIAL of the attestation report (14 R262). -/
opaque serial : Word
/-- The bytes of the Polmor ROM (14 R262). -/
opaque romBytes : List Byte
/-- The bytes of the signed configuration table, for a firmware column one core wide (false) or two (true) (12 R236). -/
opaque tableBytes : Bool → List Byte
/-- The device's fused P-384 identity key, and the certificate for it (14 R262). -/
opaque identityKey : Nat
opaque certificate : List Byte
/-- The secret number of each attempt at a signature of a message (14 R262: which valid signature is open). -/
opaque signNonce : Nat → Nat → Nat

/-- A free value, one for each number: the state counts the ones used (log 7). -/
opaque freeWord : Nat → Word

/-- Does a member whose domain registers disagree with another member's trap (true) or wait (02 R32)? -/
opaque domainTraps : Nat → Bool
/-- Do the slots of a launch whose crew descriptors differ trap (true) or wait (02 R25)? By the launch's id. -/
opaque crewTraps : Nat → Bool

/-- Is a peer device reached over the numbered Hokusyn port (14 R258: the paths are not given)? -/
opaque peerPath : Nat → Nat → Bool
/-- Does the batch swapper, in a window, move an IDLE sequence back to the waiting table, and which of those it may move
(10 R205: when it does is not given)? -/
opaque swapsOut : Nat → Option Nat
/-- Tokens of the KV context that one page of a member holds, by claim, committee and member (10 R192: KVRES pages hold
CTXLIM + DRAFTMAX tokens, no number given). -/
opaque kvTokens : Nat → Nat → Nat → Nat
/-- KV pages of 64 KiB that the firmware can reserve in all (10 R205: no number given). -/
opaque kvPages : Nat
/-- Role of a firmware-column core: 0 command processor, 1 page-fault service, 2 batch swapper, 3 media deposit,
4 management (12 R236: the table is the board's). -/
opaque role : Nat → Nat

end Sys2Proof.Config
end

