-- ==== Sys2Proof/Syntax.lean ====
section
/-! DEFINITION. The instructions of the VS-5120 and the steps of its other agents: one constructor of Instr for each
row of spec/opcode_table.json, in the table's order. -/

namespace Sys2Proof

/-- A scalar register field: g0-g23, then q0-q7 (03 R54). -/
abbrev GReg := Fin 32
/-- A vector register field (03 R57). -/
abbrev VReg := Fin 32
/-- A mask register field (03 R57). -/
abbrev KReg := Fin 8
/-- A tile field (03 R57). -/
abbrev TReg := Fin 8

/-- Scalar type codes 0-7 (03 R60). -/
inductive ScalarType where
  | d | w | h | b | dz | wz | hz | bz
  deriving DecidableEq, Repr

/-- Lane type codes 0-7 (03 R61). -/
inductive LaneType where
  | fp32 | bf16 | fp16 | i32 | i16 | i8 | fp64 | i64
  deriving DecidableEq, Repr

/-- Scopes (03 R58). -/
inductive Scope where
  | co | cl | dv | sy
  deriving DecidableEq, Repr

/-- Orders (03 R58). -/
inductive Order where
  | rlx | acq | rel | ar
  deriving DecidableEq, Repr

/-- The index operand of form ME: the register in OPB C and the scale shift in x (03 R62). -/
structure Index where
  reg : GReg
  shift : Fin 4
  deriving DecidableEq, Repr

/-- The OPB operand of form V2: the second source in C and the mask in x (03 R62). -/
structure Third where
  reg : VReg
  mask : KReg
  deriving DecidableEq, Repr

/-- The rows of spec/opcode_table.json. Instruction rows carry their operand fields. The rows of other agents name the
core `c` (physical id), slot `k`, domain `d`, cluster `cl`, queue `q`, launch `l` or the n-th request in flight that
the step is about. -/
inductive Instr where
  | ill (a b : Fin 32)
  | mov (a b : GReg) (y : ScalarType)
  | li (a : GReg) (e : Int)
  | add (a b : GReg) (c : Option GReg) (y : ScalarType)
  | sub (a b : GReg) (c : Option GReg) (y : ScalarType)
  | and (a b : GReg) (c : Option GReg) (y : ScalarType)
  | or (a b : GReg) (c : Option GReg) (y : ScalarType)
  | xor (a b : GReg) (c : Option GReg) (y : ScalarType)
  | shl (a b : GReg) (c : Option GReg) (y : ScalarType)
  | shr (a b : GReg) (c : Option GReg) (y : ScalarType)
  | sra (a b : GReg) (c : Option GReg) (y : ScalarType)
  | addi (a : GReg) (e : Int) (y : ScalarType)
  | mul (a b : GReg) (c : Option GReg) (y : ScalarType)
  | mulh (a b : GReg) (c : Option GReg) (y : ScalarType)
  | div (a b : GReg) (c : Option GReg) (y : ScalarType)
  | rem (a b : GReg) (c : Option GReg) (y : ScalarType)
  | slt (a b : GReg) (c : Option GReg) (y : ScalarType)
  | clz (a b : GReg) (y : ScalarType)
  | popc (a b : GReg) (y : ScalarType)
  | clmul (a b : GReg) (c : Option GReg) (y : ScalarType)
  | clmulh (a b : GReg) (c : Option GReg) (y : ScalarType)
  | padd (a b : GReg) (e : Int)
  | pset (a b : GReg)
  | pget (a b : GReg)
  | ld (a b : GReg) (x : Option Index) (e : Int) (y : ScalarType) (sc : Scope) (o : Order)
  | st (a b : GReg) (x : Option Index) (e : Int) (y : ScalarType) (sc : Scope) (o : Order)
  | bz (a : GReg) (e : Int)
  | bnz (a : GReg) (e : Int)
  | bltz (a : GReg) (e : Int)
  | bgez (a : GReg) (e : Int)
  | j (e : Int)
  | jal (e : Int)
  | jr (a b : GReg)
  | pause (e : Int)
  | pauseEnd (c : Nat) (k : Fin 4)
  | fence (sc : Scope) (o : Order)
  | ifence
  | csrr (a : GReg) (n : Nat)
  | csrw (a : GReg) (n : Nat)
  | sync (d : Fin 8)
  | arrive (d : Fin 8)
  | waitb (d : Fin 8)
  | trap (e : Int)
  | min (a b : GReg) (c : Option GReg) (y : ScalarType)
  | max (a b : GReg) (c : Option GReg) (y : ScalarType)
  | epush (n : Fin 3) (b : GReg)
  | qpush (a b : GReg)
  | clkr (a : GReg)
  | bfx (a b : GReg) (pos len : Nat)
  | bfi (a b : GReg) (pos len : Nat)
  | aadd (a b : GReg) (c : Option GReg) (y : ScalarType) (sc : Scope) (o : Order)
  | aand (a b : GReg) (c : Option GReg) (y : ScalarType) (sc : Scope) (o : Order)
  | aor (a b : GReg) (c : Option GReg) (y : ScalarType) (sc : Scope) (o : Order)
  | axor (a b : GReg) (c : Option GReg) (y : ScalarType) (sc : Scope) (o : Order)
  | amin (a b : GReg) (c : Option GReg) (y : ScalarType) (sc : Scope) (o : Order)
  | amax (a b : GReg) (c : Option GReg) (y : ScalarType) (sc : Scope) (o : Order)
  | aswp (a b : GReg) (c : Option GReg) (y : ScalarType) (sc : Scope) (o : Order)
  | acas (a b c : GReg) (y : ScalarType) (sc : Scope) (o : Order)
  | upd (a b : GReg) (y : ScalarType) (sc : Scope) (o : Order)
  | updcfg (a b : GReg)
  | scfg (n : Fin 4) (b : GReg)
  | senEnable (n : Fin 4)
  | senDisable (n : Fin 4)
  | pref (h : Fin 2) (b : GReg) (e : Int)
  | vld (v : VReg) (b : GReg) (e : Int) (x : KReg) (t : LaneType)
  | vst (v : VReg) (b : GReg) (e : Int) (x : KReg) (t : LaneType)
  | vldc (v : VReg) (b : GReg) (e : Int) (x : KReg) (t : Option LaneType)
  | vstc (v : VReg) (b : GReg) (e : Int) (x : KReg) (t : LaneType)
  | vadd (a b : VReg) (c : Option Third) (t : LaneType)
  | vsub (a b : VReg) (c : Option Third) (t : LaneType)
  | vmul (a b : VReg) (c : Option Third) (t : LaneType)
  | vfma (a b c : VReg) (x : KReg) (t : LaneType)
  | vmin (a b : VReg) (c : Option Third) (t : LaneType)
  | vmax (a b : VReg) (c : Option Third) (t : LaneType)
  | vabs (a b : VReg) (x : KReg) (t : LaneType)
  | vneg (a b : VReg) (x : KReg) (t : LaneType)
  | vexp (a b : VReg) (x : KReg) (t : LaneType)
  | vln (a b : VReg) (x : KReg) (t : LaneType)
  | vrcp (a b : VReg) (x : KReg) (t : LaneType)
  | vrsq (a b : VReg) (x : KReg) (t : LaneType)
  | vclt (a : KReg) (b c : VReg) (x : KReg) (t : LaneType)
  | vcle (a : KReg) (b c : VReg) (x : KReg) (t : LaneType)
  | vceq (a : KReg) (b c : VReg) (x : KReg) (t : LaneType)
  | vsel (a b c : VReg) (x : KReg) (t : LaneType)
  | vbcast (a : VReg) (b : GReg) (t : LaneType)
  | vmovg (a : GReg) (b : VReg) (n : Nat) (t : LaneType)
  | vmovv (a : VReg) (b : GReg) (n : Nat) (t : LaneType)
  | vgath (a : VReg) (b : GReg) (c : VReg) (x : KReg) (t : LaneType)
  | vscat (a : VReg) (b : GReg) (c : VReg) (x : KReg) (t : LaneType)
  | vpack (a b : VReg) (x : KReg) (t : LaneType)
  | vcmpk (a b : VReg) (x : KReg) (t : LaneType)
  | vrsum (b : VReg) (x : KReg) (t : LaneType)
  | vrmax (b : VReg) (x : KReg) (t : LaneType)
  | vargmx (b : VReg) (x : KReg) (t : LaneType)
  | vcvt (a b : VReg) (ts : LaneType) (x : KReg) (t : LaneType)
  | vhad (a b : VReg) (blk : Nat) (seed : Fin 16) (x : KReg) (t : LaneType)
  | vihad (a b : VReg) (blk : Nat) (seed : Fin 16) (x : KReg) (t : LaneType)
  | vloop (n : Nat) (b : GReg)
  | vand (a b : VReg) (c : Option Third) (t : LaneType)
  | vor (a b : VReg) (c : Option Third) (t : LaneType)
  | vxor (a b : VReg) (c : Option Third) (t : LaneType)
  | vshl (a b : VReg) (c : Option Third) (t : LaneType)
  | vshr (a b : VReg) (c : Option Third) (t : LaneType)
  | kand (a b : KReg) (c : Option KReg)
  | kor (a b : KReg) (c : Option KReg)
  | knot (a b : KReg)
  | kmovKFromG (a : KReg) (b : GReg)
  | kmovGFromK (a : GReg) (b : KReg)
  | kmovKFromK (a b : KReg)
  | tzero (t : TReg)
  | tload (t : TReg) (b : GReg) (e : Int)
  | tsave (t : TReg) (b : GReg) (e : Int)
  | tstat (a : GReg) (t : TReg)
  | twait (t : TReg)
  | tdrop (t : TReg)
  | asscfg (a b : GReg)
  | assay (a b : GReg)
  | draw (a b : GReg)
  | carrive (a b : GReg)
  | cwait (a b : GReg)
  | cpost (a b : GReg)
  | gmask (v : VReg) (b : GReg)
  | gstep (a b : GReg)
  | mpop (a b : GReg)
  | mstat (a b : GReg)
  | crew (a b : GReg)
  | crewForm (c : Nat) (k : Fin 4)
  | split
  | retx
  | ctxs (a b : GReg)
  | ctxl (a b : GReg)
  | tlbi (a b : GReg)
  | protw (a b : GReg)
  | halt
  | eventLineSet (c : Nat) (k : Fin 4)
  | eventLineWait (c : Nat) (k : Fin 4)
  | eventLineClear (c : Nat) (k : Fin 4)
  | eventLineTest (c : Nat) (k : Fin 4)
  | mutexTake (c : Nat) (k : Fin 4)
  | mutexFree (c : Nat) (k : Fin 4)
  | clusterBarrierCount (c : Nat) (k : Fin 4)
  | clusterBarrierArrive (c : Nat) (k : Fin 4)
  | clusterPowerUp (cl : Nat)
  | arrivalSweep (c : Nat) (d : Fin 8)
  | domainRelease (c : Nat) (d : Fin 8)
  | exchangeWrite (c : Nat) (d : Fin 8) (n : Nat)
  | exchangeDrained (c : Nat) (d : Fin 8)
  | exchangeMessageArrival (n : Nat)
  | remoteAccess (n : Nat)
  | pageFaultService (n : Nat) (p : Option (BitVec 128))
  | deferredTrap (c : Nat) (k : Fin 4)
  | mma (c : Nat)
  | mmas (c : Nat)
  | mmad (c : Nat)
  | mmai (c : Nat)
  | matrixCompletion (c : Nat)
  | copy (n : Nat)
  | copyh (n : Nat)
  | copyCompletion (c : Nat)
  | hemTileArrival (n : Nat)
  | lexe (cl : Nat)
  | lexd (cl : Nat)
  | lexiconCompletion (c : Nat)
  | gatherArrival (n : Nat)
  | gatherDeadline (id x b : Nat)
  | memberFailed (id x m : Nat)
  | drawEnd (id x b : Nat)
  | batchSwap (id x : Nat)
  | timerRelease (n : Nat)
  | timerQueueAppend (n : Nat)
  | mediaTick (id h : Nat)
  | mediaTickElement (id h : Nat)
  | mediaRecord (id : Nat) (r : BitVec 256)
  | timeLock (tai : Word)
  | timeFollow
  | timeHoldover
  | commandDoorbell (p : Nat)
  | queueDoorbell (q : Nat) (w : Word)
  | claim (p : Nat)
  | unclaim (p : Nat)
  | qcreate (p : Nat)
  | qreset (p : Nat)
  | qdestroy (p : Nat)
  | seed (p : Nat)
  | vocab (p : Nat)
  | media (p : Nat)
  | map (p : Nat)
  | attest (p : Nat)
  | placementRound (id : Nat)
  | entryRelease (l g : Nat)
  | launchEnd (l : Nat)
  | barrier (q : Nat)
  | barrierComplete (q n : Nat)
  | copyPacket (q : Nat)
  | timerArmAbsolute (q : Nat)
  | timerArmPeriodic (q : Nat)
  | timerDisarm (q : Nat)
  | signalStore (q : Nat)
  | signalAdd (q : Nat)
  | signalDecrement (q : Nat)
  | committeeStart (q : Nat)
  | committeeSequence (q : Nat)
  | committeeStop (q : Nat)
  | nop (q : Nat)
  | quantumEnd (l : Nat)
  | preemptRequest (l : Nat)
  | forcedPreempt (l : Nat)
  | powerGood (wide : Bool) (absent : List Nat) (valid : Bool)
  | functionReady (f : Fin 5)
  | linkFailure (p : Fin 12)
  | throttleBubble (n : Nat)
  | powerCapWrite (w : Word)
  | deviceStatusRead
  | illegalInstruction (n : Nat) (detail : Fin 3)
  | fetchFault
  | lockRegained
  | powerGate (cl : Nat)
  | hostStore (p n : Nat) (w : Word)
  | peerAccess (p n : Nat) (op : Fin 12) (w w' : Word)
  deriving DecidableEq, Repr

end Sys2Proof
end

