-- ==== Sys2Proof/Machine/State.lean ====
section
/-! DEFINITION. The state of the VS-5120: every core, the units they share, the firmware's tables and the outside
inputs in flight, as plain data, and the state right after reset. -/

namespace Sys2Proof.Machine

/-! ### Vectors and sparse lists -/

/-- Element `i` of a vector, `d` outside it. -/
def vget {α : Type} {n : Nat} (v : Vector α n) (i : Nat) (d : α) : α := (v[i]?).getD d
/-- A vector with element `i` replaced; unchanged where `i` is outside it. -/
def vset {α : Type} {n : Nat} (v : Vector α n) (i : Nat) (x : α) : Vector α n := v.setIfInBounds i x

/-! ### Turns -/

/-- Which agent moves next. The list of turns is data of the state, so that a claim about every state covers every
order in which the agents may move (log 1). -/
inductive Turn where
  /-- The slot tries to issue its next instruction. -/
  | slot (c : Nat) (k : Fin 4)
  /-- One cycle of a core: the slot is chosen by 02 R19. -/
  | cycle (c : Nat)
  /-- A row of another agent takes place. -/
  | event (i : Instr)
  /-- The vector sequencer of a slot runs one execution. -/
  | seq (c : Nat) (k : Fin 4)
  /-- The sequencer of a slot keeps up to `n` executions behind the integer pipe from now on (09 R182). -/
  | lag (c : Nat) (k : Fin 4) (n : Nat)
  /-- The slot fetches ahead `n` words (08 R157). -/
  | buffer (c : Nat) (k : Fin 4) (n : Nat)
  /-- Device time passes (11 R206). -/
  | elapse (ns : Nat)
  /-- A core replaces its `n`-th cached translation (07 R144). -/
  | evict (c n : Nat)
  /-- Counter `i` (32 c + 8 k over 8) of a pseudo-channel counts `n` accesses (07 R149). -/
  | count (i n : Nat)
  /-- A double-bit soft error in the word at a physical address (13 R250). -/
  | poison (a : Nat)
  /-- Sensor or error counter `i` of the management window takes a value (14 R263). -/
  | sense (i : Nat) (w : Word)
  /-- From now on the stores of a slot to its own SRAM and to pages wait in its store buffer, or no longer (08 R150,
  R153). -/
  | defer (c : Nat) (k : Fin 4) (on : Bool)
  /-- Store `n` of a slot's buffer is performed (08 R150, R153). -/
  | perform (c : Nat) (k : Fin 4) (n : Nat)
  /-- A slot reads the word at a physical address ahead of the load that will take it (08 R153). -/
  | readAhead (c : Nat) (k : Fin 4) (a : Nat)
  /-- Read stream `n` of a slot reads its element `j` before it is popped (08 R158). -/
  | streamAhead (c : Nat) (k : Fin 4) (n : Fin 4) (j : Nat)
  /-- The running matrix command of a core, or the one that comes next, reads the word at a physical address early
  (08 R151, 09 R169). -/
  | matrixAhead (c a : Nat) (next : Bool)
  /-- Copy or lexicon command `n` reads the word at a physical address early (08 R151). -/
  | engineAhead (n a : Nat)
  /-- The results of copy or lexicon command `n` will be written word by word (08 R151). -/
  | slowWrites (n : Nat)
  /-- One word of the results of a command is written (08 R151). -/
  | engineWrite (n i : Nat)
  /-- A completed copy command goes ahead of the others that wait to report (09 R184). -/
  | finishFirst (n : Nat)
  /-- The board controller reads the management window (14 R263). -/
  | boardRead (o : Nat)
  /-- A UCIe module fails training, or trains again (14 R257). -/
  | module (n : Fin 16) (fails : Bool)
  /-- The barrier of domain `d` of a claim spans a Hokusyn port, or no longer (14 R258). -/
  | spanBarrier (claim : Nat) (d : Fin 8) (port : Fin 12) (on : Bool)
  /-- The link barrier message of the devices over a port has come for domain `d` of a claim (14 R258). -/
  | linkMessage (claim : Nat) (d : Fin 8) (port : Fin 12)
  deriving DecidableEq, Repr

/-! ### Slots -/

/-- 02 R18, R43. -/
inductive SlotRun where
  | idle | running | ended
  deriving DecidableEq, Repr

/-- Arrival state of a domain (02 R34, 13 R254). -/
inductive Arrival where
  | idle | arrived | released
  deriving DecidableEq, Repr

/-- A stream slot (09 R179-R181). -/
structure Stream where
  desc : Rec
  configured : Bool
  en : Bool
  ovr : Bool
  /-- Elements popped or pushed since it was enabled. -/
  pos : Nat
  /-- Elements of a read stream read before their pop: number and value (08 R158). -/
  early : List (Nat × Nat)
  deriving DecidableEq, Repr

/-- A vector instruction dispatched into the sequencer: its address and the value its g field had at dispatch
(22 R386). -/
structure VEntry where
  instr : Instr
  pc : VAddr
  g : Word
  deriving DecidableEq, Repr

/-- What the sequencer holds (09 R182, 21 R368). -/
inductive SeqItem where
  | op (e : VEntry)
  /-- A VLOOP body with repetitions left, the next execution being that of body entry `next`. -/
  | loop (body : List VEntry) (reps next : Nat)
  /-- The marker of SEN. -/
  | mark (n : Fin 4) (enable : Bool)
  deriving DecidableEq, Repr

/-- A VLOOP body still being dispatched. -/
structure Collect where
  left : Nat
  reps : Nat
  body : List VEntry
  deriving DecidableEq, Repr

/-- A trap of 13 R245 before it is taken. -/
structure Trap where
  code : Nat
  detail : Nat
  value : Word
  deriving DecidableEq, Repr

/-- What a slot waits for outside its ports (02 R18, R23, 07 R140, R146). -/
inductive Wait where
  | none
  /-- A remote load or atomic, an event-unit load or a shared request whose result has not arrived. -/
  | request
  /-- The result has arrived; the instruction issues again and takes it. -/
  | reply (v : Word)
  /-- A translation miss at this address, reported to the page-fault service. -/
  | page (va : Nat)
  /-- CREW with this descriptor, destination not yet written (02 R25). -/
  | crew (desc : Word)
  /-- The crew has formed; the member index. -/
  | formed (index : Nat)
  /-- The slot has met a different descriptor at CREW, and traps there (02 R25). -/
  | clash
  deriving DecidableEq, Repr

/-- The remote words a vector instruction waits for, and those that have arrived (22 R387). -/
structure VWait where
  sent : Bool
  pending : Nat
  got : List Host.Cell
  deriving DecidableEq, Repr

/-- A store of a slot that other agents cannot see yet (08 R150). -/
structure Pend where
  number : Nat
  /-- The bytes it writes, by physical address, rising. -/
  cells : List Host.Cell
  /-- Executions of the sequencer that come before it in program order. -/
  after : Nat
  /-- The scope of a release that did not wait for the earlier writes of the slot, none for a plain store. -/
  scope : Option Scope
  /-- The write stream that it is an element of. -/
  stream : Option Nat
  /-- Performed ahead of vector work, in a deterministic launch (08 R165) or at a forced pre-emption (08 R164): it stays
  listed until the work that comes before it in program order has been executed. -/
  done : Bool
  deriving DecidableEq, Repr

/-- A word that a slot has read ahead of the load that takes it (08 R153). -/
structure Early where
  addr : Nat
  value : Word
  /-- Registers that depend on a load issued since (08 R154): bit r for g register r, 24 + r for v, 56 + r for k. -/
  taint : Word
  /-- The core of the slot that had written the word last, if one had since some slot began to read ahead. -/
  writer : Option Nat
  /-- Commands with NOTIFY that have written the word since, and the elements of those that have completed: to pop one
  acquires the write (08 R160). -/
  cmds : List Nat
  stale : List Word
  deriving DecidableEq, Repr

/-- A byte that a scalar load has read past an earlier vector load of the slot (08 R153, R158): the value, and the
executions that come before the scalar load. -/
structure Passed where
  addr : Nat
  value : Byte
  left : Nat
  deriving DecidableEq, Repr

/-- A word that the leader has issued and a follower has not yet executed (02 R26). -/
structure CrewWord where
  instr : Instr
  pc : VAddr
  npc : VAddr
  /-- Where the leader went. -/
  target : VAddr
  deriving DecidableEq, Repr

/-- Crew membership (02 R25-R29). -/
structure Crew where
  desc : Word
  index : Nat
  size : Nat
  delay : Nat
  /-- Cycles for which the leader issues no crew word (02 R21). -/
  pause : Nat
  /-- Core and slot of each member, leader first. -/
  members : List (Nat × Nat)
  due : List CrewWord
  deriving DecidableEq, Repr

/-- One thread slot (02 R18). -/
structure Slot where
  run : SlotRun
  pc : VAddr
  /-- The address after the instruction that is issuing (20 R289). -/
  npc : VAddr
  g : Vector Word 24
  v : Vector Vec 32
  k : Vector Word 8
  inh : Bool
  vskip : Bool
  eerr : Bool
  trapvec : VAddr
  trapdef : Bool
  trapdetail : BitVec 8
  trapcode : BitVec 8
  trappc : VAddr
  trapval : Word
  scratch : Word
  level : BitVec 3
  prem : BitVec 16
  /-- Consecutive cycles ready and unpaused without issuing (02 R19). -/
  waited : Nat
  /-- The last issue attempt was held. -/
  held : Bool
  crew : Option Crew
  /-- As a follower: where the leader went. -/
  forced : Option VAddr
  /-- FMODE.ENV END ENO ENU ENX, bits 12:8. -/
  fen : BitVec 5
  /-- FMODE.RM. -/
  rm : BitVec 2
  fflags : BitVec 5
  arr : Vector Arrival 8
  streams : Vector Stream 4
  seq : List SeqItem
  lag : Nat
  collect : Option Collect
  /-- A body whose dispatch a trap interrupted; RETX goes on with it (log 14). -/
  shelved : Option Collect
  /-- A trap the sequencer has detected: cause and the vector instruction's address. -/
  deferred : Option Trap
  replay : List SeqItem
  wait : Wait
  /-- The sequencer has reported a translation miss and waits, and the slot with it (07 R146). -/
  vmiss : Bool
  vwait : VWait
  /-- Bytes that the remote load which the slot waits for takes from its own writes (08 R150). -/
  mine : List Host.Cell
  /-- The core's ports as they stood when the instruction that now waits for a reply issued: its own operands, already
  popped, are read from here when it issues again. -/
  taken : Option (Vector (List Word) 8)
  /-- The elements which that instruction popped when it issued, with their ports: a trap gives them back (03 R56). -/
  lent : List (Nat × Word)
  /-- Stores go to the buffer (08 R150). -/
  deferStores : Bool
  /-- Stores not yet performed, oldest first. -/
  buffer : List Pend
  /-- Words read ahead. -/
  early : List Early
  /-- For each load since the oldest word read ahead, newest first: the core of the slot that wrote what it returned, if a
  slot has written it since (08 R155). -/
  saw : List (Option Nat)
  /-- Release fences of a narrow scope that did not wait: a later store of the slot is a release for the writes numbered
  below (08 R156). -/
  fences : List (Scope × Nat)
  /-- Bytes of scalar loads that passed vector work. -/
  passed : List Passed
  /-- Words fetched ahead: the address of the first and the words. -/
  ahead : VAddr × List Half
  /-- An IFENCE has been executed, and the slot has fetched nothing since (08 R157). -/
  fencing : Bool
  /-- Domains at which the slot's next WAITB or SYNC finds that members disagree (02 R32). -/
  mismatch : BitVec 8
  deriving DecidableEq, Repr

/-! ### Cores -/

/-- Kind of a tile (09 R166, R167). -/
inductive TileKind where
  | fp32 | int32 | fp64 | odd
  deriving DecidableEq, Repr

/-- A tile; its elements as a sparse list of 64-bit cells, rising, with no zero listed: cell 64 r + c holds element
(r, c) of FP32 or INT32 kind in its low half, cell 32 r + c an FP64 element (09 R166). -/
structure Tile where
  valid : Bool
  dirty : Bool
  kind : TileKind
  /-- BLK code of the N tag: 0 none, 1 to 3 for blocks of 16, 32 and 64. -/
  blk : Nat
  seed : Nat
  data : List (Nat × Word)
  deriving DecidableEq, Repr

/-- A matrix command accepted by a core, with the slot and the address of its EPUSH (09 R169). -/
structure MxCmd where
  record : Rec
  slot : Nat
  pc : VAddr
  /-- Words that the shadow slot has fetched before the command runs: physical address and value. -/
  early : List (Nat × Word)
  deriving DecidableEq, Repr

/-- The running stage (09 R169, R173). -/
structure MxRun where
  cmd : MxCmd
  /-- The completion element, once the command has run. -/
  done : Option Word
  /-- The command has completed: F is 0, and only its element may still wait for q2. -/
  ended : Bool
  /-- Waits on the hem. -/
  hemWait : Bool
  /-- A page miss has been reported. -/
  missing : Bool
  /-- Pages of 64 KiB that the page-fault service refused. -/
  refused : List Nat
  /-- Words read early: physical address and value (08 R151). -/
  early : List (Nat × Word)
  deriving DecidableEq, Repr

/-- An entry of the hem buffer (06 R129). -/
structure HemTile where
  src : Nat
  seqno : Nat
  bytes : List Byte
  deriving DecidableEq, Repr

/-- One entry of an exchange plan that is due, or what is left of it (02 R37, R38). -/
structure PlanWrite where
  src : Nat
  dst : Nat
  doff : Nat
  words : Nat
  deriving DecidableEq, Repr

/-- A core's part in the sweeps of one domain (02 R33-R36). -/
structure DomRun where
  /-- Some slot has executed its arrival in this superstep. -/
  executed : Bool
  /-- The arrival has been sent and has not been counted at the corner. -/
  sent : Bool
  /-- The corner holds this core's arrival. -/
  counted : Bool
  /-- The release is on its way to this core. -/
  releasing : Bool
  /-- Between the release of sweep one and that of sweep two. -/
  exchange : Bool
  /-- Plan writes not yet written. -/
  due : List PlanWrite
  /-- Remote stores this phase drains, by request number below this one. -/
  drainBelow : Nat
  deriving DecidableEq, Repr

/-- The assay expression and its constants (10 R197, R198). -/
structure Assay where
  ops : List (BitVec 8)
  consts : Vector (BitVec 32) 4
  deriving DecidableEq, Repr

/-- A cached translation: the entry (07 R144, R145). -/
abbrev Entry := BitVec 128

/-- A partial message in q1 (02 R39). -/
structure Owner where
  slot : Nat
  left : Nat
  deriving DecidableEq, Repr

/-- One core (02 R18). -/
structure CoreState where
  slots : Vector Slot 4
  /-- Slot of the last instruction issued (02 R19). -/
  last : Fin 4
  doms : Vector Word 8
  runs : Vector DomRun 8
  ports : Vector (List Word) 8
  owner : Option Owner
  /-- Elements of q4 on their way that found it full. -/
  notes : List Word
  /-- Elements of q7 on their way that found it full (10 R196). -/
  backlog : List Word
  /-- Elements popped in the turn under way, with their ports; the model's own. -/
  pops : List (Nat × Word)
  /-- Elements of q7 for a core of a deterministic launch, which enter at the end of its quantum (12 R239). -/
  coming : List Word
  copyBuf : List Word
  lexBuf : List Word
  tiles : Vector Tile 8
  mxQueue : List MxCmd
  mxRun : Option MxRun
  mxDone : Word
  hem : List HemTile
  hemFound : BitVec 16
  hemExpect : BitVec 16
  hemSrc : BitVec 13
  hemCount : BitVec 6
  /-- K0, K1 and STEP0-3 in bytes 0 to 19 (07 R143). -/
  update : BitVec 256
  regions : Vector (BitVec 128) 8
  planbase : Word
  cycles : Word
  retired : Word
  assay : Option Assay
  /-- Launch and group resident on the core. -/
  resident : Option (Nat × Nat)
  /-- Stopped by a pre-emption (13 R255). -/
  stopped : Bool
  tlb : List Entry
  copyDone : Word
  lexDone : Word
  lastErr : Word
  /-- Quantum this core has ended, for a deterministic launch (12 R239). -/
  quantum : Nat
  deriving DecidableEq, Repr

/-! ### Units shared by cores -/

/-- A memory or unit operation that a request carries (07 R140-R143). -/
inductive Req where
  | load (n : Nat)
  | store (n : Nat) (w : Word)
  /-- An atomic: its operation number (0 AADD .. 6 ASWP, 7 ACAS), the operand and ACAS's expected value. -/
  | atomic (op n : Nat) (uns : Bool) (v x : Word)
  | upd (n : Nat) (v : Word)
  /-- A store of the bytes of one aligned word that a mask names (08 R151). -/
  | masked (mask : BitVec 8) (w : Word)
  deriving DecidableEq, Repr

/-- Who takes the reply of a remote access. -/
inductive ReplyTo where
  | pipe | vector | nobody
  deriving DecidableEq, Repr

/-- A remote access in flight (07 R140). -/
structure Remote where
  number : Nat
  core : Nat
  slot : Nat
  dst : Nat
  off : Nat
  req : Req
  reply : ReplyTo
  /-- Address of the instruction. -/
  pc : VAddr
  /-- Executions of the slot's sequencer that come before it in program order (08 R153). -/
  after : Nat
  /-- The scope of a release that did not wait for the earlier writes of the slot (08 R155). -/
  scope : Option Scope
  /-- The write stream that it is an element of. -/
  stream : Option Nat
  deriving DecidableEq, Repr

/-- A release of a narrow scope performed before the earlier writes of its slot, those numbered below (08 R155). -/
structure Narrow where
  core : Nat
  slot : Nat
  scope : Scope
  addr : Nat
  size : Nat
  below : Nat
  deriving DecidableEq, Repr

/-- A cluster barrier (02 R22). -/
structure ClusterBarrier where
  /-- Participants; 0 while disabled. -/
  count : Nat
  gen : BitVec 16
  /-- Core and slot of the loads waiting. -/
  waiters : List (Nat × Nat)
  deriving DecidableEq, Repr

/-- One set of a cluster's event unit (02 R24): cluster, launch and group (none: the firmware column's). -/
structure UnitSet where
  cluster : Nat
  group : Option (Nat × Nat)
  lines : Vector (Option Word) 16
  mutexes : Vector Bool 16
  barriers : Vector ClusterBarrier 4
  deriving DecidableEq, Repr

/-- A request on its way to an event unit, or blocked there (02 R22, R23). -/
structure UnitReq where
  core : Nat
  slot : Nat
  off : Nat
  /-- `some` data for ST, none for LD. -/
  data : Option Word
  /-- A load that has reached the unit and is blocked there. -/
  waiting : Bool
  deriving DecidableEq, Repr

/-- A write that waits in the wake latch of a gated cluster (08 R163): to its event unit, or to the SRAM of a core of it. -/
inductive Latched where
  | unit (r : UnitReq)
  | remote (r : Remote)
  | host (addr n : Nat) (w : Word)
  deriving DecidableEq, Repr

/-- An exchange message in flight (02 R39). -/
structure Message where
  src : Nat
  dst : Nat
  /-- Header with DST replaced by the sender, then the payload. -/
  elems : List Word
  deriving DecidableEq, Repr

/-- What a reported miss belongs to (07 R146). -/
inductive MissOf where
  | slot (c k : Nat)
  /-- The vector sequencer of a slot. -/
  | vector (c k : Nat)
  | matrix (c : Nat)
  | copyCmd (number : Nat)
  | lexCmd (number : Nat)
  deriving DecidableEq, Repr

/-- A miss reported to the page-fault service. -/
structure Miss where
  who : MissOf
  claim : Nat
  va : Nat
  write : Bool
  /-- Address of the instruction, or of the EPUSH. -/
  pc : VAddr
  deriving DecidableEq, Repr

/-- Where a copy or lexicon command came from. -/
inductive Pusher where
  | slot (c k : Nat)
  /-- A COPY packet: queue and ring number. -/
  | packet (q n : Nat)
  deriving DecidableEq, Repr

/-- A vocabulary: the tokens from 256 on, spelling and control mark (09 R186, R410). -/
structure Vocab where
  id : Nat
  tokens : List (List Byte × Bool)
  deriving DecidableEq, Repr

/-- A command of a cluster's copy or lexicon engine (09 R184, R186). -/
structure EngineCmd where
  number : Nat
  cluster : Nat
  pusher : Pusher
  /-- Address of the EPUSH. -/
  pc : VAddr
  claim : Nat
  record : Rec
  seeds : Vector Word 16
  /-- The engine has begun to serve it. -/
  started : Bool
  /-- The vocabulary it began with (09 R410). -/
  vocab : Option Vocab
  /-- A page miss has been reported. -/
  missing : Bool
  /-- Pages of 64 KiB that the page-fault service refused. -/
  refused : List Nat
  /-- The completion element, once the command has run. -/
  done : Option Word
  /-- Words read early: physical address and value (08 R151). -/
  early : List (Nat × Word)
  /-- The command runs in pieces, and its results are written word by word: the words not yet written, physical addresses
  and bytes. -/
  slow : Bool
  pend : List (List Host.Cell)
  /-- How far it has come: the next element or input item, the next output item, and the flags and scale bytes so far. -/
  next : Nat
  out : Nat
  flags : BitVec 5
  scales : List Byte
  /-- Its launch has ended by a fault: it reports to nobody (08 R164). -/
  orphan : Bool
  deriving DecidableEq, Repr

/-- A hem tile in flight (06 R129): the claim it was sent under and its COPYH, which ends when the tile has entered. -/
structure HemMsg where
  dst : Nat
  tile : HemTile
  claim : Nat
  number : Nat
  deriving DecidableEq, Repr

/-! ### Committees, media, timers -/

/-- A rectangle of cores. -/
structure Rect where
  x : Nat
  y : Nat
  w : Nat
  h : Nat
  deriving DecidableEq, Repr

/-- A member of a committee (10 R192). -/
structure Member where
  v : Bool
  retire : Bool
  sink : Nat
  vocab : Nat
  weight : BitVec 32
  ctxlim : Nat
  /-- The seat, in physical coordinates. -/
  seat : Rect
  fwd : Word
  rev : Word
  kvres : Nat
  /-- A fatal fault has ended a launch on its seat, and the firmware has not yet marked it FAILED (10 R199). -/
  faulted : Bool
  deriving DecidableEq, Repr

/-- 10 R205: member states. -/
inductive MemberRun where
  | active | lagging | retired | failed
  deriving DecidableEq, Repr

/-- 10 R199: step states. -/
inductive StepState where
  | idle | gather | combine | drawing | drawn | ended
  deriving DecidableEq, Repr

/-- The KV context of a member for one sequence (10 R194, 11 R217): its position in member tokens, the pages it holds by
their number in member-token order, and that it must withdraw at its next step. -/
structure KvContext where
  pos : Nat
  pages : List Nat
  withdraw : Bool
  deriving DecidableEq, Repr

/-- One batch slot of a committee (10 R199, R205). -/
structure BatchSlot where
  seqid : Word
  pos : Word
  seed : Word
  /-- State and pending posts of each member. -/
  members : List (MemberRun × Nat)
  state : StepState
  reason : Nat
  /-- Members with a counted arrival in this step. -/
  arrived : List Nat
  /-- Members present. -/
  present : List Nat
  /-- Device time of the step's first counted arrival. -/
  t0 : Nat
  chain : Nat
  short : Bool
  /-- The gather completed by its deadline. -/
  dl : Bool
  /-- Assay cores that have executed DRAW, and the root's parameters. -/
  draws : List Nat
  params : Word
  /-- Core, slot and address of the DRAW that started the draw engine, and the launch it belongs to (13 R250). -/
  drawer : Nat × Nat × VAddr
  drawLaunch : Option Nat
  /-- The packet of the sequence: queue and ring number. -/
  packet : Nat × Nat
  /-- SLOTOUT of that packet (12 R224). -/
  slotout : Word
  /-- The KV context of each member. -/
  kv : List KvContext
  deriving DecidableEq, Repr

/-- A sequence in the waiting table (10 R205). -/
structure Waiting where
  seqid : Word
  seed : Word
  slotout : Word
  packet : Nat × Nat
  /-- Its entry and GSTATE, where it has come back from the batch table. -/
  entry : Option (BatchSlot × BitVec 32)
  deriving DecidableEq, Repr

/-- An installed committee (10 R190-R205). -/
structure Committee where
  claim : Nat
  index : Nat
  /-- Q, resolved: the number of members with V = 1 where the descriptor says 0. -/
  quorum : Nat
  /-- SRC: the table is the source. -/
  table : Bool
  spec : Bool
  draft : Nat
  draftmax : Nat
  deadline : Nat
  vocab : Nat
  /-- The assay seat, in physical coordinates. -/
  aseat : Rect
  mbuf : Nat
  rbuf : Nat
  tablePtr : Word
  tableLen : Nat
  grammar : Word
  chainOff : Nat
  batchOff : Nat
  members : List Member
  slots : List (Nat × BatchSlot)
  /-- Batch slots whose IDLE sequence has gone back to the waiting table: neither case of 10 R205 makes them free. -/
  vacated : List Nat
  waiting : List Waiting
  /-- Stop packets that have started: queue and ring number. -/
  stopping : List (Nat × Nat)
  /-- Sequences that the last release of the assay seat's DOM0 lets the swapper move (10 R205). -/
  window : Nat
  deriving DecidableEq, Repr

/-- An arrival on its way to the gather logic (10 R199). -/
structure GatherMsg where
  claim : Nat
  index : Nat
  member : Nat
  slot : Nat
  kind : Nat
  chain : Nat
  deriving DecidableEq, Repr

/-- An installed media stream (11 R211-R216). -/
structure Media where
  claim : Nat
  handle : Nat
  period : Nat
  phase : Nat
  depth : Nat
  slots : Nat
  sink : Nat
  cmte : Nat
  member : Nat
  win : Nat
  tick : Word
  queue : Nat
  note : Nat
  sealCount : Nat
  /-- Filled positions of the open intervals: interval and count. -/
  fill : List (Nat × Nat)
  readPos : Nat
  late : Word
  early : Word
  full : Word
  unread : Word
  slid : Word
  /-- Intervals sealed since the last element pushed (11 R215). -/
  unreported : Nat
  /-- An element waits for room in q4. -/
  pendingNote : Bool
  /-- Ticks released and not yet taken by the deposit function: their device times, oldest first. -/
  ticks : List Nat
  /-- Tokens of the current sealed interval. -/
  current : Nat
  deriving DecidableEq, Repr

/-- What a timer releases (12 R224, 11 R211). -/
inductive TimerTarget where
  | queue (ptr : Word) (q : Nat)
  | element (core : Nat)
  | media (handle : Nat)
  deriving DecidableEq, Repr

/-- An armed timer (11 R208, R209). -/
structure Timer where
  id : Nat
  claim : Nat
  /-- 0 for an absolute timer. -/
  period : Nat
  due : Nat
  /-- No turn before this device time releases it. -/
  earliest : Nat
  /-- An absolute timer whose one release appended or pushed nothing: it stays armed (11 R210, 12 R224). -/
  spent : Bool
  target : TimerTarget
  deriving DecidableEq, Repr

/-- A released packet on its way into a queue (12 R224). -/
structure Append where
  claim : Nat
  queue : Nat
  packet : Rec
  deriving DecidableEq, Repr

/-! ### Queues, claims and launches -/

/-- 12 R219. -/
inductive QueueState where
  | absent | active | error | draining
  deriving DecidableEq, Repr

/-- A packet that runs: ring number and completion signal (12 R222). -/
structure Running where
  number : Nat
  csig : Word
  /-- A BARRIER's signals. -/
  barrier : Option (List Word)
  deriving DecidableEq, Repr

/-- A LAUNCH packet that waits for placement (12 R233-R235). -/
structure Placing where
  number : Nat
  packet : Rec
  groups : Nat
  waits : Nat
  reserving : Bool
  reserved : List Rect
  /-- Logical cores whose plan passes offset 0xF_8000 (12 R227). -/
  far : List Nat
  deriving DecidableEq, Repr

/-- The fault record of a queue (13 R246, 12 R223). -/
structure FaultRecord where
  cause : Word
  pc : Word
  value : Word
  core : Nat
  deriving DecidableEq, Repr

/-- A hardware queue (12 R218). -/
structure Queue where
  state : QueueState
  base : Word
  host : Bool
  logsize : Nat
  prio : Nat
  claim : Nat
  wr : Nat
  rd : Nat
  running : List Running
  placing : Option Placing
  /-- The LAUNCH packet that stood at the head at the end of the last placement round: its coming shared that round. -/
  noted : Option Nat
  fault : Option FaultRecord
  deriving DecidableEq, Repr

/-- A claim (12 R229). -/
structure Claim where
  id : Nat
  rect : Rect
  ctltok : Bool
  seeds : Vector Word 16
  vocabs : List Vocab
  /-- A launch has ended since the last placement round (12 R233). -/
  ended : Bool
  /-- The last multiple of 10 µs of device time, counted, that has had its round. -/
  rounds : Nat
  deriving DecidableEq, Repr


/-- How far a pre-emption has gone (13 R251). -/
inductive Preempt where
  | none | clean | forced | saved
  deriving DecidableEq, Repr

/-- A buffered shared write of a deterministic launch (08 R165). -/
structure Buffered where
  logical : Nat
  addr : Nat
  n : Nat
  data : Word
  isUpd : Bool
  /-- Bytes of the word that a masked store names, 0 for the `n` bytes from `addr`. -/
  mask : BitVec 8
  /-- Address of the instruction. -/
  pc : VAddr
  deriving DecidableEq, Repr

/-- A word that the exchange of another domain than DOM0 has written in a phase: the cores that see it already, and its
value before, none for a word that could not be corrected. -/
structure MidWrite where
  members : List Nat
  addr : Nat
  value : Option Word
  deriving DecidableEq, Repr

/-- The compute phase of a group of a deterministic launch (08 R165), whose DOM0 is its own (12 R225). -/
structure Phase where
  buffered : List Buffered
  /-- Words that shared loads have read in this phase. -/
  reads : List Nat
  /-- Values at the start of the phase of the words written in it: address and value, none for a word that could not be
  corrected. -/
  olds : List (Nat × Option Word)
  /-- Words written in this phase by cores' self-window stores, or by another group's exchange. -/
  owned : List Nat
  /-- Words written by the exchanges of the group's other domains. -/
  mids : List MidWrite
  /-- Messages moved into the buffer of shared stores (02 R39). -/
  messages : List Message
  /-- Device time of the release that opened the phase (11 R207). -/
  openTime : Nat
  deriving DecidableEq, Repr

/-- A group of a launch: its rectangle, whether its slots have been started, and its compute phase. -/
structure Group where
  rect : Rect
  entered : Bool
  phase : Phase
  deriving DecidableEq, Repr

/-- A shared request in the task queue (12 R239). -/
inductive TaskReq where
  | epush (engine : Nat) (record : Rec)
  | qpush (q : Nat) (packet : Rec)
  | mpop (handle : Nat)
  | unit (req : UnitReq)
  deriving DecidableEq, Repr

/-- An entry of the task queue, or a result that waits for the next quantum end. -/
structure Task where
  core : Nat
  slot : Nat
  /-- Address of the instruction. -/
  pc : VAddr
  logical : Nat
  req : TaskReq
  /-- The quantum whose end served it, and the result. -/
  served : Option (Nat × Option Word)
  deriving DecidableEq, Repr

/-- A launch (12 R225-R227, R233-R241). -/
structure Launch where
  id : Nat
  queue : Nat
  number : Nat
  claim : Nat
  csig : Word
  entry : Nat
  w : Nat
  h : Nat
  slots : BitVec 4
  args : Word
  astride : Nat
  det : Bool
  quantumLen : Nat
  groups : List Group
  seeds : Vector Word 16
  backfilled : Bool
  preempt : Preempt
  /-- Quantum the launch is in (12 R239). -/
  quantum : Nat
  tasks : List Task
  deriving DecidableEq, Repr

/-- A launch that a fault or the firmware has ended while commands of its cores still run: its completion signal follows
them with a value (08 R164). -/
structure Closing where
  queue : Nat
  number : Nat
  claim : Nat
  csig : Word
  value : Word
  commands : List Nat
  deriving DecidableEq, Repr

/-! ### The device -/

/-- A barrier of a claim that spans devices over a Hokusyn port (14 R258): the device's own members have all arrived and
their message has been sent, and the other devices' has come. -/
structure SpanBarrier where
  claim : Nat
  domain : Nat
  port : Nat
  sent : Bool
  come : Bool
  deriving DecidableEq, Repr

/-- What a suspended launch has on a core and the save area has no place for (log 13). -/
structure Kept where
  core : Nat
  state : CoreState
  deriving DecidableEq, Repr

/-- 11 R206. -/
inductive TimeMode where
  | free | locked | holdover
  deriving DecidableEq, Repr

/-- What the device reports to its firmware. -/
inductive Report where
  | messageDropped | remoteRefused | elementDropped | releaseDropped | signalDropped | slotoutDropped
  | doorbellIgnored | recordDropped | linkFailed | machineCheck | bringUpRejected | moduleFailed
  deriving DecidableEq, Repr

/-- The core and slot a step is about. -/
structure Cur where
  core : Nat
  slot : Fin 4
  deriving DecidableEq, Repr

/-- The whole machine. Cores are listed by physical id, rising; a core not listed is as at reset. -/
structure State where
  schedule : List Turn
  cur : Cur
  /-- The model's own count of free values used (log 7). -/
  free : Nat
  /-- The model's own number of the next request, command or launch. -/
  fresh : Nat
  cores : List (Nat × CoreState)
  mem : List Host.Cell
  /-- Words that cannot be corrected (13 R250). -/
  poisoned : List Nat
  remotes : List Remote
  /-- Releases of a narrow scope (08 R155). -/
  narrow : List Narrow
  /-- Words that slots have written while some slot held words read ahead, with the core of the last writer; the model's
  own. -/
  recent : List (Nat × Nat)
  units : List UnitSet
  unitReqs : List UnitReq
  /-- Power-gated clusters (14 R261). -/
  gated : List Nat
  /-- One write for each gated cluster (08 R163). -/
  latches : List (Nat × Latched)
  messages : List Message
  misses : List Miss
  copies : List EngineCmd
  lexicons : List EngineCmd
  hems : List HemMsg
  arrivals : List GatherMsg
  committees : List Committee
  media : List Media
  timers : List Timer
  appends : List Append
  queues : List (Nat × Queue)
  claims : List Claim
  launches : List Launch
  closing : List Closing
  /-- Host command records accepted by the doorbell and not yet complete (12 R231). -/
  commands : List Nat
  time : Nat
  timeMode : TimeMode
  /-- The TAI that device time waits for (11 R206). -/
  timeHold : Option Nat
  ready : BitVec 5
  wide : Bool
  up : Bool
  absent : List Nat
  throttled : Bool
  pwr : BitVec 2
  temps : Vector Word 4
  power : Word
  cap : Word
  eccSram : Word
  eccHbm : Word
  eccLpddr : Word
  checks : Word
  /-- M[h][j] at 10 h + j (07 R148). -/
  masks : Vector (BitVec 31) 40
  /-- Channel counters that are not 0, by 4 c + k, rising (07 R149). -/
  counters : List (Nat × Word)
  linksDown : List Nat
  /-- Barriers that span devices (14 R258). -/
  spans : List SpanBarrier
  /-- UCIe modules that fail training (14 R257). -/
  modulesDown : List Nat
  reports : List Report
  /-- The last value a host or management read returned (14 R259, R263). -/
  lastRead : Word
  /-- What the opaque regions of a save area stand for, by the handle that CTXS writes into them (log 13). -/
  contexts : List (Nat × CoreState)
  /-- What stays in place of a suspended launch, by the physical address of the save area that was written with it
  (log 13). -/
  kept : List (Nat × Kept)
  deriving DecidableEq, Repr

/-! ### Outcomes of a step -/

/-- Why a step faults. -/
inductive Fault where
  /-- Raised by the step when a turn names a core that the device does not have; safe: no agent exists there. -/
  | noSuchCore
  deriving DecidableEq, Repr

/-- Why a step is refused. -/
inductive Refusal where
  /-- Raised by exec for an instruction without a meaning; safe: the model stops. -/
  | notModelled (mnemonic : String)
  /-- Raised by the step for a turn of another agent whose row names no agent of the device; safe: none exists. -/
  | illFormed
  deriving DecidableEq, Repr

/-- What a step answers. -/
abbrev Outcome := Host.Outcome State Fault Refusal

/-! ### Reset -/

/-- A stream slot at reset. -/
def Stream.reset : Stream := ⟨0, false, false, false, 0, []⟩

/-- A slot at reset: idle, every register zero (02 R18, 13 R243, log 5). -/
def Slot.reset : Slot where
  run := .idle
  pc := 0
  npc := 0
  g := Vector.replicate 24 0
  v := Vector.replicate 32 0
  k := Vector.replicate 8 0
  inh := false
  vskip := false
  eerr := false
  trapvec := 0
  trapdef := false
  trapdetail := 0
  trapcode := 0
  trappc := 0
  trapval := 0
  scratch := 0
  level := 0
  prem := 0
  waited := 0
  held := false
  crew := none
  forced := none
  fen := 0
  rm := 0
  fflags := 0
  arr := Vector.replicate 8 .idle
  streams := Vector.replicate 4 Stream.reset
  seq := []
  lag := 0
  collect := none
  shelved := none
  deferred := none
  replay := []
  wait := .none
  vmiss := false
  vwait := ⟨false, 0, []⟩
  mine := []
  taken := none
  lent := []
  deferStores := false
  buffer := []
  early := []
  saw := []
  fences := []
  passed := []
  ahead := (0, [])
  fencing := false
  mismatch := 0

/-- An empty tile (09 R168). -/
def Tile.reset : Tile := ⟨false, false, .fp32, 0, 0, []⟩

/-- A domain with no arrival. -/
def DomRun.reset : DomRun := ⟨false, false, false, false, false, [], 0⟩

/-- The update function at launch entry, STEP0 = 0x0D and nothing else (07 R143); taken at reset too (log 5). -/
def updateEntry : BitVec 256 := 0x0D <<< 128

/-- A core at reset. -/
def CoreState.reset : CoreState where
  slots := Vector.replicate 4 Slot.reset
  last := 3
  doms := Vector.replicate 8 0
  runs := Vector.replicate 8 DomRun.reset
  ports := Vector.replicate 8 []
  owner := none
  notes := []
  backlog := []
  pops := []
  coming := []
  copyBuf := []
  lexBuf := []
  tiles := Vector.replicate 8 Tile.reset
  mxQueue := []
  mxRun := none
  mxDone := 0
  hem := []
  hemFound := 0
  hemExpect := 0
  hemSrc := 0
  hemCount := 0
  update := updateEntry
  regions := Vector.replicate 8 0
  planbase := 0
  cycles := 0
  retired := 0
  assay := none
  resident := none
  stopped := false
  tlb := []
  copyDone := 0
  lexDone := 0
  lastErr := 0
  quantum := 0

/-- A compute phase in which nothing has happened, opened at a device time. -/
def Phase.start (t : Nat) : Phase := ⟨[], [], [], [], [], [], t⟩

/-- An absent queue. -/
def Queue.reset : Queue := ⟨.absent, 0, false, 1, 0, 0, 0, 0, [], none, none, none⟩

/-- The channel masks at reset: M[0][j] = 2^j and M[1..3][j] = 2^j + 2^(j+10) + 2^(j+20) (07 R148). -/
def masksReset : Vector (BitVec 31) 40 :=
  Vector.ofFn (fun i : Fin 40 =>
    let j := i.val % 10
    if i.val < 10 then BitVec.ofNat 31 (2 ^ j) else BitVec.ofNat 31 (2 ^ j + 2 ^ (j + 10) + 2 ^ (j + 20)))

/-- The machine right after reset: no claim, no queue, no launch, device time 0 (11 R206, 12 R219, 14 R259). -/
def State.reset : State where
  schedule := []
  cur := ⟨0, 0⟩
  free := 0
  fresh := 0
  cores := []
  mem := []
  poisoned := []
  remotes := []
  narrow := []
  recent := []
  units := []
  unitReqs := []
  gated := []
  latches := []
  messages := []
  misses := []
  copies := []
  lexicons := []
  hems := []
  arrivals := []
  committees := []
  media := []
  timers := []
  appends := []
  queues := []
  claims := []
  launches := []
  closing := []
  commands := []
  time := 0
  timeMode := .free
  timeHold := none
  ready := 0
  wide := false
  up := false
  absent := []
  throttled := false
  pwr := 0
  temps := Vector.replicate 4 0
  power := 0
  cap := 0
  eccSram := 0
  eccHbm := 0
  eccLpddr := 0
  checks := 0
  masks := masksReset
  counters := []
  linksDown := []
  spans := []
  modulesDown := []
  reports := []
  lastRead := 0
  contexts := []
  kept := []

end Sys2Proof.Machine
end

