-- ==== Sys2Proof/Machine/Bits.lean ====
section
/-! DEFINITION. Bit fields, byte order, extension and the small list helpers that every unit uses. -/

namespace Sys2Proof.Machine

/-! ### Sparse lists keyed by a number, rising -/

/-- The entry of key `i`, or `d`. -/
def lookupD {α : Type} (d : α) (i : Nat) : List (Nat × α) → α
  | [] => d
  | (j, x) :: l => if j = i then x else lookupD d i l

/-- The entry of key `i`, if listed. -/
def find? {α : Type} (i : Nat) : List (Nat × α) → Option α
  | [] => none
  | (j, x) :: l => if j = i then some x else find? i l

/-- The list with the entry of key `i` set, in its place. -/
def insertKey {α : Type} (i : Nat) (x : α) : List (Nat × α) → List (Nat × α)
  | [] => [(i, x)]
  | (j, y) :: l => if i < j then (i, x) :: (j, y) :: l else if i = j then (i, x) :: l else (j, y) :: insertKey i x l

/-- The list without key `i`. -/
def eraseKey {α : Type} (i : Nat) (l : List (Nat × α)) : List (Nat × α) := l.filter (fun p => p.1 != i)

/-- The list without its `i`-th element. -/
def dropAt {α : Type} (l : List α) (i : Nat) : List α := l.eraseIdx i

/-- Replaces the first element for which `p` holds. -/
def replaceFirst {α : Type} (p : α → Bool) (f : α → α) : List α → List α
  | [] => []
  | x :: l => if p x then f x :: l else x :: replaceFirst p f l

/-! ### Words and bytes -/

/-- Bits `lo` to `lo + n - 1` of a word, as a number. -/
def bits (w : Word) (lo n : Nat) : Nat := w.toNat / 2 ^ lo % 2 ^ n

/-- Bit `i` of a word. -/
def bit (w : Word) (i : Nat) : Bool := w.getLsbD i

/-- A number as a word. -/
def word (n : Nat) : Word := BitVec.ofNat 64 n

/-- An integer as a word, modulo 2^64. -/
def wordOfInt (v : Int) : Word := BitVec.ofInt 64 v

/-- A field placed at bit `lo`. -/
def fieldAt (lo : Nat) (v : Nat) : Word := word v <<< lo

/-- One bit placed at bit `lo`. -/
def flagAt (lo : Nat) (b : Bool) : Word := if b then word 1 <<< lo else 0

/-- The little-endian number of a byte list (00 R3). -/
def leNat : List Byte → Nat
  | [] => 0
  | b :: bs => b.toNat + 256 * leNat bs

/-- The `n` little-endian bytes of a number. -/
def leBytes : Nat → Nat → List Byte
  | 0, _ => []
  | n + 1, v => BitVec.ofNat 8 v :: leBytes n (v / 256)

/-- The big-endian number of a byte list. -/
def recOf (bs : List Byte) : Rec := BitVec.ofNat 512 (leNat bs)

/-- Bytes `lo` to `lo + n - 1` of a record, as a number. -/
def recField (r : Rec) (lo n : Nat) : Nat := r.toNat / 2 ^ (8 * lo) % 2 ^ (8 * n)

/-- Bytes `lo` to `lo + n - 1` of a record, as a signed integer. -/
def recSigned (r : Rec) (lo n : Nat) : Int :=
  let v := recField r lo n
  if 2 * v < 2 ^ (8 * n) then (v : Int) else (v : Int) - 2 ^ (8 * n)

/-- A word of a record. -/
def recWord (r : Rec) (lo : Nat) : Word := word (recField r lo 8)

/-- xorshift64 with shifts 13, 7, 17 (06 R117). -/
def xs (x : Word) : Word :=
  let x := x ^^^ (x <<< 13)
  let x := x ^^^ (x >>> 7)
  x ^^^ (x <<< 17)

/-! ### Scalar types (03 R60) -/

end Sys2Proof.Machine

namespace Sys2Proof

/-- Width of a scalar type in bits. -/
def ScalarType.width : ScalarType → Nat
  | .d => 64 | .w => 32 | .h => 16 | .b => 8 | .dz => 64 | .wz => 32 | .hz => 16 | .bz => 8

/-- Signedness of a scalar type. -/
def ScalarType.signed : ScalarType → Bool
  | .d => true | .w => true | .h => true | .b => true
  | .dz => false | .wz => false | .hz => false | .bz => false

end Sys2Proof

namespace Sys2Proof.Machine

/-- The low `w` bits, extended to 64 by signedness. -/
def extBits (w : Nat) (signed : Bool) (x : Word) : Word :=
  if signed then (x.setWidth w).signExtend 64 else (x.setWidth w).setWidth 64

/-- `ext(x, y)` of 20 R289: the low width bits of `x`, extended to 64 by the type's signedness. -/
def ext (y : ScalarType) (x : Word) : Word := extBits y.width y.signed x

/-! ### Geometry (01 R9) -/

/-- Column of a core. -/
def colOf (c : Nat) : Nat := c % 64
/-- Row of a core. -/
def rowOf (c : Nat) : Nat := c / 64
/-- Physical id of the core at a column and row. -/
def coreAt (x y : Nat) : Nat := y * 64 + x
/-- Cluster of a core. -/
def clusterOf (c : Nat) : Nat := rowOf c / 4 * 16 + colOf c / 4
/-- Home core of a cluster. -/
def homeOf (cl : Nat) : Nat := coreAt (4 * (cl % 16)) (4 * (cl / 16))
/-- The core is a cluster's home core. -/
def isHome (c : Nat) : Bool := homeOf (clusterOf c) == c

/-- The core lies in the rectangle. -/
def Rect.has (r : Rect) (c : Nat) : Bool :=
  r.x ≤ colOf c && colOf c < r.x + r.w && r.y ≤ rowOf c && rowOf c < r.y + r.h

/-- Row-major number of a core in the rectangle. -/
def Rect.index (r : Rect) (c : Nat) : Nat := (rowOf c - r.y) * r.w + (colOf c - r.x)

/-- The core of a row-major number. -/
def Rect.coreOf (r : Rect) (n : Nat) : Nat := coreAt (r.x + n % r.w) (r.y + n / r.w)

/-- The cores of a rectangle in row-major order. -/
def Rect.cores (r : Rect) : List Nat := (List.range (r.w * r.h)).map r.coreOf

/-- Two rectangles share a core. -/
def Rect.overlaps (a b : Rect) : Bool :=
  a.x < b.x + b.w && b.x < a.x + a.w && a.y < b.y + b.h && b.y < a.y + a.h

/-- The first rectangle holds every core of the second. -/
def Rect.contains (a b : Rect) : Bool :=
  a.x ≤ b.x && b.x + b.w ≤ a.x + a.w && a.y ≤ b.y && b.y + b.h ≤ a.y + a.h

end Sys2Proof.Machine
end

