-- ==== Sys2Proof/Machine/Memory.lean ====
section
/-! DEFINITION. Memory as one canonical list of cells: addresses strictly rising, and no cell that holds 0, which is what
an unlisted address reads as (log 3); the physical map (log 4). -/

namespace Sys2Proof.Machine

/-- What an unlisted byte reads as (log 3, DESIGN CHOICE). -/
def unlisted : Byte := 0

/-- The canonical form, from a lower bound on the addresses. -/
def memOkFrom : Nat → List Host.Cell → Bool
  | _, [] => true
  | lo, (a, b) :: m => decide (lo ≤ a) && b != unlisted && memOkFrom (a + 1) m

/-- The canonical form of a memory. -/
def Memory.wf (m : List Host.Cell) : Bool := memOkFrom 0 m

/-- One byte of memory. -/
def readCell : List Host.Cell → Nat → Byte
  | [], _ => unlisted
  | (a, b) :: m, i => if a = i then b else if i < a then unlisted else readCell m i

/-- Memory with one byte written. -/
def writeCell : List Host.Cell → Nat → Byte → List Host.Cell
  | [], i, x => if x = unlisted then [] else [(i, x)]
  | (a, b) :: m, i, x =>
    if i < a then (if x = unlisted then (a, b) :: m else (i, x) :: (a, b) :: m)
    else if a = i then (if x = unlisted then m else (i, x) :: m)
    else (a, b) :: writeCell m i x

/-- `n` bytes from an address on. -/
def readCells (m : List Host.Cell) (a : Nat) : Nat → List Byte
  | 0 => []
  | n + 1 => readCell m a :: readCells m (a + 1) n

/-- Memory with bytes written from an address on. -/
def writeCells (m : List Host.Cell) (a : Nat) : List Byte → List Host.Cell
  | [] => m
  | b :: bs => writeCells (writeCell m a b) (a + 1) bs

/-- Memory with `n` bytes cleared from an address on. -/
def clearCells (m : List Host.Cell) (a n : Nat) : List Host.Cell := m.filter (fun c => c.1 < a || a + n ≤ c.1)

/-! ### The physical map: every memory of the device and of its neighbours at a place of its own (log 4) -/

/-- Byte `o` of a core's 1 MiB of SRAM. -/
def sram (c o : Nat) : Nat := c * 2 ^ 20 + o
/-- First byte of HBM. -/
def hbmBase : Nat := 2 ^ 40
/-- First byte of the LPDDR tier. -/
def lpddrBase : Nat := 2 ^ 42
/-- First byte of host memory. -/
def hostBase : Nat := 2 ^ 56
/-- First byte of the firmware range. -/
def firmwareBase : Nat := 2 ^ 58
/-- First byte of a peer device's memory. -/
def peerBase (p : Nat) : Nat := 2 ^ 60 + p * 2 ^ 52

/-- The 8-byte word that holds a byte. -/
def wordAddr (a : Nat) : Nat := a / 8 * 8

/-- Cells, rising by address, cut into runs of consecutive bytes within one aligned word. -/
def wordRuns : List (Nat × Byte) → List (Nat × List Byte)
  | [] => []
  | (a, b) :: l =>
    match wordRuns l with
    | (x, bs) :: rs => if x = a + 1 ∧ x % 8 ≠ 0 then (a, b :: bs) :: rs else (a, [b]) :: (x, bs) :: rs
    | [] => [(a, [b])]

/-- Cells, rising by address, in groups that lie in one aligned word each. -/
def byWord : List (Nat × Byte) → List (List (Nat × Byte))
  | [] => []
  | (a, b) :: l =>
    match byWord l with
    | ((x, y) :: g) :: gs => if wordAddr x = wordAddr a then ((a, b) :: (x, y) :: g) :: gs else [(a, b)] :: ((x, y) :: g) :: gs
    | gs => [(a, b)] :: gs

/-- Bytes from an address on, as cells. -/
def cellsFrom (a : Nat) : List Byte → List (Nat × Byte)
  | [] => []
  | b :: bs => (a, b) :: cellsFrom (a + 1) bs

/-- The words that an access touches. -/
def wordsOf (a n : Nat) : List Nat :=
  (List.range ((a + n + 7) / 8 - a / 8)).map (fun i => wordAddr a + 8 * i)

end Sys2Proof.Machine
end

