-- ==== Sys2Proof/WellFormed.lean ====
section
/-! DEFINITION. Which terms of Instr stand for an instruction that some chain of spec/03 encodes, and which rows of
another agent name an agent of the device. -/

namespace Sys2Proof

/-- Cores of the device (01 R9). -/
def numCores : Nat := 5120
/-- Clusters of 16 cores (01 R9). -/
def numClusters : Nat := 320
/-- Queues of the device (12 R218). -/
def numQueues : Nat := 1024

/-- Width of a lane in bits (03 R61). -/
def LaneType.width : LaneType → Nat
  | .fp32 => 32 | .bf16 => 16 | .fp16 => 16 | .i32 => 32 | .i16 => 16 | .i8 => 8 | .fp64 => 64 | .i64 => 64

/-- Lanes of a vector register, `L(t)` of 22 R386. -/
def LaneType.lanes : LaneType → Nat
  | .fp32 => 16 | .bf16 => 32 | .fp16 => 32 | .i32 => 16 | .i16 => 32 | .i8 => 64 | .fp64 => 8 | .i64 => 8

/-- The float lane types. -/
def LaneType.isFloat : LaneType → Bool
  | .fp32 => true | .bf16 => true | .fp16 => true | .fp64 => true
  | .i32 => false | .i16 => false | .i8 => false | .i64 => false

/-- Largest block code of VHAD and VIHAD for a lane type: blocks of 2^(blk+3) (06 R120, R124); 0 where the type is
refused. -/
def LaneType.maxBlk : LaneType → Nat
  | .fp32 => 1 | .i32 => 1 | .bf16 => 2 | .fp16 => 2 | .i16 => 2 | .i8 => 3 | .fp64 => 0 | .i64 => 0

/-- The control register numbers of 03 R71. -/
def csrListed (n : Nat) : Bool :=
  n ≤ 0x005 || (0x010 ≤ n && n ≤ 0x012) || (0x020 ≤ n && n ≤ 0x027) || (0x030 ≤ n && n ≤ 0x032) ||
  n == 0x040 || n == 0x041 || n == 0x050 || n == 0x051 || (0x060 ≤ n && n ≤ 0x070) ||
  n == 0x080 || n == 0x081 || n == 0x090 || n == 0x0A0

/-- `v` lies in the range of `bits` signed bits. -/
def fitsSigned (bits : Nat) (v : Int) : Bool :=
  bits != 0 && -(2 ^ (bits - 1) : Int) ≤ v && v < (2 ^ (bits - 1) : Int)

/-- `v` can be written with at most `n` IMM prefixes over `w` bits of the base word (03 R51). -/
def immFits (w n : Nat) (v : Int) : Bool := v == 0 || fitsSigned (w + 8 * n) v

/-- QUAL is needed for a type code other than 0, a scope or an order (03 R49). -/
def qualLen (nonzero : Bool) : Nat := if nonzero then 1 else 0

/-- The IMM prefixes left beside a displacement form's other prefixes (03 R51): PAGE, QUAL and OPB as present. -/
def dispFits (page : Nat) (qual opb : Bool) (v : Int) : Bool := immFits 0 (4 - (page + qualLen qual + qualLen opb)) v

/-- The atomics' types: 64 and 32 bits (03 R60). -/
def ScalarType.atomicOk : ScalarType → Bool
  | .d => true | .w => true | .dz => true | .wz => true
  | .h => false | .b => false | .hz => false | .bz => false

/-- The signed scalar types, those of ST (03 R60). -/
def ScalarType.storeOk : ScalarType → Bool
  | .d => true | .w => true | .h => true | .b => true
  | .dz => false | .wz => false | .hz => false | .bz => false

/-- `.d` or `.w`, the types of UPD (03 R60). -/
def ScalarType.updOk : ScalarType → Bool
  | .d => true | .w => true | .h => false | .b => false
  | .dz => false | .wz => false | .hz => false | .bz => false

/-- Position and length of BFX and BFI (20 R301). -/
def fieldOk (pos len : Nat) : Bool := pos < 64 && 1 ≤ len && len ≤ 64 && pos + len ≤ 64

/-- An agent's slot: the core is one of the device. -/
def coreOk (c : Nat) : Bool := c < numCores

/-- The well-formed terms: for an instruction, its chain exists (03 R44-R64); for a row of another agent, the core,
cluster or queue it names is one of the device. -/
def Instr.wellFormed : Instr → Bool
  | .ill _ _ => true
  | .mov _ _ _ => true
  | .li _ e => immFits 5 4 e
  | .add _ _ _ _ => true
  | .sub _ _ _ _ => true
  | .and _ _ _ _ => true
  | .or _ _ _ _ => true
  | .xor _ _ _ _ => true
  | .shl _ _ _ _ => true
  | .shr _ _ _ _ => true
  | .sra _ _ _ _ => true
  | .addi _ e y => immFits 5 (4 - qualLen (y != .d)) e
  | .mul _ _ _ _ => true
  | .mulh _ _ _ _ => true
  | .div _ _ _ _ => true
  | .rem _ _ _ _ => true
  | .slt _ _ _ _ => true
  | .clz _ _ _ => true
  | .popc _ _ _ => true
  | .clmul _ _ _ _ => true
  | .clmulh _ _ _ _ => true
  | .padd _ _ e => immFits 0 4 e
  | .pset _ _ => true
  | .pget _ _ => true
  | .ld _ _ x e y sc o => dispFits 0 (y != .d || sc != .co || o != .rlx) x.isSome e &&
      (o == .rlx || o == .acq)
  | .st _ _ x e y sc o => dispFits 0 (y != .d || sc != .co || o != .rlx) x.isSome e &&
      (o == .rlx || o == .rel) && y.storeOk
  | .bz _ e => immFits 5 4 e
  | .bnz _ e => immFits 5 4 e
  | .bltz _ e => immFits 5 4 e
  | .bgez _ e => immFits 5 4 e
  | .j e => immFits 10 4 e
  | .jal e => immFits 10 4 e
  | .jr _ _ => true
  | .pause e => immFits 5 4 e
  | .pauseEnd c _ => coreOk c
  | .fence _ o => o != .rlx
  | .ifence => true
  | .csrr _ n => csrListed n
  | .csrw _ n => csrListed n
  | .sync _ => true
  | .arrive _ => true
  | .waitb _ => true
  | .trap e => immFits 5 4 e
  | .min _ _ _ _ => true
  | .max _ _ _ _ => true
  | .epush _ _ => true
  | .qpush _ _ => true
  | .clkr _ => true
  | .bfx _ _ pos len => fieldOk pos len
  | .bfi _ _ pos len => fieldOk pos len
  | .aadd _ _ _ y _ _ => y.atomicOk
  | .aand _ _ _ y _ _ => y.atomicOk
  | .aor _ _ _ y _ _ => y.atomicOk
  | .axor _ _ _ y _ _ => y.atomicOk
  | .amin _ _ _ y _ _ => y.atomicOk
  | .amax _ _ _ y _ _ => y.atomicOk
  | .aswp _ _ _ y _ _ => y.atomicOk
  | .acas _ _ _ y _ _ => y.atomicOk
  | .upd _ _ y sc o => y.updOk && sc != .sy && (o == .rlx || o == .rel)
  | .updcfg _ _ => true
  | .scfg _ _ => true
  | .senEnable _ => true
  | .senDisable _ => true
  | .pref _ _ e => immFits 0 3 e
  | .vld _ _ e x t => dispFits 1 (t != .fp32) (x != 0) e
  | .vst _ _ e x t => dispFits 1 (t != .fp32) (x != 0) e
  | .vldc _ _ e x t => dispFits 1 (t != some .fp32) (x != 0) e
  | .vstc _ _ e x t => dispFits 1 (t != .fp32) (x != 0) e
  | .vadd _ _ _ _ => true
  | .vsub _ _ _ _ => true
  | .vmul _ _ _ _ => true
  | .vfma _ _ _ _ _ => true
  | .vmin _ _ _ _ => true
  | .vmax _ _ _ _ => true
  | .vabs _ _ _ _ => true
  | .vneg _ _ _ _ => true
  | .vexp _ _ _ t => t.isFloat
  | .vln _ _ _ t => t.isFloat
  | .vrcp _ _ _ t => t.isFloat
  | .vrsq _ _ _ t => t.isFloat
  | .vclt _ _ _ _ _ => true
  | .vcle _ _ _ _ _ => true
  | .vceq _ _ _ _ _ => true
  | .vsel _ _ _ _ _ => true
  | .vbcast _ _ _ => true
  | .vmovg _ _ n t => n < t.lanes
  | .vmovv _ _ n t => n < t.lanes
  | .vgath _ _ _ _ _ => true
  | .vscat _ _ _ _ _ => true
  | .vpack _ _ _ _ => true
  | .vcmpk _ _ _ _ => true
  | .vrsum _ _ _ => true
  | .vrmax _ _ _ => true
  | .vargmx _ _ _ => true
  | .vcvt _ _ _ _ _ => true
  | .vhad _ _ blk _ _ t => 1 ≤ blk && blk ≤ t.maxBlk
  | .vihad _ _ blk _ _ t => 1 ≤ blk && blk ≤ t.maxBlk
  | .vloop n _ => 1 ≤ n && n ≤ 16
  | .vand _ _ _ _ => true
  | .vor _ _ _ _ => true
  | .vxor _ _ _ _ => true
  | .vshl _ _ _ t => !t.isFloat
  | .vshr _ _ _ t => !t.isFloat
  | .kand _ _ _ => true
  | .kor _ _ _ => true
  | .knot _ _ => true
  | .kmovKFromG _ _ => true
  | .kmovGFromK _ _ => true
  | .kmovKFromK _ _ => true
  | .tzero _ => true
  | .tload _ _ e => immFits 0 3 e
  | .tsave _ _ e => immFits 0 3 e
  | .tstat _ _ => true
  | .twait _ => true
  | .tdrop _ => true
  | .asscfg _ _ => true
  | .assay _ _ => true
  | .draw _ _ => true
  | .carrive _ _ => true
  | .cwait _ _ => true
  | .cpost _ _ => true
  | .gmask _ _ => true
  | .gstep _ _ => true
  | .mpop _ _ => true
  | .mstat _ _ => true
  | .crew _ _ => true
  | .crewForm c _ => coreOk c
  | .split => true
  | .retx => true
  | .ctxs _ _ => true
  | .ctxl _ _ => true
  | .tlbi _ _ => true
  | .protw _ _ => true
  | .halt => true
  | .eventLineSet c _ => coreOk c
  | .eventLineWait c _ => coreOk c
  | .eventLineClear c _ => coreOk c
  | .eventLineTest c _ => coreOk c
  | .mutexTake c _ => coreOk c
  | .mutexFree c _ => coreOk c
  | .clusterBarrierCount c _ => coreOk c
  | .clusterBarrierArrive c _ => coreOk c
  | .clusterPowerUp cl => cl < numClusters
  | .arrivalSweep c _ => coreOk c
  | .domainRelease c _ => coreOk c
  | .exchangeWrite c _ _ => coreOk c
  | .exchangeDrained c _ => coreOk c
  | .exchangeMessageArrival _ => true
  | .remoteAccess _ => true
  | .pageFaultService _ _ => true
  | .deferredTrap c _ => coreOk c
  | .mma c => coreOk c
  | .mmas c => coreOk c
  | .mmad c => coreOk c
  | .mmai c => coreOk c
  | .matrixCompletion c => coreOk c
  | .copy _ => true
  | .copyh _ => true
  | .copyCompletion c => coreOk c
  | .hemTileArrival _ => true
  | .lexe cl => cl < numClusters
  | .lexd cl => cl < numClusters
  | .lexiconCompletion c => coreOk c
  | .gatherArrival _ => true
  | .gatherDeadline _ _ _ => true
  | .memberFailed _ _ _ => true
  | .drawEnd _ _ _ => true
  | .batchSwap _ _ => true
  | .timerRelease _ => true
  | .timerQueueAppend _ => true
  | .mediaTick _ _ => true
  | .mediaTickElement _ _ => true
  | .mediaRecord _ _ => true
  | .timeLock _ => true
  | .timeFollow => true
  | .timeHoldover => true
  | .commandDoorbell _ => true
  | .queueDoorbell q _ => q < numQueues
  | .claim _ => true
  | .unclaim _ => true
  | .qcreate _ => true
  | .qreset _ => true
  | .qdestroy _ => true
  | .seed _ => true
  | .vocab _ => true
  | .media _ => true
  | .map _ => true
  | .attest _ => true
  | .placementRound _ => true
  | .entryRelease _ _ => true
  | .launchEnd _ => true
  | .barrier q => q < numQueues
  | .barrierComplete q _ => q < numQueues
  | .copyPacket q => q < numQueues
  | .timerArmAbsolute q => q < numQueues
  | .timerArmPeriodic q => q < numQueues
  | .timerDisarm q => q < numQueues
  | .signalStore q => q < numQueues
  | .signalAdd q => q < numQueues
  | .signalDecrement q => q < numQueues
  | .committeeStart q => q < numQueues
  | .committeeSequence q => q < numQueues
  | .committeeStop q => q < numQueues
  | .nop q => q < numQueues
  | .quantumEnd _ => true
  | .preemptRequest _ => true
  | .forcedPreempt _ => true
  | .powerGood _ absent _ => absent.all coreOk
  | .functionReady _ => true
  | .linkFailure _ => true
  | .throttleBubble _ => true
  | .powerCapWrite _ => true
  | .deviceStatusRead => true
  | .illegalInstruction n _ => n ≤ 4
  | .fetchFault => true
  | .lockRegained => true
  | .powerGate cl => cl < numClusters
  | .hostStore _ n _ => n == 1 || n == 2 || n == 4 || n == 8
  | .peerAccess _ n _ _ _ => n == 1 || n == 2 || n == 4 || n == 8

/-- The rows that a slot fetches as a chain of words; the other rows are steps of other agents. -/
def Instr.isChain : Instr → Bool
  | .pauseEnd _ _ => false
  | .crewForm _ _ => false
  | .eventLineSet _ _ => false | .eventLineWait _ _ => false | .eventLineClear _ _ => false
  | .eventLineTest _ _ => false | .mutexTake _ _ => false | .mutexFree _ _ => false
  | .clusterBarrierCount _ _ => false | .clusterBarrierArrive _ _ => false | .clusterPowerUp _ => false
  | .arrivalSweep _ _ => false | .domainRelease _ _ => false | .exchangeWrite _ _ _ => false
  | .exchangeDrained _ _ => false | .exchangeMessageArrival _ => false | .remoteAccess _ => false
  | .pageFaultService _ _ => false | .deferredTrap _ _ => false
  | .mma _ => false | .mmas _ => false | .mmad _ => false | .mmai _ => false | .matrixCompletion _ => false
  | .copy _ => false | .copyh _ => false | .copyCompletion _ => false | .hemTileArrival _ => false
  | .lexe _ => false | .lexd _ => false | .lexiconCompletion _ => false
  | .gatherArrival _ => false | .gatherDeadline _ _ _ => false | .memberFailed _ _ _ => false
  | .drawEnd _ _ _ => false | .batchSwap _ _ => false | .timerRelease _ => false | .timerQueueAppend _ => false
  | .mediaTick _ _ => false | .mediaTickElement _ _ => false | .mediaRecord _ _ => false
  | .timeLock _ => false | .timeFollow => false | .timeHoldover => false
  | .commandDoorbell _ => false | .queueDoorbell _ _ => false | .claim _ => false | .unclaim _ => false
  | .qcreate _ => false | .qreset _ => false | .qdestroy _ => false | .seed _ => false | .vocab _ => false
  | .media _ => false | .map _ => false | .attest _ => false | .placementRound _ => false
  | .entryRelease _ _ => false | .launchEnd _ => false | .barrier _ => false | .barrierComplete _ _ => false
  | .copyPacket _ => false | .timerArmAbsolute _ => false | .timerArmPeriodic _ => false | .timerDisarm _ => false
  | .signalStore _ => false | .signalAdd _ => false | .signalDecrement _ => false
  | .committeeStart _ => false | .committeeSequence _ => false | .committeeStop _ => false | .nop _ => false
  | .quantumEnd _ => false | .preemptRequest _ => false | .forcedPreempt _ => false
  | .powerGood _ _ _ => false | .functionReady _ => false | .linkFailure _ => false | .throttleBubble _ => false
  | .powerCapWrite _ => false | .deviceStatusRead => false | .illegalInstruction _ _ => false | .fetchFault => false
  | .lockRegained => false | .powerGate _ => false | .hostStore _ _ _ => false | .peerAccess _ _ _ _ _ => false
  | .ill _ _ => true | .mov _ _ _ => true | .li _ _ => true | .add _ _ _ _ => true | .sub _ _ _ _ => true
  | .and _ _ _ _ => true | .or _ _ _ _ => true | .xor _ _ _ _ => true | .shl _ _ _ _ => true
  | .shr _ _ _ _ => true | .sra _ _ _ _ => true | .addi _ _ _ => true | .mul _ _ _ _ => true
  | .mulh _ _ _ _ => true | .div _ _ _ _ => true | .rem _ _ _ _ => true | .slt _ _ _ _ => true
  | .clz _ _ _ => true | .popc _ _ _ => true | .clmul _ _ _ _ => true | .clmulh _ _ _ _ => true
  | .padd _ _ _ => true | .pset _ _ => true | .pget _ _ => true | .ld _ _ _ _ _ _ _ => true
  | .st _ _ _ _ _ _ _ => true | .bz _ _ => true | .bnz _ _ => true | .bltz _ _ => true | .bgez _ _ => true
  | .j _ => true | .jal _ => true | .jr _ _ => true | .pause _ => true | .fence _ _ => true | .ifence => true
  | .csrr _ _ => true | .csrw _ _ => true | .sync _ => true | .arrive _ => true | .waitb _ => true
  | .trap _ => true | .min _ _ _ _ => true | .max _ _ _ _ => true | .epush _ _ => true | .qpush _ _ => true
  | .clkr _ => true | .bfx _ _ _ _ => true | .bfi _ _ _ _ => true
  | .aadd _ _ _ _ _ _ => true | .aand _ _ _ _ _ _ => true | .aor _ _ _ _ _ _ => true
  | .axor _ _ _ _ _ _ => true | .amin _ _ _ _ _ _ => true | .amax _ _ _ _ _ _ => true
  | .aswp _ _ _ _ _ _ => true | .acas _ _ _ _ _ _ => true | .upd _ _ _ _ _ => true | .updcfg _ _ => true
  | .scfg _ _ => true | .senEnable _ => true | .senDisable _ => true | .pref _ _ _ => true
  | .vld _ _ _ _ _ => true | .vst _ _ _ _ _ => true | .vldc _ _ _ _ _ => true | .vstc _ _ _ _ _ => true
  | .vadd _ _ _ _ => true | .vsub _ _ _ _ => true | .vmul _ _ _ _ => true | .vfma _ _ _ _ _ => true
  | .vmin _ _ _ _ => true | .vmax _ _ _ _ => true | .vabs _ _ _ _ => true | .vneg _ _ _ _ => true
  | .vexp _ _ _ _ => true | .vln _ _ _ _ => true | .vrcp _ _ _ _ => true | .vrsq _ _ _ _ => true
  | .vclt _ _ _ _ _ => true | .vcle _ _ _ _ _ => true | .vceq _ _ _ _ _ => true | .vsel _ _ _ _ _ => true
  | .vbcast _ _ _ => true | .vmovg _ _ _ _ => true | .vmovv _ _ _ _ => true | .vgath _ _ _ _ _ => true
  | .vscat _ _ _ _ _ => true | .vpack _ _ _ _ => true | .vcmpk _ _ _ _ => true | .vrsum _ _ _ => true
  | .vrmax _ _ _ => true | .vargmx _ _ _ => true | .vcvt _ _ _ _ _ => true | .vhad _ _ _ _ _ _ => true
  | .vihad _ _ _ _ _ _ => true | .vloop _ _ => true | .vand _ _ _ _ => true | .vor _ _ _ _ => true
  | .vxor _ _ _ _ => true | .vshl _ _ _ _ => true | .vshr _ _ _ _ => true | .kand _ _ _ => true
  | .kor _ _ _ => true | .knot _ _ => true | .kmovKFromG _ _ => true | .kmovGFromK _ _ => true
  | .kmovKFromK _ _ => true | .tzero _ => true | .tload _ _ _ => true | .tsave _ _ _ => true
  | .tstat _ _ => true | .twait _ => true | .tdrop _ => true | .asscfg _ _ => true | .assay _ _ => true
  | .draw _ _ => true | .carrive _ _ => true | .cwait _ _ => true | .cpost _ _ => true | .gmask _ _ => true
  | .gstep _ _ => true | .mpop _ _ => true | .mstat _ _ => true | .crew _ _ => true | .split => true
  | .retx => true | .ctxs _ _ => true | .ctxl _ _ => true | .tlbi _ _ => true | .protw _ _ => true
  | .halt => true

end Sys2Proof
end

