-- ==== Sys2Proof/Machine/Ops.lean ====
section
/-! DEFINITION. The named operations over cores, slots, memory, the page tables, signals and queues, and taking an
exception (13 R246) with the return from one (13 R247). -/

namespace Sys2Proof.Machine

/-! ### Cores and slots -/

/-- A core. -/
def State.coreOf (s : State) (c : Nat) : CoreState := lookupD CoreState.reset c s.cores
/-- The state with a core replaced. -/
def State.setCore (s : State) (c : Nat) (x : CoreState) : State := { s with cores := insertKey c x s.cores }
/-- A slot of a core. -/
def CoreState.slotOf (x : CoreState) (k : Nat) : Slot := vget x.slots k Slot.reset
/-- A core with a slot replaced. -/
def CoreState.setSlot (x : CoreState) (k : Nat) (t : Slot) : CoreState := { x with slots := vset x.slots k t }
/-- A slot. -/
def State.slotOf (s : State) (c k : Nat) : Slot := (s.coreOf c).slotOf k
/-- The state with a slot replaced. -/
def State.setSlot (s : State) (c k : Nat) (t : Slot) : State := s.setCore c ((s.coreOf c).setSlot k t)
/-- The state with a core updated. -/
def State.modCore (s : State) (c : Nat) (f : CoreState → CoreState) : State := s.setCore c (f (s.coreOf c))
/-- The state with a slot updated. -/
def State.modSlot (s : State) (c k : Nat) (f : Slot → Slot) : State := s.setSlot c k (f (s.slotOf c k))
/-- The core of the step. -/
def State.myCore (s : State) : CoreState := s.coreOf s.cur.core
/-- The slot of the step. -/
def State.me (s : State) : Slot := s.slotOf s.cur.core s.cur.slot.val
/-- The state with the slot of the step replaced. -/
def State.setMe (s : State) (t : Slot) : State := s.setSlot s.cur.core s.cur.slot.val t
/-- The state with the core of the step updated. -/
def State.modMyCore (s : State) (f : CoreState → CoreState) : State := s.modCore s.cur.core f
/-- The state with the slot of the step updated. -/
def State.modMe (s : State) (f : Slot → Slot) : State := s.modSlot s.cur.core s.cur.slot.val f
/-- A report to the firmware. -/
def State.report (s : State) (r : Report) : State := { s with reports := s.reports ++ [r] }

/-- A tile of a core. -/
def CoreState.tileOf (x : CoreState) (t : Nat) : Tile := vget x.tiles t Tile.reset
/-- A core with a tile replaced. -/
def CoreState.setTile (x : CoreState) (t : Nat) (y : Tile) : CoreState := { x with tiles := vset x.tiles t y }
/-- The elements of a port, oldest first. -/
def CoreState.port (x : CoreState) (p : Nat) : List Word := vget x.ports p []
/-- A core with a port's elements replaced. -/
def CoreState.setPort (x : CoreState) (p : Nat) (l : List Word) : CoreState := { x with ports := vset x.ports p l }
/-- A core's part in a domain. -/
def CoreState.runOf (x : CoreState) (d : Nat) : DomRun := vget x.runs d DomRun.reset
/-- A core with its part in a domain replaced. -/
def CoreState.setRun (x : CoreState) (d : Nat) (r : DomRun) : CoreState := { x with runs := vset x.runs d r }
/-- A domain register. -/
def CoreState.dom (x : CoreState) (d : Nat) : Word := vget x.doms d 0

/-- Depths of the ports q0-q7 (03 R55). -/
def portDepth : Nat → Nat
  | 0 => 32 | 1 => 32 | 2 => 8 | 3 => 8 | 4 => 8 | 5 => 16 | 6 => 16 | 7 => 4 | _ => 0

/-- Places of a port in use: its elements, and those that a waiting instruction has popped and may give back. -/
def CoreState.inUse (x : CoreState) (p : Nat) : Nat :=
  (x.port p).length + (x.slots.toList.map (fun t => (t.lent.filter (fun q => q.1 == p)).length)).sum

/-! ### Claims and launches -/

/-- A claim by its id. -/
def State.claim? (s : State) (id : Nat) : Option Claim := s.claims.find? (fun x => x.id == id)
/-- The claim that holds a core. -/
def State.claimOf (s : State) (c : Nat) : Option Claim := s.claims.find? (fun x => x.rect.has c)
/-- CLAIMID.ID of a core (03 R73; 0 outside every claim). -/
def State.claimId (s : State) (c : Nat) : Nat := ((s.claimOf c).map (·.id)).getD 0
/-- Bit `id` of the membership bitmap of the router at a core: the cores of a claim hold its bit (01 R12, log 106). -/
def State.routerBit (s : State) (c id : Nat) : Bool := (s.claim? id).any (fun x => x.rect.has c)
/-- A launch by its number. -/
def State.launch? (s : State) (id : Nat) : Option Launch := s.launches.find? (fun x => x.id == id)
/-- The state with a launch updated. -/
def State.modLaunch (s : State) (id : Nat) (f : Launch → Launch) : State :=
  { s with launches := replaceFirst (fun x => x.id == id) f s.launches }
/-- The launch resident on a core. -/
def State.residentOf (s : State) (c : Nat) : Option Launch :=
  match (s.coreOf c).resident with
  | some (l, _) => s.launch? l
  | none => none
/-- The core is stopped by a forced pre-emption, its matrix unit with it; a clean one lets the engines finish
(13 R251). -/
def State.frozen (s : State) (c : Nat) : Bool :=
  (s.coreOf c).stopped && (s.residentOf c).any (fun l => l.preempt != .clean)
/-- The core belongs to a launch that is not resident on it: its context is saved (13 R255). -/
def State.away (s : State) (c : Nat) : Bool :=
  (s.coreOf c).resident.isNone && s.launches.any (fun l => l.groups.any (fun g => g.rect.has c))
/-- The rectangle of the group resident on a core. -/
def State.groupRect (s : State) (c : Nat) : Option Rect :=
  match (s.coreOf c).resident with
  | some (l, g) => (s.launch? l).bind (fun x => (x.groups[g]?).map (·.rect))
  | none => none
/-- Logical number of a core in its group (0 outside a launch). -/
def State.logical (s : State) (c : Nat) : Nat := ((s.groupRect c).map (fun r => r.index c)).getD 0
/-- Number of the group resident on a core. -/
def State.groupOf (s : State) (c : Nat) : Nat := ((s.coreOf c).resident.map (·.2)).getD 0
/-- The compute phase of a group. -/
def Launch.phaseOf (l : Launch) (g : Nat) : Phase := ((l.groups[g]?).map (·.phase)).getD (Phase.start 0)
/-- A launch with the compute phase of a group updated. -/
def Launch.modPhase (l : Launch) (g : Nat) (f : Phase → Phase) : Launch :=
  { l with groups := l.groups.modify g (fun x => { x with phase := f x.phase }) }
/-- A launch with the compute phase of every group updated. -/
def Launch.modPhases (l : Launch) (f : Phase → Phase) : Launch :=
  { l with groups := l.groups.map (fun x => { x with phase := f x.phase }) }
/-- A launch with the compute phases of the groups other than one updated. -/
def Launch.modOthers (l : Launch) (g : Nat) (f : Phase → Phase) : Launch :=
  { l with groups := l.groups.mapIdx (fun i x => if i = g then x else { x with phase := f x.phase }) }
/-- The core runs a deterministic launch (12 R238). -/
def State.isDet (s : State) (c : Nat) : Bool := ((s.residentOf c).map (·.det)).getD false
/-- The core stands in the firmware column (01 R12): its slots run at firmware privilege (13 R242). -/
def State.isFw (s : State) (c : Nat) : Bool := colOf c == 0 || (s.wide && colOf c == 1)
/-- Cores of a launch. -/
def Launch.cores (l : Launch) : List Nat := l.groups.flatMap (fun g => g.rect.cores)
/-- The seed of a slot under a launch's snapshot; SEED0 reads 0 (06 R116). -/
def seedOf (seeds : Vector Word 16) (n : Nat) : Word := if n = 0 then 0 else vget seeds n 0
/-- Seeds that a core's instructions see. -/
def State.seedsOf (s : State) (c : Nat) : Vector Word 16 :=
  match s.residentOf c with
  | some l => l.seeds
  | none => Vector.replicate 16 0

/-! ### Memory with ECC (13 R250) -/

/-- Some word of the range cannot be corrected. -/
def State.poisonedIn (s : State) (a n : Nat) : Bool := (wordsOf a n).any (fun w => s.poisoned.contains w)
/-- `n` bytes of memory as a word. -/
def State.readN (s : State) (a n : Nat) : Word := word (leNat (readCells s.mem a n))
/-- Bytes of memory. -/
def State.readBytes (s : State) (a n : Nat) : List Byte := readCells s.mem a n
/-- Bytes written; a word written whole becomes readable again. -/
def State.writeBytes (s : State) (a : Nat) (bs : List Byte) : State :=
  { s with
    mem := Machine.writeCells s.mem a bs
    poisoned := s.poisoned.filter (fun w => !(a ≤ w && w + 8 ≤ a + bs.length)) }
/-- Cells written, each word's in one piece. -/
def State.writeCells (s : State) (cs : List Host.Cell) : State :=
  (wordRuns cs).foldl (fun t r => t.writeBytes r.1 r.2) s
/-- The low `n` bytes of a word written. -/
def State.writeN (s : State) (a n : Nat) (w : Word) : State := s.writeBytes a (leBytes n w.toNat)
/-- `n` bytes cleared. -/
def State.clearBytes (s : State) (a n : Nat) : State :=
  { s with
    mem := clearCells s.mem a n
    poisoned := s.poisoned.filter (fun w => !(a ≤ w && w + 8 ≤ a + n)) }

/-! ### Page tables (07 R144, R145) -/

/-- Bits `lo` to `lo + n - 1` of an entry. -/
def entField (e : Entry) (lo n : Nat) : Nat := e.toNat / 2 ^ lo % 2 ^ n
/-- V. -/
def entV (e : Entry) : Bool := entField e 63 1 == 1
/-- SIZE. -/
def entSize (e : Entry) : Nat := entField e 61 2
/-- CLAIM. -/
def entClaim (e : Entry) : Nat := entField e 53 8
/-- TAG. -/
def entTag (e : Entry) : Nat := entField e 0 32
/-- TIER. -/
def entTier (e : Entry) : Nat := entField e 125 3
/-- HASH. -/
def entHash (e : Entry) : Nat := entField e 123 2
/-- R. -/
def entR (e : Entry) : Bool := entField e 122 1 == 1
/-- W. -/
def entW (e : Entry) : Bool := entField e 121 1 == 1
/-- X. -/
def entX (e : Entry) : Bool := entField e 120 1 == 1
/-- PEER. -/
def entPeer (e : Entry) : Nat := entField e 112 8
/-- PPN. -/
def entPpn (e : Entry) : Nat := entField e 64 36

/-- Bits of a page of a size code: 64 KiB, 2 MiB, 1 GiB. -/
def pageBits : Nat → Nat
  | 0 => 16 | 1 => 21 | _ => 30

/-- `tag(size, va)`. -/
def pageTag (size va : Nat) : Nat := va / 2 ^ pageBits size * 2 ^ (pageBits size - 16)

/-- The hash of a probe. -/
def pageHash (claim size va : Nat) : Word := xs (word (claim * 2 ^ 40 + size * 2 ^ 38 + pageTag size va))

/-- The core that holds a cluster's shard: its home core, or the firmware-column core of that row where the home core is
absent; of a column two cores wide, the one at x = 0 (log 103, the model's choice). -/
def State.shardCore (s : State) (cl : Nat) : Nat :=
  if s.absent.contains (homeOf cl) then coreAt 0 (rowOf (homeOf cl)) else homeOf cl

/-- Address of way `i` of a probe's bucket. -/
def State.wayAddr (s : State) (claim size va i : Nat) : Nat :=
  let h := pageHash claim size va
  sram (s.shardCore (h.toNat % 320)) (0xF8000 + 64 * bits h 16 9 + 16 * i)

/-- The 16-byte entry at an address. -/
def State.entryAt (s : State) (a : Nat) : Entry := BitVec.ofNat 128 (leNat (s.readBytes a 16))

/-- An entry of the claim for the page of this size that holds `va`. -/
def entMatches (claim size va : Nat) (e : Entry) : Bool :=
  entV e && entSize e == size && entClaim e == claim && entTag e == pageTag size va

/-- The way that a probe of one size finds. -/
def State.probe (s : State) (claim size va : Nat) : Option (Nat × Entry) :=
  ((List.range 4).map (fun i => (s.wayAddr claim size va i, s.entryAt (s.wayAddr claim size va i)))).find?
    (fun p => entMatches claim size va p.2)

/-- The first word that a walk reads and that cannot be corrected (13 R250): a probe reads its bucket whole, and none comes
after one that matches. -/
def State.walkPoison (s : State) (claim va : Nat) : Option Nat :=
  let bad (size : Nat) : Option Nat := (wordsOf (s.wayAddr claim size va 0) 64).find? (fun w => s.poisoned.contains w)
  match bad 0, s.probe claim 0 va, bad 1, s.probe claim 1 va, bad 2 with
  | some w, _, _, _, _ => some w
  | none, some _, _, _, _ => none
  | none, none, some w, _, _ => some w
  | none, none, none, some _, _ => none
  | none, none, none, none, w => w

/-- The walk: the smallest page that matches, where its buckets can be read. -/
def State.walk (s : State) (claim va : Nat) : Option (Nat × Entry) :=
  if (s.walkPoison claim va).isSome then none
  else
    match s.probe claim 0 va with
    | some p => some p
    | none =>
      match s.probe claim 1 va with
      | some p => some p
      | none => s.probe claim 2 va

/-- An entry that 07 R145 allows: known TIER and SIZE, reserved bits zero, PPN within its tier, HASH and PEER only where
their tier has them, and a page-aligned PPN. -/
def entOk (e : Entry) : Bool :=
  entTier e ≤ 4 && entSize e ≤ 2 && entField e 100 12 == 0 && entField e 32 21 == 0 &&
  (entTier e != 0 || entPpn e < 2 ^ 23) && (entTier e != 1 || entPpn e < 2 ^ 25) &&
  (entTier e == 0 || entHash e == 0) && (if entTier e = 4 then decide (entPeer e < 16) else entPeer e == 0) &&
  entPpn e % 2 ^ (pageBits (entSize e) - 16) == 0

/-- Physical address of `va` under an entry. -/
def entPhys (e : Entry) (va : Nat) : Nat :=
  let pa := entPpn e * 2 ^ 16 + va % 2 ^ pageBits (entSize e)
  match entTier e with
  | 0 => hbmBase + pa
  | 1 => lpddrBase + pa
  | 4 => peerBase (entPeer e) + pa
  | _ => hostBase + pa

/-- The translation a core finds: a cached one first, else the walk's, which it then caches (07 R144, R147). -/
def State.translate (s : State) (c claim va : Nat) : Option Entry × State :=
  let hit (size : Nat) := (s.coreOf c).tlb.find? (entMatches claim size va)
  match hit 0, hit 1, hit 2 with
  | some e, _, _ => (some e, s)
  | none, some e, _ => (some e, s)
  | none, none, some e => (some e, s)
  | none, none, none =>
    match s.walk claim va with
    | none => (none, s)
    | some (_, e) => (some e, s.modCore c (fun x => { x with tlb := (e :: x.tlb).take 64 }))

/-- A peer of an entry cannot be reached: a failed link lies on the path (14 R258). -/
def State.peerDown (s : State) (e : Entry) : Bool :=
  entTier e == 4 && s.linksDown.any (fun p => Config.peerPath p (entPeer e))

/-! ### HBM channels (07 R148, R149) -/

/-- Parity of a number. -/
def parity31 (n : BitVec 31) : Nat := ((List.range 31).filter (fun i => n.getLsbD i)).length % 2

/-- Pseudo-channel of a physical HBM address under a channel hash. -/
def State.channel (s : State) (hash pa : Nat) : Nat :=
  let g := pa / 256
  let out := ((List.range 10).map (fun j =>
    parity31 (BitVec.ofNat 31 g &&& vget s.masks (10 * hash + j) 0) * 2 ^ j)).sum
  384 * (out / 128) + 128 * (g % 3) + out % 128

/-- One 64-byte access to HBM counts in READS or WRITES of its pseudo-channel. -/
def State.countAccess (s : State) (e : Entry) (va : Nat) (write : Bool) : State :=
  if entTier e = 0 then
    let i := 4 * s.channel (entHash e) (entPhys e va - hbmBase) + (if write then 1 else 0)
    { s with counters := insertKey i (lookupD 0 i s.counters + 1) s.counters }
  else s

/-! ### Update functions (07 R143) -/

/-- The signed reading of the low `w` bits. -/
def signedOf (w : Nat) (x : Word) : Int := (x.setWidth w).toInt

/-- One of the eight operations of an update step, cut to `w` bits. -/
def updateOp (op w : Nat) (x y : Word) : Word :=
  extBits w false
    (match op with
     | 0 => x + y
     | 1 => x - y
     | 2 => x &&& y
     | 3 => x ||| y
     | 4 => x ^^^ y
     | 5 => if signedOf w x ≤ signedOf w y then x else y
     | 6 => if signedOf w x ≤ signedOf w y then y else x
     | _ => x <<< (y.toNat % w))

/-- The configured function applied to the old value and the operand: the new value. -/
def updateRun (f : BitVec 256) (w : Nat) (o p : Word) : Word :=
  let o := extBits w false o
  let p := extBits w false p
  let k0 := extBits w false (word (f.toNat % 2 ^ 64))
  let k1 := extBits w false (word (f.toNat / 2 ^ 64 % 2 ^ 64))
  (List.range 4).foldl
    (fun t i =>
      let b := f.toNat / 2 ^ (128 + 8 * i) % 256
      if b % 2 = 1 then
        let pick (n : Nat) (k : Word) : Word := match n with | 0 => t | 1 => o | 2 => p | _ => k
        updateOp (b / 32) w (pick (b / 8 % 4) k0) (pick (b / 2 % 4) k1)
      else t)
    o

/-- What an atomic writes, if it writes: operations 0 AADD to 6 ASWP of 20 R290, and 7 ACAS of R293. -/
def atomicNew (op w : Nat) (uns : Bool) (old v x : Word) : Option Word :=
  match op with
  | 0 => some (old + v)
  | 1 => some (old &&& v)
  | 2 => some (old ||| v)
  | 3 => some (old ^^^ v)
  | 4 =>
    if uns then some (if extBits w false old ≤ extBits w false v then old else v)
    else some (if signedOf w old ≤ signedOf w v then old else v)
  | 5 =>
    if uns then some (if extBits w false old ≤ extBits w false v then v else old)
    else some (if signedOf w old ≤ signedOf w v then v else old)
  | 6 => some v
  | _ => if extBits w false old = extBits w false x then some v else none

/-- The bytes of the aligned word at `a` that a mask names written. -/
def State.writeMasked (s : State) (a : Nat) (mask : BitVec 8) (w : Word) : State :=
  if mask = 0xFF then s.writeN a 8 w
  else
    (List.range 8).foldl
      (fun t i => if mask.getLsbD i then t.writeBytes (a + i) [(leBytes 8 w.toNat)[i]?.getD 0] else t) s

/-- The runs of bytes that a mask names: first byte and length. -/
def maskRuns (mask : BitVec 8) : List (Nat × Nat) :=
  (List.range 8).foldr
    (fun i l =>
      if mask.getLsbD i then
        match l with
        | (x, n) :: r => if x = i + 1 then (i, n + 1) :: r else (i, 1) :: (x, n) :: r
        | [] => [(i, 1)]
      else l)
    []

/-- A request performed on the word at a physical address of a core's SRAM or of a page: the old value and the state
after it (07 R141-R143). `f` is the update function of the owning core. -/
def State.perform (s : State) (f : BitVec 256) (a : Nat) : Req → Word × State
  | .load n => (s.readN a n, s)
  | .store n w => (0, s.writeN a n w)
  | .atomic op n uns v x =>
    let old := s.readN a n
    match atomicNew op (8 * n) uns old v x with
    | some w => (old, s.writeN a n w)
    | none => (old, s)
  | .upd n v => (0, s.writeN a n (updateRun f (8 * n) (s.readN a n) v))
  | .masked mask w => (0, s.writeMasked a mask w)

/-- Bytes of a request. -/
def Req.size : Req → Nat
  | .load n => n | .store n _ => n | .atomic _ n _ _ _ => n | .upd n _ => n | .masked _ _ => 8
/-- The ranges of bytes that a request accesses, from its offset on. -/
def Req.pieces (r : Req) (off : Nat) : List (Nat × Nat) :=
  match r with
  | .masked mask _ => (maskRuns mask).map (fun p => (off + p.1, p.2))
  | r => [(off, r.size)]
/-- The request reads. -/
def Req.reads : Req → Bool
  | .load _ => true | .store _ _ => false | .atomic _ _ _ _ _ => true | .upd _ _ => true | .masked _ _ => false
/-- The request writes. -/
def Req.writes : Req → Bool
  | .load _ => false | .store _ _ => true | .atomic _ _ _ _ _ => true | .upd _ _ => true | .masked _ _ => true

/-- The request writes, given the old value: an ACAS that fails does not (20 R293). -/
def Req.changes (r : Req) (old : Word) : Bool :=
  match r with
  | .load _ => false
  | .store _ _ => true
  | .atomic op n uns v x => (atomicNew op (8 * n) uns old v x).isSome
  | .upd _ _ => true
  | .masked _ _ => true

/-! ### Protection regions (07 R137) -/

/-- Bits `lo` to `lo + n - 1` of a region. -/
def regField (r : BitVec 128) (lo n : Nat) : Nat := r.toNat / 2 ^ lo % 2 ^ n

/-- One valid region holds the bytes and grants every permission named by a bit of 98 to 102. -/
def regGrants (r : BitVec 128) (need : List Nat) (off n : Nat) : Bool :=
  regField r 103 1 == 1 && need.all (fun b => regField r b 1 == 1) &&
  regField r 0 20 ≤ off && off + n ≤ regField r 64 20 + 1

/-- Some region of a core grants the access. -/
def CoreState.grants (x : CoreState) (need : List Nat) (off n : Nat) : Bool :=
  x.regions.toList.any (fun r => regGrants r need off n)

/-- Permission bits a local access needs: LR 102, LW 101, LX 100. -/
def localNeeds (reads writes : Bool) : List Nat := (if reads then [102] else []) ++ (if writes then [101] else [])
/-- Permission bits a remote access needs: CR 99, CW 98. -/
def remoteNeeds (reads writes : Bool) : List Nat := (if reads then [99] else []) ++ (if writes then [98] else [])

/-! ### Remote accesses (07 R140) -/

/-- The receiving core allows the access: the sender's claim holds the receiver, and a region grants it. -/
def State.remoteOk (s : State) (claim dst off : Nat) (r : Req) : Bool :=
  s.routerBit dst claim && (r.pieces off).all (fun p => (s.coreOf dst).grants (remoteNeeds r.reads r.writes) p.1 p.2)

/-- A remote write performed at its receiver, where that allows it; a refused one is reported (01 R13). -/
def State.performRemote (s : State) (r : Remote) : State :=
  if r.req.writes && s.remoteOk (s.claimId r.core) r.dst r.off r.req then
    (s.perform (s.coreOf r.dst).update (sram r.dst r.off) r.req).2
  else if r.req.writes then s.report .remoteRefused
  else s

/-- A cluster wakes for a write to its SRAM (08 R163): what its wake latch holds for the SRAM comes first. A write to its
event unit stays in the latch, and the power with it comes at CLUSTER_POWER_UP. -/
def State.wake (s : State) (cl : Nat) : State :=
  let inUnit (x : Nat × Latched) : Bool :=
    match x.2 with
    | .unit _ => true
    | .remote _ => false
    | .host _ _ _ => false
  let mine := s.latches.filter (fun x => x.1 == cl && !inUnit x)
  let s1 : State :=
    { s with
      latches := s.latches.filter (fun x => x.1 != cl || inUnit x)
      gated := if s.latches.any (fun x => x.1 == cl && inUnit x) then s.gated else s.gated.filter (fun x => x != cl) }
  mine.foldl
    (fun t x =>
      match x.2 with
      | .unit _ => t
      | .remote r => t.performRemote r
      | .host a n w => t.writeN a n w)
    s1

/-- The cluster whose SRAM holds a byte wakes if it is power-gated. -/
def State.wakeAt (s : State) (a : Nat) : State :=
  if a < sram numCores 0 ∧ s.gated.contains (clusterOf (a / 2 ^ 20)) then s.wake (clusterOf (a / 2 ^ 20)) else s

/-! ### Signals (12 R221) -/

/-- Physical address of a usable signal of a claim. -/
def State.signalPlace (s : State) (claim : Nat) (p : Word) : Option Nat :=
  if p.toNat % 8 = 0 ∧ 0x100000000000 ≤ p.toNat ∧ p.toNat < 0x800000000000 then
    match s.walk claim p.toNat with
    | some (_, e) => if entOk e && entTier e ≤ 2 && entR e && entW e then some (entPhys e p.toNat) else none
    | none => none
  else none

/-- A packet's signal set to a value; one that cannot be used is not written. -/
def State.setSignal (s : State) (claim : Nat) (p : Word) (v : Word) : State :=
  if p = 0 then s else
  match s.signalPlace claim p with
  | some a => s.writeN a 8 v
  | none => s.report .signalDropped

/-- A packet's signal decremented by 1; one that cannot be read is not (13 R250). -/
def State.decSignal (s : State) (claim : Nat) (p : Word) : State :=
  if p = 0 then s else
  match s.signalPlace claim p with
  | some a => if s.poisonedIn a 8 then s.report .signalDropped else s.writeN a 8 (s.readN a 8 - 1)
  | none => s.report .signalDropped

/-- The value -1. -/
def minusOne : Word := 0xFFFFFFFFFFFFFFFF
/-- The value -2. -/
def minusTwo : Word := 0xFFFFFFFFFFFFFFFE

/-! ### Queues (12 R218-R223) -/

/-- A queue. -/
def State.queueOf (s : State) (q : Nat) : Queue := lookupD Queue.reset q s.queues
/-- The state with a queue replaced. -/
def State.setQueue (s : State) (q : Nat) (x : Queue) : State := { s with queues := insertKey q x s.queues }

/-- Physical address of 64 bytes of a claim's memory that the firmware can read (or write). -/
def State.firmwarePage (s : State) (claim : Nat) (va : Nat) (write : Bool) : Option Nat :=
  match s.walk claim va with
  | some (_, e) => if entOk e && !s.peerDown e && (if write then entW e else entR e) then some (entPhys e va) else none
  | none => none

/-- Physical address of packet `n` of a queue's ring. -/
def State.ringAddr (s : State) (q n : Nat) (write : Bool) : Option Nat :=
  let x := s.queueOf q
  let a := x.base.toNat + 64 * (n % 2 ^ x.logsize)
  if x.host then some (hostBase + a) else s.firmwarePage x.claim a write

/-- Packet `n` of a queue; none where it cannot be read. -/
def State.packetAt (s : State) (q n : Nat) : Option Rec :=
  match s.ringAddr q n false with
  | some a => if s.poisonedIn a 64 then none else some (recOf (s.readBytes a 64))
  | none => none

/-- Physical address of a byte that the firmware reaches through a pointer of a claim: a translated page, a word of the
claim's SRAM or, where the pointer may name it, host memory (log 24). -/
def State.firmwarePlace (s : State) (claim : Nat) (host write : Bool) (va : Nat) : Option Nat :=
  if 0x100000000000 ≤ va ∧ va < 0x800000000000 then s.firmwarePage claim va write
  else if host then some (hostBase + va)
  else if 0x100000000 ≤ va ∧ va < 0x300000000 then
    match s.claim? claim with
    | some x =>
      let n := (va - 0x100000000) / 2 ^ 20
      if n < x.rect.w * x.rect.h then some (sram (x.rect.coreOf n) (va % 2 ^ 20)) else none
    | none => none
  else none

/-- Physical pieces of `n` bytes as the firmware reaches them: address and length, 64 KiB by 64 KiB. -/
def State.firmwareSpan (s : State) (claim : Nat) (host write : Bool) : Nat → Nat → Nat → Option (List (Nat × Nat))
  | 0, _, n => if n = 0 then some [] else none
  | fuel + 1, va, n =>
    if n = 0 then some []
    else
      let k := min n (2 ^ 16 - va % 2 ^ 16)
      match s.firmwarePlace claim host write va, s.firmwareSpan claim host write fuel (va + k) (n - k) with
      | some a, some l => some ((a, k) :: l)
      | _, _ => none

/-- Bytes that the firmware reads; none where they cannot be read. -/
def State.firmwareBytes (s : State) (claim : Nat) (host : Bool) (va n : Nat) : Option (List Byte) :=
  match s.firmwareSpan claim host false (n / 2 ^ 16 + 2) va n with
  | some l => if l.any (fun p => s.poisonedIn p.1 p.2) then none else some (l.flatMap (fun p => s.readBytes p.1 p.2))
  | none => none

/-- Bytes that the firmware reads through a pointer of a packet or a descriptor. -/
def State.firmwareRead (s : State) (claim va n : Nat) : Option (List Byte) := s.firmwareBytes claim false va n

/-- Bytes that the firmware writes through such a pointer; none where they cannot be written. -/
def State.firmwareWrite (s : State) (claim va : Nat) (bs : List Byte) : Option State :=
  match s.firmwareSpan claim false true (bs.length / 2 ^ 16 + 2) va bs.length with
  | some l =>
    some (l.foldl
      (fun (p : State × List Byte) q => ((p.1.wakeAt q.1).writeBytes q.1 (p.2.take q.2), p.2.drop q.2)) (s, bs)).1
  | none => none

/-- A packet that never starts: its signal set to -1. -/
def State.discardPacket (s : State) (q n : Nat) : State :=
  match s.packetAt q n with
  | some r => s.setSignal (s.queueOf q).claim (recWord r 8) minusOne
  | none => s

/-- Every packet of a queue not yet started discarded. -/
def State.discardAll (s : State) (q : Nat) : State :=
  let x := s.queueOf q
  let s1 := (List.range (x.wr - x.rd)).foldl (fun t i => t.discardPacket q (x.rd + i)) s
  s1.setQueue q { x with rd := x.wr, placing := none }

/-- A queue that drains becomes ABSENT when no packet runs. -/
def Queue.settle (x : Queue) : Queue :=
  if x.state = .draining ∧ x.running = [] then { x with state := .absent } else x

/-- A queue enters ERROR: what has not started is discarded. -/
def State.queueError (s : State) (q : Nat) : State :=
  let s1 := s.discardAll q
  let x := s1.queueOf q
  s1.setQueue q (if x.state = .active then { x with state := .error } else x)

/-- Packet `n` of a queue no longer runs. -/
def State.stopRunning (s : State) (q n : Nat) : State :=
  let x := s.queueOf q
  s.setQueue q ({ x with running := x.running.filter (fun r => r.number != n) }).settle

/-- A running packet completes normally (12 R221). -/
def State.completePacket (s : State) (q n : Nat) : State :=
  match (s.queueOf q).running.find? (fun r => r.number == n) with
  | some r => (s.decSignal (s.queueOf q).claim r.csig).stopRunning q n
  | none => s

/-- A running packet completes with ABORT (12 R221). -/
def State.abortPacket (s : State) (q n : Nat) : State :=
  match (s.queueOf q).running.find? (fun r => r.number == n) with
  | some r => (s.setSignal (s.queueOf q).claim r.csig minusOne).stopRunning q n
  | none => s

/-! ### Remote writes in flight (08 R164) -/

/-- Remote writes of the cores for which `p` holds are performed, in order: first those that wait in wake latches, which
none is lost from (08 R163). -/
def State.flushRemotes (s : State) (p : Remote → Bool) : State :=
  let held := s.latches.filter (fun x =>
    match x.2 with
    | .remote r => p r
    | .unit _ => false
    | .host _ _ _ => false)
  let s1 := held.foldl (fun t x => t.wake x.1) s
  (s1.remotes.filter p).foldl (fun t r => (t.wakeAt (sram r.dst r.off)).performRemote r)
    { s1 with remotes := s1.remotes.filter (fun r => !p r) }

/-! ### The end of a launch -/

/-- A slot that holds nothing of a launch. -/
def Slot.cleared (t : Slot) : Slot := { Slot.reset with lag := t.lag, deferStores := t.deferStores }

/-- A core that a launch has left; what belongs to the core and not to the launch stays. -/
def CoreState.cleared (x : CoreState) : CoreState :=
  { CoreState.reset with
    slots := x.slots.map Slot.cleared
    regions := x.regions
    tlb := x.tlb
    planbase := x.planbase
    update := x.update }

/-- MSTATE code of a member state. -/
def memberCode : MemberRun → Nat
  | .active => 0 | .lagging => 1 | .retired => 2 | .failed => 3

/-- A member's root is one of these cores. -/
def Committee.rootIn (y : Committee) (cs : List Nat) (m : Nat) : Bool :=
  (y.members[m]?).any (fun z => z.v && cs.contains (coreAt z.seat.x z.seat.y))

/-- Posts that the roots among these cores have not popped end with their q7 (10 R199). -/
def Committee.forget (y : Committee) (cs : List Nat) : Committee :=
  { y with
    slots := y.slots.map (fun b =>
      (b.1, { b.2 with
        members := (List.range b.2.members.length).zip b.2.members |>.map
          (fun p => if y.rootIn cs p.1 then (p.2.1, 0) else p.2) })) }

/-- The bytes of MSTATE that this changes in the batch tables: address and new value (10 R205). -/
def Committee.forgotten (y : Committee) (cs : List Nat) : List (Nat × Byte) :=
  y.slots.flatMap (fun b =>
    (List.range b.2.members.length).filterMap (fun m =>
      match b.2.members[m]? with
      | some (r, p) =>
        if y.rootIn cs m && p != 0 then
          some (sram (coreAt y.aseat.x y.aseat.y) (y.batchOff + 64 * b.1 + 24 + m), BitVec.ofNat 8 (memberCode r))
        else none
      | none => none))

/-- Posts that the roots among these cores have not popped end with their q7. -/
def State.forgetPosts (s : State) (cs : List Nat) : State :=
  let bytes := s.committees.flatMap (fun y => y.forgotten cs)
  bytes.foldl (fun t p => (t.wakeAt p.1).writeBytes p.1 [p.2]) { s with committees := s.committees.map (fun y => y.forget cs) }

/-- Members of a committee with a core of their seat among these: the launch there has ended by a fault. -/
def Committee.strike (y : Committee) (cs : List Nat) : Committee :=
  { y with
    members := y.members.map (fun z => if z.v && cs.any z.seat.has then { z with faulted := true } else z) }

/-- Every store that waits in the buffer of a slot is performed, oldest first (08 R164). -/
def State.flushSlot (s : State) (c k : Nat) : State :=
  if (s.slotOf c k).buffer.isEmpty then s
  else
    (((s.slotOf c k).buffer.filter (fun p => !p.done)).foldl (fun t p => t.writeCells p.cells) s).modSlot c k
      (fun t => { t with buffer := [] })

/-- Every store that waits in a buffer of these cores is performed. -/
def State.flushStores (s : State) (cs : List Nat) : State :=
  cs.foldl (fun t c => (List.range 4).foldl (fun t k => t.flushSlot c k) t) s

/-- One word of a plan entry: dropped and reported where it would leave the claim (01 R12, R13), not written where its
source cannot be read (13 R250). -/
def State.planWord (s : State) (claim dst doff src : Nat) : State :=
  if !s.routerBit dst claim then s.report .messageDropped
  else if s.poisonedIn src 8 then s
  else (s.wakeAt (sram dst doff)).writeN (sram dst doff) 8 (s.readN src 8)

/-- All that is left of a plan entry of core `c`. -/
def State.planRest (s : State) (claim c : Nat) (p : PlanWrite) : State :=
  (List.range p.words).foldl (fun t i => t.planWord claim p.dst (p.doff + 8 * i) (sram c (p.src + 8 * i))) s

/-- Buffered writes in logical-core order, each core's in program order (08 R165). -/
def inCoreOrder (n : Nat) (bs : List Buffered) : List Buffered :=
  (List.range n).flatMap (fun i => bs.filter (fun b => b.logical == i))

/-- One buffered write performed; a UPD by the function of the owning core, unless its word cannot be read (13 R250). -/
def State.performBuffered (s : State) (b : Buffered) : State :=
  let s := s.wakeAt b.addr
  if b.isUpd then
    (if s.poisonedIn b.addr b.n then s
     else (s.perform (s.coreOf (b.addr / 2 ^ 20)).update b.addr (.upd b.n b.data)).2)
  else if b.mask = 0 then s.writeN b.addr b.n b.data
  else s.writeMasked b.addr b.mask b.data

/-- The buffered writes of a phase performed: stores first, then updates. -/
def State.performAll (s : State) (n : Nat) (bs : List Buffered) : State :=
  let bs := inCoreOrder n bs
  (bs.filter (fun b => !b.isUpd) ++ bs.filter (fun b => b.isUpd)).foldl State.performBuffered s

/-- The writes that a launch which ends by a fault has issued and its exchanges have not performed (08 R164). -/
def State.settleWrites (s : State) (l : Launch) : State :=
  let s1 := l.cores.foldl
    (fun t c => (List.range 8).foldl (fun t d => ((s.coreOf c).runOf d).due.foldl (fun t p => t.planRest l.claim c p) t) t)
    s
  l.groups.foldl (fun t g => t.performAll (l.w * l.h) g.phase.buffered) s1

/-- The command was pushed by a slot of one of these cores. -/
def EngineCmd.of (x : EngineCmd) (cs : List Nat) : Bool :=
  match x.pusher with
  | .slot c _ => cs.contains c
  | .packet _ _ => false

/-- The command has run and all it writes is written. -/
def EngineCmd.written (x : EngineCmd) : Bool := x.done.isSome && x.pend.isEmpty

/-- Commands of these cores whose writes are not all performed. -/
def State.unwritten (s : State) (cs : List Nat) : List Nat :=
  ((s.copies ++ s.lexicons).filter (fun x => x.of cs && !x.written)).map (·.number)

/-- The commands of a list without those of these cores that are written; the others go on and report to nobody. -/
def orphaned (cs : List Nat) (l : List EngineCmd) : List EngineCmd :=
  (l.filter (fun x => !(x.of cs && x.written))).map (fun x => if x.of cs then { x with orphan := true } else x)

/-- The latched write was made by one of these cores. -/
def Latched.of (r : Latched) (cs : List Nat) : Bool :=
  match r with
  | .unit r => cs.contains r.core
  | .remote r => cs.contains r.core
  | .host _ _ _ => false

/-- Everything of a launch that is still in flight ends with it: its writes are performed, those in wake latches too (08
R163, R164), its requests and sets are dropped, and its cores are free. Its engine commands keep running (13 R246). -/
def State.freeLaunch (s : State) (l : Launch) : State :=
  let cs := l.cores
  let s1 := ((s.flushStores cs).flushRemotes (fun r => cs.contains r.core)).forgetPosts cs
  let s2 := cs.foldl (fun t c => t.modCore c CoreState.cleared) s1
  { s2 with
    units := s2.units.filter (fun u => !(u.group.any (fun g => g.1 == l.id)))
    unitReqs := s2.unitReqs.filter (fun r => !cs.contains r.core)
    latches := s2.latches.filter (fun r => !r.2.of cs)
    narrow := s2.narrow.filter (fun x => !cs.contains x.core)
    messages := s2.messages.filter (fun m => !cs.contains m.src && !cs.contains m.dst)
    misses := s2.misses.filter (fun m =>
      match m.who with
      | .slot c _ => !cs.contains c
      | .vector c _ => !cs.contains c
      | .matrix c => !cs.contains c
      | .copyCmd _ => true
      | .lexCmd _ => true)
    copies := orphaned cs s2.copies
    lexicons := orphaned cs s2.lexicons
    hems := s2.hems.filter (fun h => !cs.contains h.dst)
    claims := replaceFirst (fun x => x.id == l.claim) (fun x => { x with ended := true }) s2.claims
    contexts := s2.contexts.filter (fun p => !p.2.resident.any (fun r => r.1 == l.id))
    kept := s2.kept.filter (fun p => !p.2.state.resident.any (fun r => r.1 == l.id))
    launches := s2.launches.filter (fun x => x.id != l.id) }

/-- The completion signal of a launch that has ended early, and the end of its packet. -/
def State.closeLaunch (s : State) (x : Closing) : State :=
  (s.setSignal x.claim x.csig x.value).stopRunning x.queue x.number

/-- The signals of the launches whose last command was this one. -/
def State.commandClosed (s : State) (n : Nat) : State :=
  let now (x : Closing) : Bool := x.commands == [n]
  (s.closing.filter now).foldl State.closeLaunch
    { s with
      closing := (s.closing.filter (fun x => !now x)).map (fun x =>
        { x with commands := x.commands.filter (fun m => m != n) }) }

/-- The completion signal of a launch that has been freed is set to `v` once every write of the launch is performed: at
once, or behind the commands `left` that still run (08 R164). -/
def State.closeWith (s : State) (l : Launch) (left : List Nat) (v : Word) : State :=
  let x : Closing := ⟨l.queue, l.number, l.claim, l.csig, v, left⟩
  if left.isEmpty then s.closeLaunch x else { s with closing := s.closing ++ [x] }

/-- A launch that the firmware kills: not a fault, so its completion signal is set to -1 (12 R229), once every write of it
is performed (08 R164). -/
def State.killLaunch (s : State) (l : Launch) : State :=
  ((s.settleWrites l).freeLaunch l).closeWith l (s.unwritten l.cores) minusOne

/-- `fault_end` (13 R246): every slot of the launch stops, the four values and the logical core go into the queue's
fault record, and the queue enters ERROR. CSIG is set to -2 once every write of the launch is performed (08 R164). An
exchange conflict performs no write of its phase (12 R241). -/
def State.faultLaunch (s : State) (l : Launch) (f : FaultRecord) : State :=
  let s0 := (if bits f.cause 0 8 = 0x0E then s else s.settleWrites l).freeLaunch l
  let s1 : State := { s0 with committees := s0.committees.map (fun y => y.strike l.cores) }
  let s2 := s1.setQueue l.queue { s1.queueOf l.queue with fault := some f }
  (s2.queueError l.queue).closeWith l (s.unwritten l.cores) minusTwo

/-- TRAPCAUSE of a trap (13 R244). -/
def causeWord (deferred : Bool) (detail code : Nat) : Word :=
  flagAt 63 deferred ||| fieldAt 8 (detail % 256) ||| word (code % 256)

/-- `fault_end` at a core; a slot of the firmware column, which no launch holds, ends (log 9). -/
def State.faultEnd (s : State) (c k : Nat) (cause : Word) (pc : VAddr) (value : Word) : State :=
  match s.residentOf c with
  | some l => s.faultLaunch l ⟨cause, pc.setWidth 64, value, s.logical c⟩
  | none => s.modSlot c k (fun t => { t with run := .ended, held := false })

/-! ### Crews dissolve (02 R28) -/

/-- A member continues on its own from the first word it has not executed. -/
def Slot.leaveCrew (t : Slot) : Slot :=
  match t.crew with
  | some x =>
    match t.wait, x.due with
    | .formed _, _ => { t with crew := none, forced := none }
    | _, w :: _ => { t with crew := none, pc := w.pc, npc := w.pc, forced := none }
    | _, [] => { t with crew := none, forced := none }
  | none => t

/-- The crew of a slot dissolves. -/
def State.dissolveCrew (s : State) (c k : Nat) : State :=
  match (s.slotOf c k).crew with
  | some x =>
    x.members.foldl
      (fun t m =>
        t.modSlot m.1 m.2 (fun y => if y.crew.any (fun z => z.members == x.members) then y.leaveCrew else y))
      s
  | none => s

/-! ### Taking an exception (13 R245, R246) and returning (R247) -/

/-- Causes that never enter a user handler: translation fault, exchange write conflict, machine check. -/
def firmwareCause (code : Nat) : Bool := code == 0x05 || code == 0x0E || code == 0x0F

/-- The registers a trap writes, and the handler it enters. -/
def Slot.enterHandler (t : Slot) (deferred : Bool) (x : Trap) : Slot :=
  { t with
    trapdef := deferred
    trapdetail := BitVec.ofNat 8 x.detail
    trapcode := BitVec.ofNat 8 x.code
    trapval := x.value
    trappc := t.pc
    inh := true
    pc := t.trapvec
    npc := t.trapvec
    held := false
    wait := .none
    taken := none
    lent := []
    mine := []
    collect := none
    shelved := t.collect }

/-- `take_trap` at a slot: the handler at TRAPVEC, or the end of the launch. -/
def State.takeTrap (s : State) (c k : Nat) (deferred : Bool) (x : Trap) : State :=
  let t := s.slotOf c k
  let s := if x.code = 0x0F then { s with checks := s.checks + 1 } else s
  if firmwareCause x.code || t.inh || t.trapvec == 0 then
    (s.dissolveCrew c k).faultEnd c k (causeWord deferred x.detail x.code) t.pc x.value
  else
    (s.dissolveCrew c k).modSlot c k (fun t => t.enterHandler deferred x)

/-- The slot registers that RETX writes: the handler's end, the replay queue dispatched ahead of later work and the
fetched words discarded (13 R247). -/
def Slot.leaveHandler (t : Slot) (replay : List SeqItem) : Slot :=
  { t with
    inh := false
    vskip := false
    replay := []
    seq := replay ++ t.seq
    collect := t.shelved
    shelved := none
    ahead := (0, [])
    fencing := true
    npc := t.trappc }

/-! ### What a meaning answers -/

/-- Why an instruction does not complete now. -/
inductive Stop where
  /-- A precise trap; the instruction has no effect. -/
  | trap (t : Trap)
  /-- The slot is held and issues the instruction again (02 R18). -/
  | hold
  /-- As `hold`, with a report recorded; nothing is popped. -/
  | held (s : State)
  /-- The instruction has issued a request and waits for its reply; what it popped stays popped. -/
  | sent (s : State)
  /-- The receiving core refused a shared access: the firmware ends the launch (07 R140). -/
  | fatal (t : Trap)
  deriving DecidableEq, Repr

/-- What a meaning computes: the state after the instruction's own effect. -/
abbrev Res := Except Stop State

/-- Trap with a cause, its DETAIL and TRAPVAL. -/
def trapWith {α : Type} (code detail : Nat) (v : Word) : Except Stop α := .error (.trap ⟨code, detail, v⟩)
/-- Illegal operand (13 R245). -/
def illegalOperand {α : Type} (v : Word) : Except Stop α := trapWith 0x02 0 v
/-- Protection trap: DETAIL 0 read, 1 write, 2 fetch, 3 atomic or update. -/
def protection {α : Type} (detail : Nat) (v : Word) : Except Stop α := trapWith 0x04 detail v
/-- Illegal operand where the condition holds. -/
def illegalIf (b : Bool) (v : Word) : Except Stop Unit := if b then illegalOperand v else .ok ()
/-- Hold while the condition holds. -/
def holdIf (b : Bool) : Except Stop Unit := if b then .error .hold else .ok ()

/-- The slot after an instruction has issued: it continues at `npc`, a follower's word is spent (CREW itself is no word
of the crew). -/
def Slot.retired (t : Slot) : Slot :=
  { t with
    pc := t.npc
    wait := match t.wait with
      | .page va => .page va
      | _ => .none
    held := false
    waited := 0
    taken := none
    lent := []
    mine := []
    forced := none
    crew := match t.wait with
      | .formed _ => t.crew
      | _ => t.crew.map (fun x => { x with due := x.due.drop 1 }) }

/-- An instruction retires: RETIRED counts it once (03 R75). -/
def State.retire (s : State) : State :=
  (s.modMe Slot.retired).modMyCore (fun x =>
    { x with retired := x.retired + 1, last := s.cur.slot, pops := x.pops ++ s.me.lent })

/-- The state `t` with the ports, and the elements that wait for room in them, as they stand in `s`: what was to be popped
since is not. -/
def State.unpopped (s t : State) : State :=
  t.modMyCore (fun x =>
    { x with
      ports := s.myCore.ports, notes := s.myCore.notes, backlog := s.myCore.backlog
      pops := s.myCore.pops
      copyBuf := s.myCore.copyBuf, lexBuf := s.myCore.lexBuf })

/-- An element stands at the head of its port again; one that entered behind it waits for room as before. -/
def CoreState.returned (x : CoreState) (p : Nat) (w : Word) : CoreState :=
  let l := w :: x.port p
  let y := x.setPort p (l.take (portDepth p))
  match l.drop (portDepth p) with
  | [] => y
  | z :: zs =>
    if p = 7 then { y with backlog := z :: zs ++ x.backlog }
    else if p = 4 then { y with notes := z :: zs ++ x.notes }
    else if p = 3 ∧ 0x20 ≤ bits z 40 8 then { y with lexBuf := z :: zs ++ x.lexBuf }
    else if p = 3 then { y with copyBuf := z :: zs ++ x.copyBuf }
    else x.setPort p l

/-- Elements that a slot's waiting instruction popped stand at the heads of their ports again (03 R56). -/
def CoreState.giveBack (x : CoreState) (k : Nat) : CoreState :=
  if (x.slotOf k).lent.isEmpty then x
  else
    let y := (x.slotOf k).lent.foldr (fun p (x : CoreState) => x.returned p.1 p.2) x
    y.setSlot k { y.slotOf k with lent := [], taken := none }

/-- The same for the slot of the step. -/
def State.giveBack (s : State) : State :=
  if s.me.lent.isEmpty then s else s.modMyCore (fun x => x.giveBack s.cur.slot.val)

/-- The outcome of an instruction of the slot: its effect and the next address, a hold, or the trap taken from the state
before it. -/
def State.finish (s : State) (r : Res) : Outcome :=
  match r with
  | .ok t => .next t.retire
  | .error (.trap x) => .next (s.giveBack.takeTrap s.cur.core s.cur.slot.val false x)
  | .error .hold => .next (s.modMe (fun t => { t with held := true }))
  | .error (.held t) => .next ((s.unpopped t).modMe (fun t => { t with held := true }))
  | .error (.sent t) =>
    .next ((t.modMe (fun u =>
      { u with
        held := true
        taken := some (u.taken.getD s.myCore.ports)
        lent := u.lent ++ t.myCore.pops.drop s.myCore.pops.length })).modMyCore (fun x =>
      { x with pops := s.myCore.pops }))
  | .error (.fatal x) =>
    .next ((if x.code = 0x04 then s.report .remoteRefused
      else if x.code = 0x0F then { s with checks := s.checks + 1 } else s).faultEnd s.cur.core s.cur.slot.val
      (causeWord false x.detail x.code) s.me.pc x.value)

/-- The outcome of a row of another agent: it takes place where it is due, and nothing changes where it is not. -/
def State.event (s : State) (r : Option State) : Outcome := .next (r.getD s)

end Sys2Proof.Machine
end

