-- ==== Sys2Proof/Machine/Operands.lean ====
section
/-! DEFINITION. Operands: registers and queue ports (03 R54-R56), fat pointers and effective addresses (07 R134), the
rows of the virtual map and the accesses a slot makes through them (07 R132-R146, 21 R336). -/

namespace Sys2Proof.Machine

/-! ### Registers and ports -/

/-- The field names a queue port. -/
def isPort (r : GReg) : Bool := 24 ≤ r.val
/-- The port a field names. -/
def portOf (r : GReg) : Nat := r.val - 24
/-- Ports the integer side reads (03 R55). -/
def portReads (p : Nat) : Bool := p == 0 || p == 2 || p == 3 || p == 4 || p == 6 || p == 7
/-- Ports the integer side writes. -/
def portWrites (p : Nat) : Bool := p == 1 || p == 5

/-- A field as a source: a read port or a register. -/
def srcOk (r : GReg) : Bool := !isPort r || portReads (portOf r)
/-- A field as a destination: a write port or a register. -/
def dstOk (r : GReg) : Bool := !isPort r || portWrites (portOf r)

/-- Elements the sources pop from port `p`. -/
def popsOf (p : Nat) (srcs : List GReg) : Nat := (srcs.filter (fun r => isPort r && portOf r == p)).length

/-- The destination port has room, and q1 is not another slot's. -/
def State.roomFor (s : State) (r : GReg) : Bool :=
  !isPort r || (((s.myCore.port (portOf r)).length < portDepth (portOf r)) &&
    (portOf r != 1 || s.myCore.owner.all (fun o => o.slot == s.cur.slot.val)))

/-- The elements a source finds in a port: those of its first issue where the instruction waits for a reply. -/
def State.inPort (s : State) (p : Nat) : List Word :=
  match s.me.taken with
  | some v => vget v p []
  | none => s.myCore.port p

/-- Issue conditions of 03 R56: directions first, then elements and room. -/
def State.ports (s : State) (srcs dsts : List GReg) : Except Stop Unit :=
  if srcs.any (fun r => !srcOk r) || dsts.any (fun r => !dstOk r) then illegalOperand 0
  else if (List.range 8).any (fun p => (s.inPort p).length < popsOf p srcs) then .error .hold
  else if dsts.any (fun r => !s.roomFor r) then .error .hold
  else .ok ()

/-- Elements that wait for q7 enter as far as there is room. -/
def CoreState.fillQ7 (x : CoreState) : CoreState :=
  let n := portDepth 7 - (x.port 7).length
  { x.setPort 7 (x.port 7 ++ x.backlog.take n) with backlog := x.backlog.drop n }

/-- A core after an element of a port is popped: elements that waited for room enter. -/
def CoreState.popped (x : CoreState) (p : Nat) : CoreState :=
  let x := { x.setPort p ((x.port p).drop 1) with pops := x.pops ++ ((x.port p).take 1).map (fun w => (p, w)) }
  if p = 3 then
    match x.copyBuf, x.lexBuf with
    | w :: ws, _ => { x.setPort 3 (x.port 3 ++ [w]) with copyBuf := ws }
    | [], w :: ws => { x.setPort 3 (x.port 3 ++ [w]) with lexBuf := ws }
    | [], [] => x
  else if p = 4 then
    match x.notes with
    | w :: ws => { x.setPort 4 (x.port 4 ++ [w]) with notes := ws }
    | [] => x
  else if p = 7 then x.fillQ7
  else x

/-- A register or the head of a port. -/
def State.peekG (s : State) (r : GReg) : Word :=
  if r.val = 0 then 0
  else if isPort r then (s.inPort (portOf r)).headD 0
  else vget s.me.g r.val 0

/-- The state after a source field is read: a port pops. -/
def State.takeG (s : State) (r : GReg) : State :=
  if isPort r then
    match s.me.taken with
    | some v => s.modMe (fun t => { t with taken := some (vset v (portOf r) ((vget v (portOf r) []).drop 1)) })
    | none => s.modMyCore (fun x => x.popped (portOf r))
  else s

/-- A source field read: its value and the state after it. -/
def State.readG (s : State) (r : GReg) : Word × State := (s.peekG r, s.takeG r)

/-! ### The work of the vector sequencer, as the integer pipe sees it -/

/-- A vector instruction that loads by an address. -/
def vectorLoads : Instr → Bool
  | .vld _ _ _ _ _ => true | .vldc _ _ _ _ _ => true | .vgath _ _ _ _ _ => true | .gmask _ _ => true
  | _ => false

/-- A vector instruction that stores by an address. -/
def vectorStores : Instr → Bool
  | .vst _ _ _ _ _ => true | .vstc _ _ _ _ _ => true | .vscat _ _ _ _ _ => true
  | _ => false

/-- Some instruction of a list of the sequencer satisfies `p`. -/
def seqAny (p : VEntry → Bool) (l : List SeqItem) : Bool :=
  l.any (fun i =>
    match i with
    | .op e => p e
    | .loop b _ _ => b.any p
    | .mark _ _ => false)

/-- The list holds a marker of SEN. -/
def seqMarks (l : List SeqItem) : Bool :=
  l.any (fun i =>
    match i with
    | .op _ => false
    | .loop _ _ _ => false
    | .mark _ _ => true)

/-- Executions still to come. -/
def seqPending (l : List SeqItem) : Nat :=
  (l.map (fun i =>
    match i with
    | .op _ => 1
    | .loop body reps next => reps * body.length - next
    | .mark _ _ => 0)).sum

/-- The sequencer of the slot still holds work that accesses memory (08 R158). -/
def Slot.seqTouches (t : Slot) : Bool :=
  let bound := t.streams.toList.any (·.en)
  seqAny (fun e => vectorLoads e.instr || vectorStores e.instr || bound) t.seq || seqMarks t.seq

/-- The latched write is one of the slot's. -/
def Latched.ofSlot (r : Latched) (c k : Nat) : Bool :=
  match r with
  | .unit r => r.core == c && r.slot == k && r.data.isSome
  | .remote r => r.core == c && r.slot == k && r.req.writes
  | .host _ _ _ => false

/-- Every write that the slot has issued is performed: its buffered, remote and latched ones and its event-unit stores. -/
def State.writesOut (s : State) (c k : Nat) : Bool :=
  (s.slotOf c k).buffer.all (·.done) &&
  !s.remotes.any (fun r => r.core == c && r.slot == k && r.req.writes) &&
  !s.unitReqs.any (fun r => r.core == c && r.slot == k && r.data.isSome) &&
  !s.latches.any (fun r => r.2.ofSlot c k)

/-- Every write of the slot is performed, and its vector stores too: a release may pass (08 R153, R158). -/
def State.releaseReady (s : State) (c k : Nat) : Bool := s.writesOut c k && !(s.slotOf c k).seqTouches

/-- A message that is whole in q1 is sent, its DST replaced by the sender's logical number; a deterministic launch
buffers it (02 R39). -/
def State.sendMessage (s : State) : State :=
  let c := s.cur.core
  let es := s.myCore.port 1
  match es, s.groupRect c, s.residentOf c with
  | h :: pay, some r, some l =>
    let m : Message := ⟨c, r.coreOf (bits h 0 13), ((h &&& 0xFFFFFFFFFFFFE000) ||| word (s.logical c)) :: pay⟩
    let s1 := s.modMyCore (fun x => { x.setPort 1 [] with owner := none })
    if l.det then
      s1.modLaunch l.id (fun l => l.modPhase (s.groupOf c) (fun ph => { ph with messages := ph.messages ++ [m] }))
    else { s1 with messages := s1.messages ++ [m] }
  | _, _, _ => s.modMyCore (fun x => { x.setPort 1 [] with owner := none })

/-- An element pushed to q1: a header is checked, and the last element of a message sends it, as a release (02 R39,
08 R161). -/
def State.pushMessage (s : State) (v : Word) : Res :=
  let x := s.myCore
  match x.owner with
  | some o =>
    let s1 := s.modMyCore (fun x => { x.setPort 1 (x.port 1 ++ [v]) with owner := some ⟨o.slot, o.left - 1⟩ })
    if o.left ≤ 1 then (if s.releaseReady s.cur.core s.cur.slot.val then .ok s1.sendMessage else .error .hold)
    else .ok s1
  | none =>
    let size := ((s.groupRect s.cur.core).map (fun r => r.w * r.h)).getD 0
    if bits v 32 32 ≠ 0 ∨ size ≤ bits v 0 13 then illegalOperand 0
    else
      let s1 := s.modMyCore (fun x =>
        { x.setPort 1 (x.port 1 ++ [v]) with owner := some ⟨s.cur.slot.val, bits v 13 3⟩ })
      if bits v 13 3 = 0 then
        (if s.releaseReady s.cur.core s.cur.slot.val then .ok s1.sendMessage else .error .hold)
      else .ok s1

/-- A destination field written: g0 discards, a port pushes (03 R54, R56). -/
def State.writeG (s : State) (r : GReg) (v : Word) : Res :=
  if r.val = 0 then .ok s
  else if isPort r then
    (if portOf r = 1 then s.pushMessage v
     else .ok (s.modMyCore (fun x => x.setPort (portOf r) (x.port (portOf r) ++ [v]))))
  else .ok (s.modMe (fun t => { t with g := vset t.g r.val v }))

/-! ### Fat pointers (07 R134, R135) -/

/-- The format code is assigned. -/
def fmtOk (f : Nat) : Bool :=
  f ≤ 0x0A || (0x10 ≤ f && f ≤ 0x36 && f != 0x17 && f != 0x1F && f != 0x27 && f != 0x2F)
/-- FMT. -/
def fatFmt (p : Word) : Nat := bits p 58 6
/-- BLK. -/
def fatBlk (p : Word) : Nat := bits p 55 3
/-- SEED. -/
def fatSeed (p : Word) : Nat := bits p 51 4
/-- VA. -/
def fatVa (p : Word) : Nat := bits p 0 48
/-- The checks every access makes on its pointer. -/
def fatOk (p : Word) : Bool := bits p 48 3 == 0 && fmtOk (fatFmt p) && fatBlk p ≤ 5

/-- `ea(p, d, i, s)` of 20 R289, before the row is looked at. -/
def ea (p : Word) (d : Int) (i : Word) (sh : Nat) : Except Stop Nat :=
  if !fatOk p then illegalOperand 0
  else
    let v : Int := fatVa p + d + i.toInt * 2 ^ sh
    if v < 0 ∨ 2 ^ 48 ≤ v then trapWith 0x03 0 (wordOfInt v) else .ok v.toNat

/-! ### Rows of the virtual map (07 R132) -/

/-- The rows. -/
inductive Row where
  | self | claim | unit | engine | device | page | firmware | unmapped
  deriving DecidableEq, Repr

/-- The row of a byte. -/
def rowAt (e : Nat) : Row :=
  if e < 0x100000 then .self
  else if e < 0x100000000 then .unmapped
  else if e < 0x300000000 then .claim
  else if e < 0x300001000 then .unit
  else if e < 0x300010000 then .unmapped
  else if e < 0x300010100 then .engine
  else if e < 0x400000000 then .unmapped
  else if e < 0x500000000 then .device
  else if e < 0x100000000000 then .unmapped
  else if e < 0x800000000000 then .page
  else if e < 0x1000000000000 then .firmware
  else .unmapped

/-- The row that holds every byte of an access. -/
def rowFor (e n : Nat) : Row := if rowAt e = rowAt (e + n - 1) then rowAt e else .unmapped

/-- Slice of a claim-window address. -/
def sliceOf (e : Nat) : Nat := (e - 0x100000000) / 2 ^ 20
/-- Offset in the slice. -/
def sliceOff (e : Nat) : Nat := e % 2 ^ 20

/-- The core of a claim-window address, if the slice lies in the claim (07 R139). -/
def State.sliceCore (s : State) (c e : Nat) : Option Nat :=
  match s.claimOf c with
  | some x => if sliceOf e < x.rect.w * x.rect.h then some (x.rect.coreOf (sliceOf e)) else none
  | none => none

/-- The machine check for a word (13 R245). -/
def machineTrap (a : Nat) : Trap :=
  if a < hbmBase then ⟨0x0F, 0, word (wordAddr a)⟩
  else if a < lpddrBase then ⟨0x0F, 1, word (wordAddr a - hbmBase)⟩
  else ⟨0x0F, 2, word (wordAddr a - lpddrBase)⟩

/-- A word that cannot be corrected raises a machine check. -/
def machineCheck {α : Type} (a : Nat) : Except Stop α := .error (.trap (machineTrap a))

/-- The first word of the range that cannot be corrected raises a machine check (13 R250). -/
def State.checkEcc (s : State) (a n : Nat) : Except Stop Unit :=
  match (wordsOf a n).find? (fun w => s.poisoned.contains w) with
  | some w => machineCheck w
  | none => .ok ()

/-! ### Writes not yet performed, and words read ahead (08 R150, R153, R158) -/

/-- Two ranges of bytes meet. -/
def spansMeet (a n b m : Nat) : Bool := decide (a < b + m) && decide (b < a + n)

/-- A remote write of the slot to these bytes is still in flight. -/
def State.ownRemote (s : State) (c k a n : Nat) : Bool :=
  s.remotes.any (fun r => r.core == c && r.slot == k && r.req.writes &&
    decide (sram r.dst r.off < a + n) && decide (a < sram r.dst r.off + r.req.size))

/-- An update of the slot to these bytes is still in flight. -/
def State.ownUpdate (s : State) (c k a n : Nat) : Bool :=
  s.remotes.any (fun r => r.core == c && r.slot == k && r.req.writes && r.req.reads &&
    spansMeet a n (sram r.dst r.off) r.req.size)

/-- A store writes one of these bytes. -/
def Pend.meets (p : Pend) (a n : Nat) : Bool := p.cells.any (fun c => decide (a ≤ c.1) && decide (c.1 < a + n))

/-- Two stores write one byte. -/
def Pend.overlaps (p q : Pend) : Bool := p.cells.any (fun c => q.cells.any (fun d => c.1 == d.1))

/-- A store in the slot's buffer to these bytes is not performed. -/
def Slot.bufferMeets (t : Slot) (a n : Nat) : Bool :=
  t.buffer.any (fun p => !p.done && p.meets a n)

/-- The byte that a store writes `i` bytes from its address. -/
def Req.byte (r : Req) (i : Nat) : Option Byte :=
  match r with
  | .store n w => if i < n then (leBytes n w.toNat)[i]? else none
  | .masked m w => if m.getLsbD i then (leBytes 8 w.toNat)[i]? else none
  | .load _ => none
  | .atomic _ _ _ _ _ => none
  | .upd _ _ => none

/-- The byte of the latest store of the slot to an address that is not performed; `all` counts the stores that come after
pending vector work too. -/
def State.ownByte (s : State) (c k : Nat) (all : Bool) (a : Nat) : Option Byte :=
  match (s.slotOf c k).buffer.reverse.findSome? (fun p =>
      if !p.done && (all || p.after == 0) then (p.cells.find? (fun c => c.1 == a)).map (·.2) else none) with
  | some b => some b
  | none =>
    s.remotes.reverse.findSome? (fun r =>
      if r.core == c && r.slot == k && (all || r.after == 0) && decide (sram r.dst r.off ≤ a) then
        r.req.byte (a - sram r.dst r.off)
      else none)

/-- The byte of a word that the slot has read ahead. -/
def Slot.earlyByte (t : Slot) (a : Nat) : Option Byte :=
  (t.early.find? (fun x => x.addr == wordAddr a)).map (fun x => BitVec.ofNat 8 (x.value.toNat / 2 ^ (8 * (a % 8))))

/-- Nothing of the slot's own stands between it and these bytes of memory. -/
def State.plainRead (s : State) (a n : Nat) : Bool :=
  s.me.buffer.isEmpty && s.me.early.isEmpty && s.me.passed.isEmpty && !s.me.seqTouches &&
  !s.ownRemote s.cur.core s.cur.slot.val a n

/-- The byte that a scalar load of the slot returns: its own latest store, a word read ahead, or memory's. -/
def State.seenByte (s : State) (a : Nat) : Byte :=
  match s.ownByte s.cur.core s.cur.slot.val true a with
  | some b => b
  | none => (s.me.earlyByte a).getD (readCell s.mem a)

/-- Words read ahead that these bytes touch are forgotten: a later access of the slot has reached them. -/
def State.forgetEarly (s : State) (a n : Nat) : State :=
  if s.me.early.isEmpty then s
  else s.modMe (fun t => { t with early := t.early.filter (fun x => !spansMeet x.addr 8 a n) })

/-- A scalar load notes what it has read past the vector work of the slot, which the earlier vector loads return too. -/
def State.notePassed (s : State) (a : Nat) (bs : List Byte) : State :=
  if s.me.seqTouches then
    s.modMe (fun t =>
      { t with
        passed := t.passed ++ ((List.range bs.length).filter (fun i =>
            (s.ownByte s.cur.core s.cur.slot.val true (a + i)).isNone)).map
          (fun i => ⟨a + i, bs[i]?.getD 0, seqPending t.seq⟩) })
  else s

/-- While it holds words read ahead, a slot notes whose write a load of it has returned (08 R155). -/
def State.noteSaw (s : State) (c k a : Nat) : State :=
  if (s.slotOf c k).early.isEmpty then s
  else
    s.modSlot c k (fun t =>
      { t with
        saw := (match t.early.find? (fun x => x.addr == wordAddr a) with
          | some x => x.writer
          | none => find? (wordAddr a) s.recent) :: t.saw })

/-- Bytes as a load of the slot finds them, and the state after it. -/
def State.slotRead (s : State) (a n : Nat) : List Byte × State :=
  if s.plainRead a n then (s.readBytes a n, s)
  else
    let bs := (List.range n).map (fun i => s.seenByte (a + i))
    (bs, ((s.notePassed a bs).noteSaw s.cur.core s.cur.slot.val a).forgetEarly a n)

/-- The same as a word. -/
def State.slotWord (s : State) (a n : Nat) : Word × State :=
  if s.plainRead a n then (s.readN a n, s) else (word (leNat (s.slotRead a n).1), (s.slotRead a n).2)

/-- The byte of a vector load that does not come from memory: the slot's own store before it, what a scalar load has read
past it, or a word read ahead. -/
def State.vectorKnown (s : State) (a : Nat) : Option Byte :=
  match s.ownByte s.cur.core s.cur.slot.val false a with
  | some b => some b
  | none =>
    match s.me.passed.find? (fun x => x.addr == a) with
    | some x => some x.value
    | none => s.me.earlyByte a

/-- Bytes as a vector load finds them: an earlier scalar load of them is not overtaken. -/
def State.vectorByte (s : State) (a : Nat) : Byte := (s.vectorKnown a).getD (readCell s.mem a)

/-- Bytes of a vector load, and the state after it. -/
def State.vectorRead (s : State) (a n : Nat) : List Byte × State :=
  if s.me.buffer.isEmpty && s.me.early.isEmpty && s.me.passed.isEmpty && !s.ownRemote s.cur.core s.cur.slot.val a n then
    (s.readBytes a n, s)
  else
    ((List.range n).map (fun i => s.vectorByte (a + i)), (s.noteSaw s.cur.core s.cur.slot.val a).forgetEarly a n)

/-- The first word of the range that cannot be corrected, and that the slot reads from memory, raises a machine check. -/
def State.checkSeen (s : State) (a n : Nat) : Except Stop Unit :=
  if s.me.buffer.isEmpty then s.checkEcc a n
  else
    match (wordsOf a n).find? (fun w => s.poisoned.contains w && !(List.range 8).all (fun i =>
        decide (w + i < a) || decide (a + n ≤ w + i) ||
          (s.ownByte s.cur.core s.cur.slot.val true (w + i)).isSome)) with
    | some w => machineCheck w
    | none => .ok ()

/-- The scope reaches a core: `.co` only its own, `.cl` its cluster's (07 R142, 08 R152). -/
def scopeReaches (sc : Scope) (c d : Nat) : Bool :=
  match sc with
  | .co => c == d
  | .cl => clusterOf c == clusterOf d
  | .dv => true
  | .sy => true

/-- A scope smaller than the claim's. -/
def narrowScope (sc : Scope) : Bool := sc == .co || sc == .cl

/-- A write of the slot numbered below `n` is not performed. -/
def State.earlierOpen (s : State) (c k n : Nat) : Bool :=
  (s.slotOf c k).buffer.any (fun p => !p.done && decide (p.number < n)) ||
  s.remotes.any (fun r => r.core == c && r.slot == k && r.req.writes && decide (r.number < n)) ||
  s.latches.any (fun r =>
    match r.2 with
    | .remote r => r.core == c && r.slot == k && r.req.writes && decide (r.number < n)
    | .unit _ => false
    | .host _ _ _ => false)

/-- A narrow release still has earlier writes of its slot to come. -/
def State.narrowOpen (s : State) (x : Narrow) : Bool := s.earlierOpen x.core x.slot x.below

/-- A slot that the scope of a narrow release in these bytes holds reads them once the earlier writes of the releasing slot
are performed too (08 R155). -/
def State.narrowHeldBy (s : State) (c k a n : Nat) : Bool :=
  s.narrow.any (fun x => spansMeet x.addr x.size a n && scopeReaches x.scope x.core c && (x.core != c || x.slot != k) &&
    s.narrowOpen x)

/-- The same for the slot of the step. -/
def State.narrowHeld (s : State) (a n : Nat) : Bool := s.narrowHeldBy s.cur.core s.cur.slot.val a n

/-- A slot's store or atomic to these bytes, as a release of a narrow scope, has been performed before its writes numbered
below. -/
def State.addNarrow (s : State) (c k : Nat) (sc : Scope) (a n below : Nat) : State :=
  if s.earlierOpen c k below then { s with narrow := s.narrow.filter s.narrowOpen ++ [⟨c, k, sc, a, n, below⟩] } else s

/-- Some slot holds words read ahead. -/
def State.someEarly (s : State) : Bool := s.cores.any (fun p => p.2.slots.toList.any (fun t => !t.early.isEmpty))

/-- The writer of the words of a range, kept while some slot holds words read ahead; `numCores` where several cores have
had a part in a word: an atomic goes on with the release sequence of the write before it. -/
def State.noteWriter (s : State) (c a n : Nat) (chain : Bool) : State :=
  if s.someEarly then
    { s with
      recent := (wordsOf a n).foldl
        (fun l w =>
          insertKey w
            (match find? w l with
             | some p => if p = c || (!chain && decide (a ≤ w) && decide (w + 8 ≤ a + n)) then c else numCores
             | none => c) l)
        s.recent }
  else if s.recent.isEmpty then s
  else { s with recent := [] }

/-- A write of a slot, numbered `m`, has been performed: as a release of its own scope where it is one, and of the fences
before it (08 R155, R156). -/
def State.noteWrite (s : State) (c k m a n : Nat) (sc : Option Scope) (chain : Bool := false) : State :=
  let s1 := (sc.map (fun z => s.addNarrow c k z a n m)).getD s
  ((s1.slotOf c k).fences.foldl (fun t f => if f.2 ≤ m then t.addNarrow c k f.1 a n f.2 else t) s1).noteWriter c a n chain

/-- A release by the slot of the step. -/
def State.release (s : State) : Except Stop Unit := holdIf (!s.releaseReady s.cur.core s.cur.slot.val)

/-! ### The order of scalar accesses and vector work (08 R158, log 16) -/

/-- The g field of a vector instruction that the sequencer reads. -/
def vectorG : Instr → Option GReg
  | .vld _ b _ _ _ => some b | .vst _ b _ _ _ => some b | .vldc _ b _ _ _ => some b | .vstc _ b _ _ _ => some b
  | .vgath _ b _ _ _ => some b | .vscat _ b _ _ _ => some b | .gmask _ b => some b
  | .vbcast _ b _ => some b | .vmovv _ b _ _ => some b | .kmovKFromG _ b => some b
  | _ => none

/-- The vector instruction pushes q6. -/
def vectorPushes : Instr → Bool
  | .vrsum _ _ _ => true | .vrmax _ _ _ => true | .vargmx _ _ _ => true | .vpack _ _ _ _ => true
  | .vcmpk _ _ _ _ => true
  | _ => false

/-- The sequencer waits for the integer pipe: its next execution finds q5 empty or q6 full (09 R183). -/
def State.seqStuck (s : State) : Bool :=
  let wants (i : Instr) : Bool :=
    ((vectorG i).any (fun r => r.val == 29) && (s.myCore.port 5).isEmpty) ||
    (vectorPushes i && decide (portDepth 6 ≤ s.myCore.inUse 6))
  match s.me.seq with
  | .op e :: _ => wants e.instr
  | .loop b _ n :: _ => (b[n]?).any (fun e => wants e.instr)
  | .mark _ _ :: _ => false
  | [] => false

/-- A claim-window address as one of the SRAM it stands for, so that the two windows of a core's own slice compare. -/
def State.spot (s : State) (e : Nat) : Nat :=
  match rowAt e with
  | .self => sram s.cur.core e
  | .claim => ((s.sliceCore s.cur.core e).map (fun d => sram d (sliceOff e))).getD (2 ^ 62 + e)
  | .page => 2 ^ 61 + e % 2 ^ 16
  | _ => 2 ^ 62 + e

/-- Two accesses may touch one byte. Two addresses of translated space may be one page, so only their places within a
64 KiB page are compared. -/
def State.mayMeet (s : State) (a n b m : Nat) : Bool :=
  let x := s.spot a
  let y := s.spot b
  if rowAt a = .page ∧ rowAt b = .page then
    decide ((y + 2 ^ 16 - x % 2 ^ 16) % 2 ^ 16 < n) || decide ((x + 2 ^ 16 - y % 2 ^ 16) % 2 ^ 16 < m)
  else spansMeet x n y m

/-- Total elements of a stream: the product of the bounds (09 R179). -/
def Stream.total (x : Stream) : Nat := recField x.desc 8 4 * recField x.desc 12 4 * recField x.desc 16 4

/-- DIR: a write stream. -/
def Stream.writes (x : Stream) : Bool := recField x.desc 33 1 == 1

/-- The bytes between the lowest and the highest element of a stream. -/
def Stream.hull (x : Stream) : Nat × Nat :=
  let reach (b s : Nat) : Int := (recField x.desc b 4 - 1 : Nat) * recSigned x.desc s 4
  let rs := [reach 8 20, reach 12 24, reach 16 28]
  let base : Int := fatVa (recWord x.desc 0)
  let lo := base + (rs.map (fun r => min 0 r)).sum
  let hi := base + (rs.map (fun r => max 0 r)).sum + 8
  (lo.toNat, (hi - lo).toNat)

/-- A dispatched store of the slot may write one of these bytes. A vector footprint is at most 512 bytes; the address of
VSCAT and of a pointer that q5 will give is not known, and a write stream may write any of its elements. -/
def State.seqWrites (s : State) (e n : Nat) : Bool :=
  seqAny (fun v =>
    match v.instr with
    | .vst _ b d _ _ => b.val == 29 || s.mayMeet e n (fatVa v.g + d).toNat 512
    | .vstc _ b d _ _ => b.val == 29 || s.mayMeet e n (fatVa v.g + d).toNat 512
    | .vscat _ _ _ _ _ => true
    | _ => false) s.me.seq ||
  s.me.streams.toList.any (fun x => (x.en || seqMarks s.me.seq) && x.configured && x.writes &&
    s.mayMeet e n x.hull.1 x.hull.2)

/-- The slot's sequencer holds a load: FENCE with an acquire waits for it. -/
def Slot.seqReads (t : Slot) : Bool :=
  seqAny (fun e => vectorLoads e.instr) t.seq || seqMarks t.seq ||
  (!t.seq.isEmpty && t.streams.toList.any (fun x => x.en && !x.writes))

/-- Every earlier store of the slot that its fetch could read is performed: its own slice and pages, and what its vector
sequencer still stores, unless the sequencer itself waits for the integer pipe (log 16). -/
def State.codeReady (s : State) : Bool :=
  s.me.buffer.all (·.done) &&
  !s.remotes.any (fun r => r.core == s.cur.core && r.slot == s.cur.slot.val && r.dst == s.cur.core && r.req.writes) &&
  (s.seqStuck ||
    !(seqAny (fun e => vectorStores e.instr) s.me.seq || seqMarks s.me.seq ||
      (!s.me.seq.isEmpty && s.me.streams.toList.any (fun x => x.en && x.writes))))

/-- Every earlier page-2 instruction of the slot has executed. -/
def State.vectorDone (s : State) : Except Stop Unit := holdIf (!s.me.seq.isEmpty)

/-- The slot's earlier vector accesses come first (08 R158). -/
def State.afterVector (s : State) : Except Stop Unit := holdIf s.me.seqTouches

/-- A load of these bytes has to wait for the slot's vector work. -/
def State.seqTouchesAt (s : State) (e n : Nat) : Bool := s.me.seqTouches && (!s.seqStuck || s.seqWrites e n)

/-- A load of these bytes comes after the slot's earlier vector stores to them, and after its other vector work unless the
sequencer itself waits for the integer pipe (log 16). -/
def State.afterVectorAt (s : State) (e n : Nat) : Except Stop Unit :=
  holdIf (s.seqTouchesAt e n)

/-- A store waits for the slot's vector work, unless the sequencer waits for the integer pipe: then it goes into the
buffer behind that work. -/
def State.storeOrder (s : State) : Except Stop Unit := holdIf (s.me.seqTouches && !s.seqStuck)

/-! ### Writes of a core's own SRAM, and shared accesses of a deterministic launch (08 R165) -/

/-- Values that the words of a range had, kept once a phase; none for a word that cannot be corrected. -/
def noteOlds (s : State) (a n : Nat) (l : List (Nat × Option Word)) : List (Nat × Option Word) :=
  (wordsOf a n).foldl
    (fun l w =>
      if (find? w l).isSome then l
      else insertKey w (if s.poisoned.contains w then none else some (s.readN w 8)) l)
    l

/-- A phase in which the words of a range are written now, outside its own exchange. -/
def Phase.note (ph : Phase) (s : State) (a n : Nat) : Phase :=
  { ph with olds := noteOlds s a n ph.olds, owned := ph.owned ++ wordsOf a n }

/-- Bytes written to the SRAM of core `c` by the core itself. -/
def State.selfWrite (s : State) (c a : Nat) (bs : List Byte) : State :=
  match s.residentOf c with
  | some l =>
    if l.det then
      (s.modLaunch l.id (fun l => l.modPhases (fun ph => ph.note s a bs.length))).writeBytes a bs
    else s.writeBytes a bs
  | none => s.writeBytes a bs

/-- A store of the slot performed. -/
def State.performStore (s : State) (a : Nat) (bs : List Byte) : State :=
  if a / 2 ^ 20 = s.cur.core then s.selfWrite s.cur.core a bs else s.writeBytes a bs

/-- A store of the slot numbered `m` performed, each word's bytes in one piece. -/
def State.performCells (s : State) (m : Nat) (sc : Option Scope) (cs : List Host.Cell) : State :=
  (wordRuns cs).foldl
    (fun t r => (t.performStore r.1 r.2).noteWrite s.cur.core s.cur.slot.val m r.1 r.2.length sc) s

/-- A store of the slot into its buffer, behind `after` executions of its sequencer. -/
def State.pushStore (s : State) (cs : List Host.Cell) (after : Nat) (sc : Option Scope) : State :=
  { s.modMe (fun t => { t with buffer := t.buffer ++ [⟨s.fresh, cs, after, sc, none, false⟩] }) with
    fresh := s.fresh + 1 }

/-- The slot's stores go to its buffer: where its turn says so, or behind vector work (08 R153). A deterministic launch
performs its self-window writes at once (08 R165). -/
def State.defers (s : State) : Bool :=
  !s.isDet s.cur.core && (s.me.deferStores || s.me.seqTouches || s.me.buffer.any (fun p => !p.done))

/-- A store of a deterministic launch performed ahead of the vector work that comes before it in program order: the vector
loads of that work still find the bytes it has replaced, and its vector stores leave the bytes it has written. -/
def State.storeAhead (s : State) (cs : List Host.Cell) : State :=
  let left := seqPending s.me.seq
  { (s.modMe (fun t =>
      { t with
        passed := t.passed ++ cs.map (fun c => ⟨c.1, readCell s.mem c.1, left⟩)
        buffer := t.buffer ++ [⟨s.fresh, cs, left, none, none, true⟩] })).performCells s.fresh none cs with
    fresh := s.fresh + 1 }

/-- A later store of the slot has written the byte already. -/
def Slot.overtaken (t : Slot) (a : Nat) : Bool :=
  t.buffer.any (fun p => p.done && p.after != 0 && p.cells.any (fun c => c.1 == a))

/-- A vector store into the buffer of its slot, ahead of the scalar stores that come after it in program order. -/
def State.pushVectorStore (s : State) (cs : List Host.Cell) (st : Option Nat) : State :=
  { s.modMe (fun t =>
      { t with
        buffer := t.buffer.filter (fun p => p.after == 0) ++ ⟨s.fresh, cs, 0, none, st, false⟩ ::
          t.buffer.filter (fun p => p.after != 0) }) with
    fresh := s.fresh + 1 }

/-- The bytes of one word of a vector store: those that a later store has not written already, which earlier vector loads
still find. -/
def State.vectorStore (s : State) (cs : List Host.Cell) (st : Option Nat) : State :=
  let behind := s.me.buffer.any (·.done)
  let s1 := cs.foldl (fun t c => t.forgetEarly c.1 1) s
  let s2 :=
    if behind then
      s1.modMe (fun t =>
        { t with
          passed := t.passed.map (fun x =>
            if t.overtaken x.addr then { x with value := (find? x.addr cs).getD x.value } else x) })
    else s1
  let left := if behind then cs.filter (fun c => !s.me.overtaken c.1) else cs
  if s.me.deferStores && !s.isDet s.cur.core then s2.pushVectorStore left st else s2.performCells s.fresh none left

/-- Entry `n` of a buffer may be performed: no vector work and no earlier store to its bytes comes before it. -/
def Slot.mayPerform (t : Slot) (n : Nat) : Bool :=
  match t.buffer[n]? with
  | some p => !p.done && p.after == 0 && !((t.buffer.take n).any (fun q => !q.done && p.overlaps q))
  | none => false

/-- Entry `n` of the buffer of the slot of the step is performed. -/
def State.performAt (s : State) (n : Nat) : State :=
  match s.me.buffer[n]? with
  | some p =>
    if s.me.mayPerform n then
      (s.modMe (fun t => { t with buffer := dropAt t.buffer n })).performCells p.number p.scope p.cells
    else s
  | none => s

/-- A slot that no longer defers performs what it can, oldest first. -/
def State.performDue (s : State) : Nat → State
  | 0 => s
  | n + 1 =>
    if s.me.deferStores && !s.isDet s.cur.core then s
    else
      match (List.range s.me.buffer.length).find? s.me.mayPerform with
      | some i => (s.performAt i).performDue n
      | none => s

/-- A store of the slot to its own SRAM or to a page, each entry the bytes of one of its words: performed now, or put into
the buffer. -/
def State.slotPut (s : State) (a : Nat) (bs : List Byte) (l : List (List Host.Cell)) (sc : Option Scope) : State :=
  if s.me.seqTouches && s.isDet s.cur.core then l.foldl (fun t cs => t.storeAhead cs) s
  else if s.defers then
    (l.foldl (fun t cs => t.pushStore cs (if s.me.seqTouches then seqPending s.me.seq else 0) sc) s).performDue
      (s.me.buffer.length + l.length)
  else (s.performStore a bs).noteWrite s.cur.core s.cur.slot.val s.fresh a bs.length sc

/-- A scalar store of the slot to its own SRAM or to a page. -/
def State.slotStore (s : State) (a : Nat) (bs : List Byte) (sc : Option Scope) : State :=
  (s.forgetEarly a bs.length).slotPut a bs [cellsFrom a bs] sc

/-- A store of many words, one entry of the buffer for each word. -/
def State.slotStores (s : State) (a : Nat) (bs : List Byte) : State :=
  (s.forgetEarly a bs.length).slotPut a bs (byWord (cellsFrom a bs)) none

/-- One execution of the sequencer is over: what waited for it comes closer. -/
def State.seqPassed (s : State) : State :=
  let c := s.cur.core
  let k := s.cur.slot.val
  let s1 : State :=
    if s.remotes.any (fun r => r.core == c && r.slot == k && r.after != 0) then
      { s with remotes := s.remotes.map (fun r => if r.core == c && r.slot == k then { r with after := r.after - 1 } else r) }
    else s
  if s1.me.buffer.isEmpty && s1.me.passed.isEmpty then s1
  else
    (s1.modMe (fun t =>
      { t with
        buffer := (t.buffer.map (fun p => { p with after := p.after - 1 })).filter (fun p => !p.done || p.after != 0)
        passed := (t.passed.map (fun x => { x with left := x.left - 1 })).filter (fun x => x.left != 0) })).performDue
      s1.me.buffer.length

/-- The value that a word written since the last exchange had after it, as a core sees it; none for a word not written. -/
def Phase.oldWord (ph : Phase) (c w : Nat) : Option (Option Word) :=
  match ph.mids.find? (fun m => m.addr == w && !m.members.contains c) with
  | some m => some m.value
  | none => find? w ph.olds

/-- Bytes as they were after the last exchange of a phase, for the core of the step. -/
def State.oldBytes (s : State) (ph : Phase) (a n : Nat) : List Byte :=
  (List.range n).map (fun i =>
    match ph.oldWord s.cur.core (wordAddr (a + i)) with
    | some (some w) => BitVec.ofNat 8 (w.toNat / 2 ^ (8 * ((a + i) % 8)))
    | some none => 0
    | none => readCell s.mem (a + i))

/-- The first word of the range that could not be corrected after the last exchange (13 R250). -/
def State.oldPoison (s : State) (ph : Phase) (a n : Nat) : Option Nat :=
  (wordsOf a n).find? (fun w =>
    match ph.oldWord s.cur.core w with
    | some (some _) => false
    | some none => true
    | none => s.poisoned.contains w)

/-- A shared load of a deterministic launch: the bytes after the last exchange, and the words it has read. -/
def State.sharedRead (s : State) (l : Launch) (a n : Nat) : Except Stop (List Byte × State) :=
  let g := s.groupOf s.cur.core
  match s.oldPoison (l.phaseOf g) a n with
  | some w => machineCheck w
  | none =>
    .ok (s.oldBytes (l.phaseOf g) a n,
      s.modLaunch l.id (fun l => l.modPhase g (fun ph => { ph with reads := ph.reads ++ wordsOf a n })))

/-- A write of a deterministic launch held until the exchange of the core's group. -/
def State.buffered (s : State) (l : Launch) (c : Nat) (b : Buffered) : State :=
  s.modLaunch l.id (fun l => l.modPhase (s.groupOf c) (fun ph => { ph with buffered := ph.buffered ++ [b] }))

/-- A shared write of a deterministic launch. -/
def State.sharedWrite (s : State) (l : Launch) (c a n : Nat) (w : Word) (isUpd : Bool) : State :=
  s.buffered l c ⟨s.logical c, a, n, w, isUpd, 0, s.me.pc⟩

/-! ### Device registers (12 R237, 14 R259, R263, 07 R148, R149) -/

/-- FWREADY. -/
def State.fwready (s : State) : Word := flagAt 7 s.wide ||| word s.ready.toNat

/-- TIME of the device status. -/
def timeCode : TimeMode → Nat
  | .free => 0 | .locked => 1 | .holdover => 2

/-- The device status register. -/
def State.status (s : State) : Word :=
  fieldAt 8 (min s.absent.length 255) ||| flagAt 7 s.throttled ||| fieldAt 2 s.pwr.toNat |||
    word (if s.timeHold.isSome then 0 else timeCode s.timeMode)

/-- A counter of the counter window, by its offset from 0x1_0000. -/
def State.counterAt (s : State) (o : Nat) : Word := lookupD 0 (o / 8) s.counters

/-- The counter window holds an 8-byte load at this offset of the device row. -/
def counterOk (o n : Nat) : Bool := n == 8 && o % 8 == 0 && 0x10000 ≤ o && o < 0x10000 + 32 * 3072

/-- The items of 14 R263 past device status: temperatures, power, the cap and the error counters. -/
def State.boardItem (s : State) (o : Nat) : Word :=
  match o with
  | 0x10 => vget s.temps 0 0
  | 0x18 => vget s.temps 1 0
  | 0x20 => vget s.temps 2 0
  | 0x28 => vget s.temps 3 0
  | 0x30 => s.power
  | 0x38 => s.cap
  | 0x40 => s.eccSram
  | 0x48 => s.eccHbm
  | 0x50 => s.eccLpddr
  | 0x58 => s.checks
  | _ => 0

/-- A device register as firmware and management read it. -/
def State.deviceRead (s : State) (o : Nat) : Word :=
  if o = 0 then s.fwready
  else if o = 8 then s.status
  else if o ≤ 0x58 then s.boardItem o
  else if 0x1000 ≤ o ∧ o < 0x1000 + 320 ∧ o % 8 = 0 then
    (vget s.masks ((o - 0x1000) / 8) 0).setWidth 64
  else if counterOk o 8 then s.counterAt (o - 0x10000)
  else 0

/-- A mask written by the firmware. It writes the ten masks of a hash one after the other, so the acceptance rule of
07 R148 is that of the firmware's program and not of the register (log 10). -/
def State.writeMask (s : State) (o : Nat) (w : Word) : State :=
  if 0x1000 ≤ o ∧ o < 0x1000 + 320 ∧ o % 8 = 0 then
    { s with masks := vset s.masks ((o - 0x1000) / 8) (w.setWidth 31) }
  else s

/-! ### The engine window (09 R189) -/

/-- The command was pushed by a slot of the core. -/
def EngineCmd.ofCore (x : EngineCmd) (c : Nat) : Bool :=
  match x.pusher with
  | .slot d _ => d == c
  | .packet _ _ => false

/-- Bits of the vocabularies resident in a core's claim. -/
def State.vocabBits (s : State) (c : Nat) : Nat :=
  match s.claimOf c with
  | some x => ((List.range 16).map (fun i => if x.vocabs.any (fun v => v.id == i) then 2 ^ i else 0)).sum
  | none => 0

/-- An 8-byte load of the engine window. -/
def State.engineRead (s : State) (c o : Nat) : Word :=
  let x := s.coreOf c
  match o with
  | 0x00 => x.mxDone
  | 0x08 => x.copyDone
  | 0x10 => x.lexDone
  | 0x18 => word (s.copies.filter (fun y => y.ofCore c)).length
  | 0x20 => word (s.lexicons.filter (fun y => y.ofCore c)).length
  | 0x28 => word (s.vocabBits c)
  | 0x30 => x.lastErr
  | _ => 0

/-! ### Scalar accesses -/

/-- What an access through a page finds: the entry's physical address, after the translation's faults. A miss is
reported once, and the slot waits for the service (07 R146). -/
def State.pageEntry (s : State) (e : Nat) (reads writes : Bool) (detail : Nat) : Except Stop (Nat × Entry × State) :=
  let c := s.cur.core
  let claim := s.claimId c
  match s.translate c claim e with
  | (none, _) =>
    match s.walkPoison claim e with
    | some w => machineCheck w
    | none =>
      let s1 := s.modMe (fun t => { t with wait := .page e })
      .error (.held { s1 with
        misses := s1.misses ++ [⟨.slot c s.cur.slot.val, claim, e, writes, s.me.pc⟩] })
  | (some en, s1) =>
    if !entOk en || s1.peerDown en then trapWith 0x05 0 (word e)
    else if (reads && !entR en) || (writes && !entW en) then protection detail (word e)
    else .ok (entPhys en e, en, s1)

/-- The HBM accesses that an access counts (07 R149). -/
def State.countRw (s : State) (en : Entry) (e : Nat) (reads writes : Bool) : State :=
  if writes then (if reads then s.countAccess en e false else s).countAccess en e true else s.countAccess en e false

/-- A load or store through a page: the place, after every check of it. A shared load checks the words it finds. -/
def State.pageAccess (s : State) (e n : Nat) (reads writes : Bool) (detail : Nat) : Except Stop (Nat × Entry × State) := do
  let (a, en, s1) ← s.pageEntry e reads writes detail
  if reads && !s.isDet s.cur.core then s1.checkSeen a n
  .ok (a, en, s1.countRw en e reads writes)

/-- An access to these bytes waits: a write for the slot's own remote writes to them, a read for its own update of them
and for a narrow release in them, an atomic for its own buffered stores too. -/
def State.selfHeld (s : State) (a n : Nat) (reads writes : Bool) : Bool :=
  (if writes then s.ownRemote s.cur.core s.cur.slot.val a n || (reads && s.me.bufferMeets a n)
   else s.ownUpdate s.cur.core s.cur.slot.val a n) ||
  (reads && s.narrowHeld a n)

/-- A local access to the core's own SRAM allowed by its regions (07 R137). -/
def State.selfAccess (s : State) (e n : Nat) (reads writes : Bool) (detail : Nat) : Except Stop Nat :=
  let c := s.cur.core
  if !(s.isFw c || s.myCore.grants (localNeeds reads writes) e n) then protection detail (word e)
  else if s.selfHeld (sram c e) n reads writes then .error .hold
  else do
    if reads then s.checkSeen (sram c e) n
    .ok (sram c e)

/-- A request sent toward another core, numbered. -/
def State.sendRemote (s : State) (pc : VAddr) (dst off : Nat) (r : Req) (back : ReplyTo) (sc : Option Scope := none) :
    State :=
  { s with
    fresh := s.fresh + 1
    remotes := s.remotes ++ [⟨s.fresh, s.cur.core, s.cur.slot.val, dst, off, r, back, pc, 0, sc, none⟩] }

/-- A remote store of the integer pipe: behind the slot's vector work where that is stuck (08 R153). -/
def State.sendStore (s : State) (dst off : Nat) (r : Req) (sc : Option Scope := none) : State :=
  if s.me.seqTouches then
    { s with
      fresh := s.fresh + 1
      remotes := s.remotes ++
        [⟨s.fresh, s.cur.core, s.cur.slot.val, dst, off, r, .nobody, s.me.pc, seqPending s.me.seq, sc, none⟩] }
  else s.sendRemote s.me.pc dst off r .nobody sc

/-- A request waits behind vector work of the slot of the step. -/
def State.behindVector (s : State) (r : Remote) : Bool :=
  r.core == s.cur.core && r.slot == s.cur.slot.val && r.after != 0

/-- A remote store of the vector sequencer: ahead of the slot's stores that come after it in program order. -/
def State.sendVector (s : State) (dst off : Nat) (r : Req) (pc : VAddr) (st : Option Nat) : State :=
  let n := (s.remotes.takeWhile (fun x => !s.behindVector x)).length
  { s with
    fresh := s.fresh + 1
    remotes := s.remotes.take n ++
      ⟨s.fresh, s.cur.core, s.cur.slot.val, dst, off, r, .nobody, pc, 0, none, st⟩ :: s.remotes.drop n }

/-- A request whose reply the slot waits for: sent once, and taken when it has arrived. -/
def State.await (s : State) (send : State → State) : Except Stop (Word × State) :=
  match s.me.wait with
  | .reply v => .ok (v, s.modMe (fun t => { t with wait := .none }))
  | .request => .error .hold
  | _ => .error (.sent (send (s.modMe (fun t => { t with wait := .request }))))

/-- Every one of these bytes comes from the slot's own writes that are not performed, or from a word read ahead. -/
def State.forwards (s : State) (a n : Nat) : Bool :=
  (!s.me.early.isEmpty || !s.me.buffer.isEmpty || s.ownRemote s.cur.core s.cur.slot.val a n) &&
  (List.range n).all (fun i =>
    (s.ownByte s.cur.core s.cur.slot.val true (a + i)).isSome || (s.me.earlyByte (a + i)).isSome)

/-- The bytes of a range that the slot's own writes not yet performed hold. -/
def State.ownCells (s : State) (a n : Nat) : List Host.Cell :=
  (List.range n).filterMap (fun i => (s.ownByte s.cur.core s.cur.slot.val true (a + i)).map (fun b => (a + i, b)))

/-- The value of a reply, with the bytes that the load takes from the slot's own writes. -/
def mergeCells (mine : List Host.Cell) (a n : Nat) (v : Word) : Word :=
  if mine.isEmpty then v
  else word (leNat ((List.range n).map (fun i => (find? (a + i) mine).getD ((leBytes 8 v.toNat)[i]?.getD 0))))

/-- A remote load of the slot: what its own pending stores hold comes from them (08 R150), and the rest by a request. -/
def State.remoteLoad (s : State) (claim d off n : Nat) : Except Stop (Word × State) :=
  let a := sram d off
  match s.me.wait with
  | .none =>
    if s.forwards a n && s.remoteOk claim d off (.load n) then .ok (s.slotWord a n)
    else if s.ownUpdate s.cur.core s.cur.slot.val a n then .error .hold
    else
      .error (.sent ((s.modMe (fun t => { t with wait := .request, mine := s.ownCells a n })).sendRemote
        s.me.pc d off (.load n) .pipe))
  | _ => do
    let (v, s1) ← s.await id
    let w := mergeCells s.me.mine a n v
    .ok (w, ((s1.modMe (fun t => { t with mine := [] })).notePassed a (leBytes n w.toNat)).forgetEarly a n)

/-- A cluster-event-unit item at this offset (02 R22). -/
def unitOk (o : Nat) : Bool := o % 8 == 0 && o < 0x1A0

/-- A request to the event unit, sent. -/
def State.sendUnit (s : State) (o : Nat) (data : Option Word) : State :=
  { s with unitReqs := s.unitReqs ++ [⟨s.cur.core, s.cur.slot.val, o, data, false⟩] }

/-- A shared request put into the task queue of a deterministic launch (12 R239). -/
def State.addTask (s : State) (l : Launch) (r : TaskReq) : State :=
  s.modLaunch l.id (fun l =>
    { l with tasks := l.tasks ++ [⟨s.cur.core, s.cur.slot.val, s.me.pc, s.logical s.cur.core, r, none⟩] })

/-- A scalar load of `n` bytes at an effective address: the value and the state after it (21 R335, R336). -/
def State.loadAt (s : State) (e n : Nat) : Except Stop (Word × State) :=
  let c := s.cur.core
  match rowFor e n with
  | .self => do
    let a ← s.selfAccess e n true false 0
    .ok (s.slotWord a n)
  | .claim =>
    match s.sliceCore c e with
    | none => protection 0 (word e)
    | some d =>
      match s.residentOf c with
      | some l =>
        if l.det then
          (if s.remoteOk l.claim d (sliceOff e) (.load n) then do
            let (bs, s1) ← s.sharedRead l (sram d (sliceOff e)) n
            .ok (word (leNat bs), s1)
           else .error (.fatal ⟨0x04, 0, word d⟩))
        else s.remoteLoad l.claim d (sliceOff e) n
      | none => s.remoteLoad (s.claimId c) d (sliceOff e) n
  | .unit =>
    if n ≠ 8 then illegalOperand (word e)
    else if !unitOk (e - 0x300000000) then protection 0 (word e)
    else
      match s.residentOf c with
      | some l =>
        if l.det then
          s.await (fun t => t.addTask l (.unit ⟨c, s.cur.slot.val, e - 0x300000000, none, false⟩))
        else s.await (fun t => t.sendUnit (e - 0x300000000) none)
      | none => s.await (fun t => t.sendUnit (e - 0x300000000) none)
  | .engine =>
    if n ≠ 8 then protection 0 (word e) else .ok (s.engineRead c (e - 0x300010000), s)
  | .device =>
    if counterOk (e - 0x400000000) n then .ok (s.counterAt (e - 0x400010000), s)
    else if s.isFw c then
      .ok (s.deviceRead (e - 0x400000000), if e = 0x400000008 then { s with throttled := false } else s)
    else protection 0 (word e)
  | .page => do
    let (a, _, s1) ← s.pageAccess e n true false 0
    match s1.residentOf c with
    | some l =>
      if l.det then do
        let (bs, s2) ← s1.sharedRead l a n
        .ok (word (leNat bs), s2)
      else do
        holdIf (s1.narrowHeld a n)
        .ok (s1.slotWord a n)
    | none => do
      holdIf (s1.narrowHeld a n)
      .ok (s1.slotWord a n)
  | .firmware => if s.isFw c then .ok (s.slotWord (firmwareBase + e) n) else protection 0 (word e)
  | .unmapped => protection 0 (word e)

/-- A scalar store of the low `n` bytes of a word at an effective address (21 R373, R336). -/
def State.storeAt (s : State) (e n : Nat) (w : Word) (sc : Option Scope := none) : Res :=
  let c := s.cur.core
  match rowFor e n with
  | .self => do
    let a ← s.selfAccess e n false true 1
    .ok (s.slotStore a (leBytes n w.toNat) sc)
  | .claim =>
    match s.sliceCore c e with
    | none => protection 1 (word e)
    | some d =>
      match s.residentOf c with
      | some l =>
        if l.det then
          (if s.remoteOk l.claim d (sliceOff e) (.store n w) then
            .ok (s.sharedWrite l c (sram d (sliceOff e)) n w false)
           else .error (.fatal ⟨0x04, 1, word d⟩))
        else if s.me.bufferMeets (sram d (sliceOff e)) n then .error .hold
        else .ok ((s.forgetEarly (sram d (sliceOff e)) n).sendStore d (sliceOff e) (.store n w) sc)
      | none => .ok (s.sendStore d (sliceOff e) (.store n w) sc)
  | .unit =>
    if n ≠ 8 then illegalOperand (word e)
    else if !unitOk (e - 0x300000000) then protection 1 (word e)
    else do
      s.release
      match s.residentOf c with
      | some l =>
        if l.det then .ok (s.addTask l (.unit ⟨c, s.cur.slot.val, e - 0x300000000, some w, false⟩))
        else .ok (s.sendUnit (e - 0x300000000) (some w))
      | none => .ok (s.sendUnit (e - 0x300000000) (some w))
  | .engine => protection 1 (word e)
  | .device =>
    if s.isFw c then do
      s.afterVector
      .ok (s.writeMask (e - 0x400000000) w)
    else protection 1 (word e)
  | .page => do
    let (a, _, s1) ← s.pageAccess e n false true 1
    match s1.residentOf c with
    | some l =>
      if l.det then .ok (s1.sharedWrite l c a n w false) else .ok (s1.slotStore a (leBytes n w.toNat) sc)
    | none => .ok (s1.slotStore a (leBytes n w.toNat) sc)
  | .firmware =>
    if s.isFw c then .ok (s.slotStore (firmwareBase + e) (leBytes n w.toNat) sc) else protection 1 (word e)
  | .unmapped => protection 1 (word e)

/-- An atomic or UPD at an effective address, at the place 07 R142 gives it: the old value and the state after it. `rel` is
the scope of a release that did not wait. -/
def State.atomicAt (s : State) (e n : Nat) (sc : Scope) (r : Req) (isUpd : Bool) (rel : Option Scope) :
    Except Stop (Word × State) :=
  let c := s.cur.core
  let k := s.cur.slot.val
  let noted (t : State) (a : Nat) : State := ((t.noteSaw c k a).noteWrite c k s.fresh a n rel true).forgetEarly a n
  match rowFor e n with
  | .self => do
    let a ← s.selfAccess e n true true 3
    let (old, s1) := s.perform s.myCore.update a r
    .ok (old, if r.changes old then noted (s.selfWrite c a (s1.readBytes a n)) a
      else (s.noteSaw c k a).forgetEarly a n)
  | .claim =>
    match s.sliceCore c e with
    | none => protection 3 (word e)
    | some d =>
      if !scopeReaches sc c d then illegalOperand (word e)
      else
        let go : Except Stop (Word × State) :=
          if s.me.bufferMeets (sram d (sliceOff e)) n then .error .hold
          else if isUpd then
            .ok (0, (s.forgetEarly (sram d (sliceOff e)) n).sendRemote s.me.pc d (sliceOff e) r .nobody rel)
          else do
            let (v, s1) ← s.await (fun t => t.sendRemote t.me.pc d (sliceOff e) r .pipe rel)
            .ok (v, s1.forgetEarly (sram d (sliceOff e)) n)
        match s.residentOf c with
        | some l =>
          if l.det then
            (if !isUpd then illegalOperand (word e)
             else if !s.remoteOk l.claim d (sliceOff e) r then .error (.fatal ⟨0x04, 3, word d⟩)
             else
               match r with
               | .upd n v => .ok (0, s.sharedWrite l c (sram d (sliceOff e)) n v true)
               | _ => illegalOperand (word e))
          else go
        | none => go
  | .unit => illegalOperand (word e)
  | .engine => protection 3 (word e)
  | .device => protection 3 (word e)
  | .page =>
    if isUpd || s.isDet c then illegalOperand (word e)
    else do
      let (a, en, s1) ← s.pageEntry e true true 3
      let place : Except Stop Unit :=
        match entTier en, sc with
        | 3, _ => protection 3 (word e)
        | 2, .sy => .ok ()
        | 4, .sy => .ok ()
        | 0, .dv => .ok ()
        | 0, .sy => .ok ()
        | 1, .dv => .ok ()
        | 1, .sy => .ok ()
        | _, _ => illegalOperand (word e)
      place
      holdIf (s1.me.bufferMeets a n || s1.narrowHeld a n)
      s1.checkEcc a n
      let (old, s2) := (s1.countRw en e true true).perform 0 a r
      .ok (old, if r.changes old then noted s2 a else (s2.noteSaw c k a).forgetEarly a n)
  | .firmware =>
    if s.isFw c && !isUpd then do
      holdIf (s.me.bufferMeets (firmwareBase + e) n)
      let (old, s1) := s.perform 0 (firmwareBase + e) r
      .ok (old, if r.changes old then noted s1 (firmwareBase + e)
        else (s.noteSaw c k (firmwareBase + e)).forgetEarly (firmwareBase + e) n)
    else protection 3 (word e)
  | .unmapped => protection 3 (word e)

/-! ### Bytes read by a slot from its self window -/

/-- `n` bytes of the self window that the slot may read. -/
def State.selfBytes (s : State) (e n : Nat) : Except Stop (List Byte) := do
  let a ← s.selfAccess e n true false 0
  .ok (s.slotRead a n).1

/-- Address of a block that must be aligned and lie in the self window: illegal operand otherwise. -/
def selfBlock (p : Word) (n : Nat) : Except Stop Nat := do
  let adr ← ea p 0 0 0
  illegalIf (adr % n != 0 || rowFor adr n != .self) (word adr)
  .ok adr

end Sys2Proof.Machine
end

