-- ==== Sys2Proof/Machine/Arith.lean ====
section
/-! DEFINITION. The scalar arithmetic family: forms AL, UN, AI, LI, BF, PA and PG (20 R294-R308, 21 R342-R374,
07 R136). -/

namespace Sys2Proof.Machine

/-! ### Functions of two sources (20 R294) -/

/-- Carry-less product (20 R307). -/
def clmulFull (x y : Word) : BitVec 128 :=
  (List.range 64).foldl (fun acc i => if y.getLsbD i then acc ^^^ (x.setWidth 128 <<< i) else acc) 0

/-- ADD (20 R295). -/
def alAdd (_ : ScalarType) (x y : Word) : Word := x + y
/-- SUB (21 R374). -/
def alSub (_ : ScalarType) (x y : Word) : Word := x - y
/-- AND (20 R297). -/
def alAnd (_ : ScalarType) (x y : Word) : Word := x &&& y
/-- OR (21 R356). -/
def alOr (_ : ScalarType) (x y : Word) : Word := x ||| y
/-- XOR (22 R408). -/
def alXor (_ : ScalarType) (x y : Word) : Word := x ^^^ y
/-- SHL (21 R369): the amount is the second source modulo the width. -/
def alShl (t : ScalarType) (x y : Word) : Word := x <<< (y.toNat % t.width)
/-- SHR (21 R369): on the w-bit pattern, zero-filled. -/
def alShr (t : ScalarType) (x y : Word) : Word := extBits t.width false x >>> (y.toNat % t.width)
/-- SRA (21 R369): on the w-bit pattern, filled with bit w - 1. -/
def alSra (t : ScalarType) (x y : Word) : Word := (extBits t.width true x).sshiftRight (y.toNat % t.width)
/-- MUL (21 R355). -/
def alMul (_ : ScalarType) (x y : Word) : Word := x * y
/-- MULH (21 R355): bits 2w - 1 to w of the product. -/
def alMulh (t : ScalarType) (x y : Word) : Word :=
  if t.signed then wordOfInt (x.toInt * y.toInt / 2 ^ t.width) else word (x.toNat * y.toNat / 2 ^ t.width)
/-- DIV (20 R320): toward zero, all ones for a zero divisor. -/
def alDiv (t : ScalarType) (x y : Word) : Word :=
  if y = 0 then minusOne else if t.signed then x.sdiv y else x / y
/-- REM (21 R365): the sign of the dividend, the dividend for a zero divisor. -/
def alRem (t : ScalarType) (x y : Word) : Word :=
  if y = 0 then x else if t.signed then x.srem y else x % y
/-- SLT (21 R370). -/
def alSlt (t : ScalarType) (x y : Word) : Word :=
  if (if t.signed then x.slt y else x.ult y) then 1 else 0
/-- CLMUL (20 R307). -/
def alClmul (t : ScalarType) (x y : Word) : Word :=
  (clmulFull (extBits t.width false x) (extBits t.width false y)).setWidth 64
/-- CLMULH (20 R307). -/
def alClmulh (t : ScalarType) (x y : Word) : Word :=
  ((clmulFull (extBits t.width false x) (extBits t.width false y)) >>> t.width).setWidth 64
/-- MIN (21 R343). -/
def alMin (t : ScalarType) (x y : Word) : Word :=
  if (if t.signed then y.slt x else y.ult x) then y else x
/-- MAX (21 R343). -/
def alMax (t : ScalarType) (x y : Word) : Word :=
  if (if t.signed then x.slt y else x.ult y) then y else x

/-- Form AL: the sources are A and B, or B and C with OPB; each is cut and extended, and so is the result (20 R294). -/
def State.alOp (s : State) (f : ScalarType → Word → Word → Word) (a b : GReg) (c : Option GReg) (y : ScalarType) :
    Res :=
  match c with
  | none => do
    s.ports [b, a] [a]
    let (v, s1) := s.readG b
    s1.writeG a (ext y (f y (ext y (s.peekG a)) (ext y v)))
  | some r => do
    s.ports [b, r] [a]
    let (v, s1) := s.readG b
    let (w, s2) := s1.readG r
    s2.writeG a (ext y (f y (ext y v) (ext y w)))

/-- A destination from one source field. -/
def State.unOp (s : State) (f : Word → Word) (a b : GReg) : Res := do
  s.ports [b] [a]
  let (v, s1) := s.readG b
  s1.writeG a (f v)

/-- Leading zeros of the low `w` bits (20 R308). -/
def clzOf (w : Nat) (x : Word) : Word := (extBits w false x).clz - word (64 - w)

/-- One bits of the low `w` bits (21 R360). -/
def popOf (w : Nat) (x : Word) : Word :=
  word ((List.range 64).filter (fun i => (extBits w false x).getLsbD i)).length

/-- BFX (20 R302). -/
def bfxOf (pos len : Nat) (x : Word) : Word := extBits len false (x >>> pos)

/-- BFI (20 R302): the field of `x` replaced. -/
def bfiOf (pos len : Nat) (x v : Word) : Word :=
  let m := extBits len false minusOne <<< pos
  (x &&& ~~~m) ||| ((v <<< pos) &&& m)

/-- PADD (07 R136): a sum outside 0 to 2^48 - 1 is a pointer overflow. -/
def paddOf (p v : Word) (e : Int) : Except Stop Word :=
  let t : Int := fatVa p + v.toInt + e
  if t < 0 ∨ 2 ^ 48 ≤ t then trapWith 0x03 0 (wordOfInt t)
  else .ok ((p &&& 0xFFFF000000000000) ||| word t.toNat)

/-- PSET (07 R136): the high 16 bits of a fat pointer, checked. -/
def psetOf (v : Word) : Except Stop Word :=
  if bits v 16 48 ≠ 0 ∨ bits v 0 3 ≠ 0 ∨ fmtOk (bits v 10 6) = false ∨ 5 < bits v 7 3 then illegalOperand 0
  else .ok (v <<< 48)

/-! ### Meanings -/

def execAdd (a b : GReg) (c : Option GReg) (y : ScalarType) (s : State) : Outcome := s.finish (s.alOp alAdd a b c y)
def execSub (a b : GReg) (c : Option GReg) (y : ScalarType) (s : State) : Outcome := s.finish (s.alOp alSub a b c y)
def execAnd (a b : GReg) (c : Option GReg) (y : ScalarType) (s : State) : Outcome := s.finish (s.alOp alAnd a b c y)
def execOr (a b : GReg) (c : Option GReg) (y : ScalarType) (s : State) : Outcome := s.finish (s.alOp alOr a b c y)
def execXor (a b : GReg) (c : Option GReg) (y : ScalarType) (s : State) : Outcome := s.finish (s.alOp alXor a b c y)
def execShl (a b : GReg) (c : Option GReg) (y : ScalarType) (s : State) : Outcome := s.finish (s.alOp alShl a b c y)
def execShr (a b : GReg) (c : Option GReg) (y : ScalarType) (s : State) : Outcome := s.finish (s.alOp alShr a b c y)
def execSra (a b : GReg) (c : Option GReg) (y : ScalarType) (s : State) : Outcome := s.finish (s.alOp alSra a b c y)
def execMul (a b : GReg) (c : Option GReg) (y : ScalarType) (s : State) : Outcome := s.finish (s.alOp alMul a b c y)
def execMulh (a b : GReg) (c : Option GReg) (y : ScalarType) (s : State) : Outcome := s.finish (s.alOp alMulh a b c y)
def execDiv (a b : GReg) (c : Option GReg) (y : ScalarType) (s : State) : Outcome := s.finish (s.alOp alDiv a b c y)
def execRem (a b : GReg) (c : Option GReg) (y : ScalarType) (s : State) : Outcome := s.finish (s.alOp alRem a b c y)
def execSlt (a b : GReg) (c : Option GReg) (y : ScalarType) (s : State) : Outcome := s.finish (s.alOp alSlt a b c y)
def execClmul (a b : GReg) (c : Option GReg) (y : ScalarType) (s : State) : Outcome :=
  s.finish (s.alOp alClmul a b c y)
def execClmulh (a b : GReg) (c : Option GReg) (y : ScalarType) (s : State) : Outcome :=
  s.finish (s.alOp alClmulh a b c y)
def execMin (a b : GReg) (c : Option GReg) (y : ScalarType) (s : State) : Outcome := s.finish (s.alOp alMin a b c y)
def execMax (a b : GReg) (c : Option GReg) (y : ScalarType) (s : State) : Outcome := s.finish (s.alOp alMax a b c y)

/-- MOV (21 R353). -/
def execMov (a b : GReg) (y : ScalarType) (s : State) : Outcome := s.finish (s.unOp (ext y) a b)
/-- CLZ (20 R308). -/
def execClz (a b : GReg) (y : ScalarType) (s : State) : Outcome := s.finish (s.unOp (clzOf y.width) a b)
/-- POPC (21 R360). -/
def execPopc (a b : GReg) (y : ScalarType) (s : State) : Outcome := s.finish (s.unOp (popOf y.width) a b)
/-- LI (21 R342). -/
def execLi (a : GReg) (e : Int) (s : State) : Outcome :=
  s.finish (do
    s.ports [] [a]
    s.writeG a (wordOfInt e))
/-- ADDI (20 R296): a port in A is an illegal operand. -/
def execAddi (a : GReg) (e : Int) (y : ScalarType) (s : State) : Outcome :=
  s.finish (do
    s.ports [a] [a]
    s.writeG a (ext y (ext y (s.peekG a) + wordOfInt e)))
/-- BFX. -/
def execBfx (a b : GReg) (pos len : Nat) (s : State) : Outcome := s.finish (s.unOp (bfxOf pos len) a b)
/-- BFI: A is a source too. -/
def execBfi (a b : GReg) (pos len : Nat) (s : State) : Outcome :=
  s.finish (do
    s.ports [b, a] [a]
    let (v, s1) := s.readG b
    s1.writeG a (bfiOf pos len (s.peekG a) v))
/-- PADD: A is a source too. -/
def execPadd (a b : GReg) (e : Int) (s : State) : Outcome :=
  s.finish (do
    s.ports [b, a] [a]
    let (v, s1) := s.readG b
    let p ← paddOf (s.peekG a) v e
    s1.writeG a p)
/-- PSET. -/
def execPset (a b : GReg) (s : State) : Outcome :=
  s.finish (do
    s.ports [b] [a]
    let (v, s1) := s.readG b
    let p ← psetOf v
    s1.writeG a p)
/-- PGET. -/
def execPget (a b : GReg) (s : State) : Outcome := s.finish (s.unOp (fun v => v >>> 48) a b)

end Sys2Proof.Machine
end

