-- ==== Sys2Proof/Machine/Entry.lean ====
section
/-! DEFINITION. What a slot and a core hold at the entry release of their launch (02 R31, R41, 07 R138, R143, 12 R227). -/

namespace Sys2Proof.Machine

/-- A protection region: its range and the permission bits 98 CW to 102 LR, valid in bit 103 (07 R137). -/
def regionOf (lo hi : Nat) (perms : List Nat) : BitVec 128 :=
  BitVec.ofNat 128 (lo + hi * 2 ^ 64 + (perms.map (fun b => 2 ^ b)).sum + 2 ^ 103)

/-- The regions of a core at launch entry (07 R138). -/
def entryRegions (c : Nat) : Vector (BitVec 128) 8 :=
  let r0 := regionOf 0 0xEFFFF [98, 99, 100, 101, 102]
  let r1 := regionOf 0xF0000 (if isHome c then 0xF7FFF else 0xFFFFF) [102]
  vset (vset (Vector.replicate 8 0) 0 r0) 1 r1

/-- The exit address (02 R41, R43). -/
def exitAddress : Nat := 0x800000000000

/-- A started slot at the entry release (02 R41). -/
def entrySlot (entry logical w h : Nat) (args : Word) : Slot :=
  { Slot.reset with
    run := .running
    pc := BitVec.ofNat 48 entry
    npc := BitVec.ofNat 48 entry
    g := vset (vset (vset (vset (vset (Vector.replicate 24 0) 1 (word logical)) 2 (word w)) 3 (word h)) 4 args) 23
      (word exitAddress) }

/-- DOM0 at entry: valid, compute-exchange, the whole group, the slots the launch starts (02 R31). -/
def entryDom0 (w h : Nat) (slots : BitVec 4) : Word :=
  flagAt 63 true ||| flagAt 62 true ||| fieldAt 56 slots.toNat ||| fieldAt 24 h ||| fieldAt 16 w

/-- A core at the entry release of group `g` of a launch, on the rectangle `r`, with its DOM1-DOM7. -/
def entryCore (x : CoreState) (c : Nat) (l : Launch) (g : Nat) (r : Rect) (doms : Vector Word 8) : CoreState :=
  { CoreState.reset with
    slots := Vector.ofFn (fun k : Fin 4 =>
      let t := if l.slots.getLsbD k.val then
          entrySlot l.entry (r.index c) l.w l.h (l.args + word g * l.astride)
        else Slot.reset
      { t with lag := (x.slotOf k.val).lag, deferStores := (x.slotOf k.val).deferStores })
    doms := vset doms 0 (entryDom0 l.w l.h l.slots)
    regions := entryRegions c
    planbase := word 0xF0040
    update := updateEntry
    resident := some (l.id, g)
    tlb := x.tlb }

/-- A user launch of one slot on core `c`, in a claim of that core alone. -/
def State.bootUser (s : State) (c : Nat) : State :=
  let r : Rect := ⟨colOf c, rowOf c, 1, 1⟩
  let l : Launch :=
    { id := s.fresh, queue := 0, number := 0, claim := 0, csig := 0, entry := 0, w := 1, h := 1,
      slots := 1, args := 0, astride := 0, det := false, quantumLen := 0, groups := [⟨r, true, Phase.start s.time⟩],
      seeds := Vector.replicate 16 0, backfilled := false, preempt := .none, quantum := 0, tasks := [] }
  let s1 : State :=
    { s with
      fresh := s.fresh + 1
      claims := { id := 0, rect := r, ctltok := false, seeds := Vector.replicate 16 0, vocabs := [], ended := false, rounds := 0 } :: s.claims
      launches := l :: s.launches
      cur := ⟨c, 0⟩ }
  s1.modCore c (fun x => entryCore x c l 0 r (Vector.replicate 8 0))

/-- The slot of the step would fetch from a place where words can be written: its self window. -/
def State.canPlace (s : State) : Bool :=
  s.me.run == .running && s.me.pc.toNat % 2 == 0 && decide (s.me.pc.toNat + 16 ≤ 0xF0000) && s.me.seq.isEmpty &&
  s.me.deferred.isNone && s.me.crew.isNone && s.me.collect.isNone && s.me.wait == .none && s.me.early.isEmpty &&
  !s.myCore.stopped &&
  (s.isFw s.cur.core || s.myCore.grants [100] s.me.pc.toNat 16) &&
  !((s.residentOf s.cur.core).any (·.det)) && s.claimId s.cur.core == 0

/-- The words of an instruction placed where the next step fetches: at the pc of the current slot if it runs a launch,
else at the entry of a launch of one slot on core 1. -/
def State.placeWords (s : State) (bs : List Byte) : State :=
  let s1 := if s.canPlace then s else { s.bootUser 1 with schedule := [] }
  let s2 : State := { s1 with schedule := [] }
  (s2.writeBytes (sram s2.cur.core s2.me.pc.toNat) bs).modMe (fun t => { t with ahead := (0, []) })

end Sys2Proof.Machine
end

