-- ==== Sys2Proof/Machine/Branch.lean ====
section
/-! DEFINITION. Control transfers, PAUSE, TRAP, HALT, ILL and CLKR (02 R21, R43, 11 R207, 20 R303, R329-R331,
21 R382). -/

namespace Sys2Proof.Machine

/-- The slot of the step continues at `t`. -/
def State.goTo (s : State) (t : VAddr) : State := s.modMe (fun x => { x with npc := t })

/-- The slot ends: its streams are disabled, and a message it leaves partial in q1 is discarded (02 R39, R43). A crewed slot
stays a member of its crew: whether it still counts as crewed is not stated (log 112, the model's choice). -/
def State.endSlot (s : State) (c k : Nat) : State :=
  let s1 := s.modSlot c k (fun t =>
    { t with run := .ended, streams := t.streams.map (fun x => { x with en := false }), collect := none })
  s1.modCore c (fun x =>
    if x.owner.any (fun o => o.slot == k) then { x.setPort 1 [] with owner := none } else x)

/-- A branch or jump target `pc + 2 * off` (20 R304): outside the 48-bit map it is a pointer overflow. -/
def branchTarget (pc : VAddr) (off : Int) : Except Stop VAddr :=
  let t : Int := pc.toNat + 2 * off
  if t < 0 ∨ 2 ^ 48 ≤ t then trapWith 0x03 0 (wordOfInt t) else .ok (BitVec.ofInt 48 t)

/-- A transfer to a target below 2^48 (02 R43): the exit address ends the slot, once its vector work is done (log 17). Any
other target that a slot may not fetch from takes its fault there (20 R304). -/
def State.transfer (s : State) (t : VAddr) : Res :=
  if t.toNat = exitAddress then do
    s.vectorDone
    .ok ((s.goTo t).endSlot s.cur.core s.cur.slot.val)
  else .ok (s.goTo t)

/-- A conditional branch (20 R303, R304); a follower takes the leader's path (02 R27), and pops no port that its own field
names: R26 gives it its own ports, R27 the leader's register, and the model lets R27 win (log 96, the model's choice). -/
def State.branch (s : State) (cond : Word → Bool) (a : GReg) (off : Int) : Res :=
  match s.me.forced with
  | some t => s.transfer t
  | none => do
    s.ports [a] []
    let (v, s1) := s.readG a
    if cond v then
      let t ← branchTarget s.me.pc off
      s1.transfer t
    else .ok s1

def execBz (a : GReg) (e : Int) (s : State) : Outcome := s.finish (s.branch (fun v => v == 0) a e)
def execBnz (a : GReg) (e : Int) (s : State) : Outcome := s.finish (s.branch (fun v => v != 0) a e)
def execBltz (a : GReg) (e : Int) (s : State) : Outcome := s.finish (s.branch (fun v => v.slt 0) a e)
def execBgez (a : GReg) (e : Int) (s : State) : Outcome := s.finish (s.branch (fun v => !v.slt 0) a e)

/-- J (20 R330). -/
def execJ (e : Int) (s : State) : Outcome :=
  s.finish (do
    let t ← branchTarget s.me.pc e
    s.transfer t)

/-- JAL (20 R330): g23 takes the return address, and keeps its value on a trap. -/
def execJal (e : Int) (s : State) : Outcome :=
  s.finish (do
    let t ← branchTarget s.me.pc e
    let s1 := s.modMe (fun x => { x with g := vset x.g 23 (x.npc.setWidth 64) })
    s1.transfer t)

/-- JR's checks on its target, a register value (20 R331). -/
def State.jumpTarget (s : State) (t : Word) : Except Stop VAddr :=
  if bits t 48 16 ≠ 0 ∨ t.getLsbD 0 then illegalOperand t
  else if exitAddress < t.toNat ∧ s.isFw s.cur.core = false then protection 2 t
  else .ok (t.setWidth 48)

/-- JR (20 R331): the target is read before the link is written; in a crew the leader's decides (02 R27). -/
def execJr (a b : GReg) (s : State) : Outcome :=
  s.finish (do
    match s.me.forced with
    | some t => do
      s.ports [] [a]
      let s1 ← s.writeG a (s.me.npc.setWidth 64)
      s1.transfer t
    | none => do
      s.ports [b] [a]
      let (v, s1) := s.readG b
      let t ← s.jumpTarget v
      let s2 ← s1.writeG a (s.me.npc.setWidth 64)
      s2.transfer t)

/-- PAUSE (02 R21): in a crew the leader issues no crew word for that many cycles. -/
def execPause (e : Int) (s : State) : Outcome :=
  s.finish (
    if e < 0 ∨ 65535 < e then illegalOperand 0
    else
      .ok (s.modMe (fun t =>
        match t.crew with
        | some x => { t with crew := some { x with pause := e.toNat } }
        | none => { t with prem := BitVec.ofNat 16 e.toNat })))

/-- TRAP (21 R382). -/
def execTrap (e : Int) (s : State) : Outcome := s.finish (trapWith 0x0D 0 (wordOfInt e))

/-- HALT (02 R43, 20 R327). -/
def execHalt (s : State) : Outcome :=
  s.finish (do
    s.vectorDone
    .ok (s.endSlot s.cur.core s.cur.slot.val))

/-- Address of the base word of the instruction that issues. -/
def State.baseAddr (s : State) : Word := (s.me.npc - 2).setWidth 64

/-- Illegal instruction at the base word (03 R53). -/
def State.illegalHere {α : Type} (s : State) : Except Stop α := trapWith 0x01 0 s.baseAddr

/-- Every member of a crew takes an illegal-instruction trap at the leader's instruction (02 R25, 03 R53). -/
def State.trapMembers (s : State) (x : Crew) (detail : Nat) (value : Word) : State :=
  let t0 := s.me
  x.members.foldl
    (fun t m =>
      if (t.slotOf m.1 m.2).crew.any (fun y => y.members == x.members) || m == (s.cur.core, s.cur.slot.val) then
        (t.modSlot m.1 m.2 (fun y => { y with pc := t0.pc, npc := t0.npc, crew := none, forced := none })).takeTrap
          m.1 m.2 false ⟨0x01, detail, value⟩
      else t)
    s

/-- A member of the crew still has words of the leader to execute. -/
def State.crewBehind (s : State) (x : Crew) : Bool :=
  x.members.any (fun m => (s.slotOf m.1 m.2).crew.any (fun y => !y.due.isEmpty))

/-- An illegal instruction at the slot; a crew's leader holds until every member has reached it, and all of them trap. -/
def State.illegalInCrew (s : State) (detail : Nat) (value : Word) : Outcome :=
  match s.me.crew with
  | some x =>
    if x.index = 0 then
      (if s.crewBehind x then s.finish (.error .hold) else .next (s.trapMembers x detail value))
    else s.finish (trapWith 0x01 detail value)
  | none => s.finish (trapWith 0x01 detail value)

/-- ILL (20 R329). -/
def execIll (_ _ : Fin 32) (s : State) : Outcome := s.illegalInCrew 0 s.baseAddr

/-- What CLKR reads: device time, or in a deterministic launch that of the release that opened the compute phase of
the DOM0 of the core's group (11 R207). -/
def State.clock (s : State) : Word :=
  match s.residentOf s.cur.core with
  | some l => word (if l.det then (l.phaseOf (s.groupOf s.cur.core)).openTime else s.time)
  | none => word s.time

/-- CLKR (11 R207). -/
def execClkr (a : GReg) (s : State) : Outcome :=
  s.finish (do
    s.ports [] [a]
    s.writeG a s.clock)

/-! ### The end of a cycle (02 R19, R21) -/

/-- A slot at the end of a cycle: its pause, or its crew's, comes closer to its end. -/
def Slot.tick (t : Slot) : Slot :=
  { t with
    prem := if t.prem = 0 then 0 else t.prem - 1
    crew := t.crew.map (fun x => { x with pause := x.pause - 1 }) }

/-- A slot at the end of the cycle in which it has executed PAUSE: the new pause starts in the next one. A PAUSE of a crew
leaves PREM alone. -/
def Slot.tickPaused (t : Slot) : Slot :=
  match t.crew with
  | some _ => { t with prem := if t.prem = 0 then 0 else t.prem - 1 }
  | none => t

/-- A slot that has not issued: 02 R19's count of consecutive cycles ready and unpaused, the cycle now over included. -/
def Slot.age (t : Slot) (ready : Bool) : Slot :=
  if ready && t.prem == 0 then { t with waited := min 12 (t.waited + 1) } else { t with waited := 0 }

/-- The end of a cycle of a core in which slot `k` had the issue, and the slots of a list were ready. -/
def CoreState.endCycle (x : CoreState) (k : Nat) (paused : Bool) (ready : List (Fin 4)) : CoreState :=
  { x with
    cycles := if x.resident.isSome then x.cycles + 1 else x.cycles
    slots := Vector.ofFn (fun i : Fin 4 =>
      let t := x.slotOf i.val
      if i.val = k then { (if paused then t.tickPaused else t.tick) with waited := 0 }
      else (t.age (ready.contains i)).tick) }

/-- PAUSE_END (02 R21): the cycle in which a pause comes to its end, one in which the core issues nothing (log 129). -/
def execPauseEnd (c : Nat) (k : Fin 4) (s : State) : Outcome :=
  s.event (if (s.slotOf c k.val).prem = 1 then some (s.modCore c (fun x => x.endCycle 4 false [])) else none)

/-- ILLEGAL_INSTRUCTION (03 R53): the word that carries the fault and its kind; in a crew every member traps. -/
def execIllegalInstruction (n : Nat) (d : Fin 3) (s : State) : Outcome :=
  s.illegalInCrew d.val (word (s.me.pc.toNat + 2 * n))

end Sys2Proof.Machine
end

