-- ==== Sys2Proof/Machine/Csr.lean ====
section
/-! DEFINITION. Control registers (03 R71-R75 and the chapters it names) and CSRR, CSRW (20 R316, R317). -/

namespace Sys2Proof.Machine

/-! ### Values -/

/-- Entries that a sequencer item is: an instruction of a VLOOP body is one entry however many repetitions are due. -/
def SeqItem.entries : SeqItem → Nat
  | .op _ => 1
  | .loop b reps next => if 1 < reps then b.length else b.length - next
  | .mark _ _ => 0

/-- Instructions that a list of sequencer items holds (09 R182). -/
def seqSize (l : List SeqItem) : Nat :=
  (l.map (fun x =>
    match x with
    | .op _ => 1
    | .loop b _ _ => b.length
    | .mark _ _ => 0)).sum

/-- RQ: the entries of a replay queue (13 R243, R248, log 14). -/
def replaySize (l : List SeqItem) : Nat := min 16 (l.map SeqItem.entries).sum

/-- STATUS (13 R243). -/
def statusWord (fw : Bool) (t : Slot) : Word :=
  flagAt 63 fw ||| fieldAt 16 (replaySize t.replay) ||| flagAt 8 t.vskip ||| flagAt 1 t.eerr ||| flagAt 0 t.inh

/-- COREID (03 R72). -/
def coreidWord (c : Nat) : Word :=
  fieldAt 32 Config.step.toNat ||| fieldAt 24 (rowOf c) ||| fieldAt 16 (colOf c) ||| word c

/-- CLAIMID (03 R73). -/
def claimidWord (x : Option Claim) : Word :=
  match x with
  | some x =>
    fieldAt 56 x.rect.h ||| fieldAt 48 x.rect.w ||| fieldAt 40 x.rect.y ||| fieldAt 32 x.rect.x ||| flagAt 8 x.ctltok |||
      word x.id
  | none => 0

/-- PRIO (02 R20). -/
def prioWord (t : Slot) : Word := fieldAt 8 t.prem.toNat ||| word t.level.toNat

/-- CRWSTAT (02 R29). -/
def crwstatWord (t : Slot) : Word :=
  match t.crew with
  | some x =>
    flagAt 63 true ||| flagAt 62 (x.index == 0) ||| fieldAt 48 x.delay ||| fieldAt 40 x.size ||| fieldAt 32 x.index |||
      word (bits x.desc 0 32)
  | none => 0

/-- FMODE (05 R98). -/
def fmodeWord (t : Slot) : Word := fieldAt 8 t.fen.toNat ||| word t.rm.toNat

/-- Lane type code of a stream. -/
def Stream.lane (x : Stream) : Nat := recField x.desc 32 1

/-- STRSTAT byte of a stream (09 R181). -/
def Stream.status (x : Stream) : Nat :=
  (if x.en then 128 else 0) + (if x.writes then 64 else 0) +
    (if x.configured && decide (x.total ≤ x.pos) then 32 else 0) + (if x.ovr then 16 else 0) + x.lane

/-- STRSTAT (09 R181). -/
def strstatWord (t : Slot) : Word :=
  word (((List.range 4).map (fun i => (vget t.streams i Stream.reset).status * 2 ^ (8 * i))).sum)

/-- QSTAT (03 R74). -/
def qstatWord (x : CoreState) : Word :=
  word (((List.range 8).map (fun p => (x.port p).length * 2 ^ (8 * p))).sum)

/-- HEMSTAT (06 R131). -/
def hemstatWord (x : CoreState) : Word :=
  fieldAt 48 x.hemFound.toNat ||| fieldAt 32 x.hemExpect.toNat ||| fieldAt 19 x.hemSrc.toNat |||
    fieldAt 13 x.hemCount.toNat ||| word x.hem.length

/-- Tile of a matrix record. -/
def recTile (r : Rec) : Nat := recField r 8 1 % 8

/-- The command of a record writes tile `t`: FP64 writes both of a pair (09 R166). -/
def recWrites (r : Rec) (t : Nat) : Bool := recTile r == t || (recField r 0 1 == 3 && recTile r + 1 == t)

/-- F of a tile: an accepted command that writes it has not completed (09 R167). -/
def CoreState.inFlight (x : CoreState) (t : Nat) : Bool :=
  x.mxQueue.any (fun m => recWrites m.record t) || x.mxRun.any (fun m => recWrites m.cmd.record t && !m.ended)

/-- Commands accepted and not completed, oldest first. -/
def CoreState.mxOpen (x : CoreState) : List MxCmd :=
  (x.mxRun.toList.filter (fun m => !m.ended)).map (·.cmd) ++ x.mxQueue

/-- Kind of the tile that a command code writes (09 R170). -/
def mxKind (code : Nat) : TileKind := if code = 3 then .fp64 else if code = 4 then .int32 else .fp32

/-- BLK code and seed slot of the N tag that a record brings (21 R347). -/
def recNTag (r : Rec) : Nat × Nat :=
  let b := recWord r 24
  if recField r 9 1 / 2 % 2 = 1 ∧ fatBlk b ≠ 0 then (fatBlk b, fatSeed b) else (0, 0)

/-- CLEAR of a record. -/
def recClear (r : Rec) : Bool := recField r 8 1 / 8 % 2 == 1

/-- The odd half of an FP64 pair. -/
def Tile.oddHalf : Tile := { Tile.reset with kind := .odd }

/-- What an accepted record makes of the tiles' status, in program order: kind, N tag and pair (09 R166, R169). -/
def CoreState.acceptStatus (x : CoreState) (r : Rec) : CoreState :=
  let n := recTile r
  let t := x.tileOf n
  let k := mxKind (recField r 0 1)
  let tag := if !recClear r && t.valid then (t.blk, t.seed) else recNTag r
  let y := x.setTile n { t with valid := true, kind := k, blk := tag.1, seed := tag.2 }
  if k = .fp64 then y.setTile (n + 1) Tile.oddHalf
  else if t.kind = .fp64 ∧ (x.tileOf (n + 1)).kind = .odd then y.setTile (n + 1) Tile.reset
  else y

/-- The tiles as the commands accepted so far will leave them: what the checks of EPUSH see (09 R169, log 18). -/
def CoreState.planned (x : CoreState) : CoreState :=
  x.mxOpen.foldl (fun y m => y.acceptStatus m.record) x

/-- V of a tile as TSTAT reports it: the odd half of an FP64 pair reads as not valid (09 R166). -/
def CoreState.tileV (x : CoreState) (t : Nat) : Bool := (x.tileOf t).valid && (x.planned.tileOf t).kind != .odd

/-- One bit for each tile. -/
def tileBits (f : Nat → Bool) : Nat := ((List.range 8).map (fun i => if f i then 2 ^ i else 0)).sum

/-- The running stage is held on a full q2 or on the hem (09 R177). -/
def CoreState.mxHeld (x : CoreState) : Bool :=
  x.mxRun.any (fun m => m.hemWait || (m.ended && decide (portDepth 2 ≤ x.inUse 2)))

/-- MXSTAT (09 R177). -/
def mxstatWord (x : CoreState) : Word :=
  fieldAt 48 (bits x.mxDone 0 16) ||| flagAt 30 x.mxHeld ||| flagAt 29 x.mxRun.isSome ||| fieldAt 26 x.mxQueue.length |||
    fieldAt 16 (tileBits (fun i => (x.tileOf i).dirty)) ||| fieldAt 8 (tileBits x.inFlight) |||
    word (tileBits x.tileV)

/-- DETQ (12 R238). -/
def detqWord (l : Option Launch) : Word :=
  match l with
  | some l => if l.det then flagAt 63 true ||| word l.quantumLen else 0
  | none => 0

/-- Value of control register `n` as a slot reads it. -/
def State.csr (s : State) (n : Nat) : Word :=
  let c := s.cur.core
  let t := s.me
  let x := s.myCore
  match n with
  | 0x000 => statusWord (s.isFw c) t
  | 0x001 => t.trapvec.setWidth 64
  | 0x002 => causeWord t.trapdef t.trapdetail.toNat t.trapcode.toNat
  | 0x003 => t.trappc.setWidth 64
  | 0x004 => t.trapval
  | 0x005 => t.scratch
  | 0x010 => coreidWord c
  | 0x011 => claimidWord (s.claimOf c)
  | 0x012 => fieldAt 16 s.cur.slot.val ||| word (s.logical c)
  | 0x030 => prioWord t
  | 0x031 => crwstatWord t
  | 0x032 => x.planbase
  | 0x040 => x.cycles
  | 0x041 => x.retired
  | 0x050 => fmodeWord t
  | 0x051 => word t.fflags.toNat
  | 0x070 => detqWord (s.residentOf c)
  | 0x080 => strstatWord t
  | 0x081 => qstatWord x
  | 0x090 => hemstatWord x
  | 0x0A0 => mxstatWord x
  | n =>
    if 0x020 ≤ n ∧ n ≤ 0x027 then x.dom (n - 0x020)
    else if 0x060 ≤ n ∧ n ≤ 0x06F then seedOf (s.seedsOf c) (n - 0x060)
    else 0

/-- Registers whose access waits for the vector sequencer. -/
def csrWaits (n : Nat) : Bool := n == 0x050 || n == 0x051

/-- CSRR (20 R317). -/
def execCsrr (a : GReg) (n : Nat) (s : State) : Outcome :=
  s.finish (do
    s.ports [] [a]
    if csrWaits n then s.vectorDone
    s.writeG a (s.csr n))

/-! ### Writes -/

/-- User mode may write the register (03 R71). -/
def csrUserWritable (n : Nat) : Bool :=
  n ≤ 0x005 || (0x021 ≤ n && n ≤ 0x027) || n == 0x030 || n == 0x050 || n == 0x051

/-- SLOTS of a domain register. -/
def domSlots (w : Word) : Nat := bits w 56 4
/-- V of a domain register. -/
def domValid (w : Word) : Bool := bit w 63
/-- KIND of a domain register: compute-exchange. -/
def domExchange (w : Word) : Bool := bit w 62
/-- SSTEP of a domain register. -/
def domStep (w : Word) : Nat := bits w 32 16
/-- The domain's rectangle, relative to the launch rectangle. -/
def domRect (w : Word) : Rect := ⟨bits w 0 8, bits w 8 8, bits w 16 8, bits w 24 8⟩
/-- The fields of a domain register that software writes (02 R30); SSTEP apart. -/
def domFields : Word := 0xCF000000FFFFFFFF
/-- The fields that every member must hold alike (02 R32). -/
def domSame (a b : Word) : Bool := (a &&& domFields) == (b &&& domFields)

/-- The domain register `w` for domain `k` breaks 02 R31 at position (`x`, `y`) of a group of `gw` by `gh` cores whose
launch starts the slots `started`, beside the registers `doms`. -/
def domBad (doms : Vector Word 8) (k : Nat) (w : Word) (x y gw gh : Nat) (started : Nat) : Bool :=
  let r := domRect w
  domSlots w == 0 || (Nat.land (domSlots w) (15 - started)) != 0 ||
  r.w == 0 || r.h == 0 || !(decide (r.x + r.w ≤ gw) && decide (r.y + r.h ≤ gh)) ||
  !(decide (r.x ≤ x) && decide (x < r.x + r.w) && decide (r.y ≤ y) && decide (y < r.y + r.h)) ||
  (List.range k).any (fun j => domValid (vget doms j 0) && !(domRect (vget doms j 0)).contains r)

/-- The checks of CSRW on DOM1-DOM7 (02 R31). -/
def State.domCheck (s : State) (k : Nat) (w : Word) : Except Stop Unit :=
  let c := s.cur.core
  let x := s.myCore
  if x.slots.toList.any (fun t => vget t.arr k .idle != .idle) then illegalOperand 0
  else if domValid w then
    match s.groupRect c, s.residentOf c with
    | some r, some l =>
      illegalIf (domBad x.doms k w (colOf c - r.x) (rowOf c - r.y) r.w r.h l.slots.toNat) 0
    | _, _ => illegalOperand 0
  else .ok ()

/-- A slot register written by CSRW: RW fields take the bits, W1C bits clear, RO fields stay (20 R317). -/
def Slot.csrw (t : Slot) (n : Nat) (v : Word) : Slot :=
  match n with
  | 0x000 => { t with vskip := bit v 8, eerr := t.eerr && !bit v 1 }
  | 0x001 => { t with trapvec := (v &&& 0xFFFFFFFFFFFE).setWidth 48 }
  | 0x002 => { t with
      trapdef := bit v 63, trapdetail := (v >>> 8).setWidth 8, trapcode := v.setWidth 8 }
  | 0x003 => { t with trappc := (v &&& 0xFFFFFFFFFFFE).setWidth 48 }
  | 0x004 => { t with trapval := v }
  | 0x005 => { t with scratch := v }
  | 0x030 => { t with level := v.setWidth 3 }
  | 0x050 => { t with fen := (v >>> 8).setWidth 5, rm := v.setWidth 2 }
  | 0x051 => { t with fflags := v.setWidth 5 }
  | _ => t

/-- A domain register written by CSRW: DOM0, which only the firmware writes, keeps SSTEP; the others set it to 0. -/
def CoreState.csrwDom (x : CoreState) (k : Nat) (v : Word) : CoreState :=
  { x with
    doms := vset x.doms k ((v &&& domFields) ||| (if k = 0 then x.dom 0 &&& 0xFFFF00000000 else 0)) }

/-- CSRW (20 R317): a register that is RO in user mode is an illegal instruction there (03 R71). -/
def execCsrw (a : GReg) (n : Nat) (s : State) : Outcome :=
  s.finish (do
    if !csrUserWritable n && !s.isFw s.cur.core then s.illegalHere
    s.ports [a] []
    if csrWaits n then s.vectorDone
    let (v, s1) := s.readG a
    if 0x021 ≤ n ∧ n ≤ 0x027 then s.domCheck (n - 0x020) v
    if 0x020 ≤ n ∧ n ≤ 0x027 then .ok (s1.modMyCore (fun x => x.csrwDom (n - 0x020) v))
    else .ok (s1.modMe (fun t => t.csrw n v)))

end Sys2Proof.Machine
end

