-- ==== Sys2Proof/Machine/Flags.lean ====
section
/-! DEFINITION. Numbers, rounding and the flags that rounding raises (05 R94-R107). -/

namespace Sys2Proof.Machine

/-! ### Flags (05 R99) -/

/-- NV DZ OF UF NX, bits 4 to 0 of FFLAGS. -/
abbrev Flags := BitVec 5
/-- Invalid operation. -/
def flagNV : Flags := 16
/-- Division by zero. -/
def flagDZ : Flags := 8
/-- Overflow. -/
def flagOF : Flags := 4
/-- Underflow. -/
def flagUF : Flags := 2
/-- Inexact. -/
def flagNX : Flags := 1
/-- A flag where a condition holds. -/
def flagIf (b : Bool) (f : Flags) : Flags := if b then f else 0

/-- Rounding modes (05 R98). -/
inductive Rounding where
  | rne | rtz | rup | rdn
  deriving DecidableEq, Repr

/-- FMODE.RM (05 R98). -/
def roundingOf (rm : BitVec 2) : Rounding :=
  match rm.toNat with
  | 0 => .rne | 1 => .rtz | 2 => .rup | _ => .rdn

/-! ### Numbers -/

/-- What an operand reads as: (-1)^neg m 2^e, an infinity or a NaN, signalling or quiet. -/
inductive Num where
  | fin (neg : Bool) (m : Nat) (e : Int)
  | inf (neg : Bool)
  | nan (sig : Bool)
  deriving DecidableEq, Repr

/-- The number is a NaN. -/
def Num.isNan : Num → Bool
  | .nan _ => true | .fin _ _ _ => false | .inf _ => false
/-- A signalling NaN raises NV. -/
def Num.sigNV : Num → Flags
  | .nan true => flagNV | .nan false => 0 | .fin _ _ _ => 0 | .inf _ => 0
/-- Zero of either sign. -/
def Num.isZero : Num → Bool
  | .fin _ 0 _ => true | .fin _ (_ + 1) _ => false | .inf _ => false | .nan _ => false
/-- The sign. -/
def Num.neg : Num → Bool
  | .fin s _ _ => s | .inf s => s | .nan _ => false
/-- The number with its sign inverted. -/
def Num.negate : Num → Num
  | .fin s m e => .fin (!s) m e | .inf s => .inf (!s) | .nan b => .nan b
/-- The number without its sign. -/
def Num.abs : Num → Num
  | .fin _ m e => .fin false m e | .inf _ => .inf false | .nan b => .nan b
/-- The number times 2^k. -/
def Num.scale (k : Int) : Num → Num
  | .fin s m e => .fin s m (e + k) | .inf s => .inf s | .nan b => .nan b
/-- An integer. -/
def Num.ofInt (v : Int) : Num := .fin (decide (v < 0)) v.natAbs 0

/-- `m 2^e` as a multiple of `2^f`, where f is at most e. -/
def alignTo (m : Nat) (e f : Int) : Nat := m * 2 ^ (e - f).toNat

/-- The signed integer of a finite number at exponent f. -/
def signedAt (s : Bool) (m : Nat) (e f : Int) : Int := if s then -(alignTo m e f : Int) else alignTo m e f

/-- Zero sign of an exact sum (05 R115). -/
def zeroSign (rm : Rounding) (s t : Bool) : Bool := if s = t then s else rm == .rdn

/-- The exact sum (05 R100): infinities of unlike sign are invalid. -/
def Num.add (rm : Rounding) : Num → Num → Num × Flags
  | .nan a, y => (.nan false, flagIf a flagNV ||| y.sigNV)
  | x, .nan b => (.nan false, flagIf b flagNV ||| x.sigNV)
  | .inf s, .inf t => if s = t then (.inf s, 0) else (.nan false, flagNV)
  | .inf s, .fin _ _ _ => (.inf s, 0)
  | .fin _ _ _, .inf t => (.inf t, 0)
  | .fin s m e, .fin t n f =>
    let g := min e f
    let v := signedAt s m e g + signedAt t n f g
    if v = 0 then (.fin (if m = 0 ∧ n = 0 then zeroSign rm s t else rm == .rdn) 0 0, 0)
    else (.fin (decide (v < 0)) v.natAbs g, 0)

/-- The exact difference. -/
def Num.sub (rm : Rounding) (x y : Num) : Num × Flags := Num.add rm x y.negate

/-- The exact product: 0 times an infinity is invalid. -/
def Num.mul : Num → Num → Num × Flags
  | .nan a, y => (.nan false, flagIf a flagNV ||| y.sigNV)
  | x, .nan b => (.nan false, flagIf b flagNV ||| x.sigNV)
  | .inf s, .inf t => (.inf (s != t), 0)
  | .inf s, .fin t n _ => if n = 0 then (.nan false, flagNV) else (.inf (s != t), 0)
  | .fin s m _, .inf t => if m = 0 then (.nan false, flagNV) else (.inf (s != t), 0)
  | .fin s m e, .fin t n f => (.fin (s != t) (m * n) (e + f), 0)

/-- The exact product plus an addend; 0 times an infinity is invalid whatever the addend (22 R398). -/
def Num.fma (rm : Rounding) (x y z : Num) : Num × Flags :=
  let (p, f) := Num.mul x y
  let (r, g) := Num.add rm z p
  (r, f ||| g)

/-- Numeric order of two numbers that are not NaN: the first is below the second. -/
def Num.lt : Num → Num → Bool
  | .inf s, .inf t => s && !t
  | .inf s, .fin _ _ _ => s
  | .fin _ _ _, .inf t => !t
  | .fin s m e, .fin t n f => decide (signedAt s m e (min e f) < signedAt t n f (min e f))
  | .nan _, _ => false
  | .fin _ _ _, .nan _ => false
  | .inf _, .nan _ => false

/-- Order of VMIN and VMAX: -0 below +0 (05 R100). -/
def Num.below (x y : Num) : Bool := x.lt y || (x.isZero && y.isZero && x.neg && !y.neg)

/-! ### Rounding (05 R100) -/

/-- A magnitude cut off: rounds up or not, for the mode and sign. A tie of RNE in a format of one significant digit takes
the larger magnitude, whatever its code (log 65, the model's choice). -/
def roundsUp (rm : Rounding) (neg : Bool) (n rem half : Nat) : Bool :=
  match rm with
  | .rne => decide (half < rem) || (rem == half && n % 2 == 1)
  | .rtz => false
  | .rup => !neg && rem != 0
  | .rdn => neg && rem != 0

/-- `m 2^e` rounded to a multiple of `2^q`: the multiple, and whether it is inexact. -/
def roundAt (rm : Rounding) (neg : Bool) (m : Nat) (e q : Int) : Nat × Bool :=
  if q ≤ e then (alignTo m e q, false)
  else
    let d := (q - e).toNat
    let n := m / 2 ^ d
    let r := m % 2 ^ d
    (if roundsUp rm neg n r (2 ^ (d - 1)) then n + 1 else n, r != 0)

/-- A magnitude `m 2^e` (not 0) rounded to `p` bits with quantum at least `2^qmin`: the multiple, its quantum, inexact, and
tiny after rounding. -/
def roundBits (p : Nat) (qmin : Int) (rm : Rounding) (neg : Bool) (m : Nat) (e : Int) : Nat × Int × Bool × Bool :=
  let q0 : Int := e + Nat.log2 m - (p - 1 : Nat)
  let q := max q0 qmin
  let (n, x) := roundAt rm neg m e q
  let (n0, _) := roundAt rm neg m e q0
  (n, q, x, decide (alignTo n0 q0 (min q0 qmin) < alignTo (2 ^ (p - 1)) qmin (min q0 qmin)))

/-- An infinity, rather than the largest finite value, on overflow (IEEE 754). -/
def overflowsToInf (rm : Rounding) (neg : Bool) : Bool :=
  match rm with
  | .rne => true | .rtz => false | .rup => !neg | .rdn => neg

/-! ### Formats with IEEE 754 layout (05 R94) -/

/-- Exponent bits and trailing-significand bits. -/
structure FloatFmt where
  w : Nat
  m : Nat
  deriving DecidableEq, Repr

/-- fp64. -/
def fp64Fmt : FloatFmt := ⟨11, 52⟩
/-- fp32. -/
def fp32Fmt : FloatFmt := ⟨8, 23⟩
/-- bf16. -/
def bf16Fmt : FloatFmt := ⟨8, 7⟩
/-- fp16. -/
def fp16Fmt : FloatFmt := ⟨5, 10⟩

/-- Bias. -/
def FloatFmt.bias (f : FloatFmt) : Int := 2 ^ (f.w - 1) - 1
/-- Smallest quantum exponent. -/
def FloatFmt.qmin (f : FloatFmt) : Int := 1 - f.bias - f.m
/-- Code of +infinity. -/
def FloatFmt.infCode (f : FloatFmt) : Nat := (2 ^ f.w - 1) * 2 ^ f.m
/-- Code of the canonical NaN. -/
def FloatFmt.nanCode (f : FloatFmt) : Nat := f.infCode + 2 ^ (f.m - 1)
/-- Sign bit. -/
def FloatFmt.signBit (f : FloatFmt) (neg : Bool) : Nat := if neg then 2 ^ (f.w + f.m) else 0

/-- The value of a code. -/
def FloatFmt.read (f : FloatFmt) (x : Nat) : Num :=
  let s := x / 2 ^ (f.w + f.m) % 2 == 1
  let e := x / 2 ^ f.m % 2 ^ f.w
  let t := x % 2 ^ f.m
  if e = 2 ^ f.w - 1 then (if t = 0 then .inf s else .nan (t / 2 ^ (f.m - 1) == 0))
  else if e = 0 then .fin s t f.qmin
  else .fin s (2 ^ f.m + t) (f.qmin + (e - 1 : Nat))

/-- A number encoded (05 R100, R102): the code and the flags raised. -/
def FloatFmt.encode (f : FloatFmt) (rm : Rounding) : Num → Nat × Flags
  | .nan sig => (f.nanCode, flagIf sig flagNV)
  | .inf s => (f.signBit s + f.infCode, 0)
  | .fin s m e =>
    if m = 0 then (f.signBit s, 0)
    else
      let (n, q, x, tiny) := roundBits (f.m + 1) f.qmin rm s m e
      let c := (q - f.qmin).toNat * 2 ^ f.m + n
      if f.infCode ≤ c then
        (f.signBit s + (if overflowsToInf rm s then f.infCode else f.infCode - 1), flagOF ||| flagNX)
      else (f.signBit s + c, flagIf x flagNX ||| flagIf (x && tiny) flagUF)

/-! ### Integer formats (05 R95, R103, R104) -/

/-- A number rounded to an integer and clamped to `lo` .. `hi`. -/
def encodeInt (lo hi : Int) (rm : Rounding) : Num → Int × Flags
  | .nan _ => (0, flagNV)
  | .inf s => (if s then lo else hi, flagNV)
  | .fin s m e =>
    let (n, x) := roundAt rm s m e 0
    let v : Int := if s then -(n : Int) else n
    if v < lo then (lo, flagNV) else if hi < v then (hi, flagNV) else (v, flagIf x flagNX)

/-- A code of `w` bits of an integer. -/
def codeOfInt (w : Nat) (v : Int) : Nat := (v % 2 ^ w).toNat

/-- A `w`-bit two's complement code. -/
def readInt (w x : Nat) : Int := if 2 * (x % 2 ^ w) < 2 ^ w then (x % 2 ^ w : Nat) else (x % 2 ^ w : Nat) - 2 ^ w

/-- A `w`-bit sign-magnitude code; the negative zero reads as +0 (05 R95). -/
def readSm (w x : Nat) : Num :=
  let mag := x % 2 ^ (w - 1)
  .fin (mag != 0 && x / 2 ^ (w - 1) % 2 == 1) mag 0

/-- A sign-magnitude code of a number (05 R104). -/
def encodeSm (w : Nat) (rm : Rounding) (x : Num) : Nat × Flags :=
  let b : Int := 2 ^ (w - 1) - 1
  let (v, f) := encodeInt (-b) b rm x
  (v.natAbs + (if v < 0 then 2 ^ (w - 1) else 0), f)

/-! ### binary8 and E2M1 (05 R96, R97, R105) -/

/-- Precision, signedness and infinities of a binary8 format. -/
structure B8Fmt where
  p : Nat
  signed : Bool
  infs : Bool
  deriving DecidableEq, Repr

/-- Exponent bits. -/
def B8Fmt.w (f : B8Fmt) : Nat := (if f.signed then 8 else 9) - f.p
/-- Smallest quantum exponent. -/
def B8Fmt.qmin (f : B8Fmt) : Int := 1 - 2 ^ (f.w - 1) - (f.p - 1 : Nat)
/-- NaN code. -/
def B8Fmt.nanCode (f : B8Fmt) : Nat := if f.signed then 0x80 else 0xFF
/-- Code of the largest finite magnitude. -/
def B8Fmt.maxCode (f : B8Fmt) : Nat := (if f.signed then 0x7F else 0xFE) - (if f.infs then 1 else 0)

/-- The value of a code. -/
def B8Fmt.read (f : B8Fmt) (x : Nat) : Num :=
  if x = f.nanCode then .nan false
  else
    let s := f.signed && x / 128 == 1
    let c := if f.signed then x % 128 else x
    if f.infs && c == f.maxCode + 1 then .inf s
    else
      let e := c / 2 ^ (f.p - 1)
      let t := c % 2 ^ (f.p - 1)
      if e = 0 then .fin s t f.qmin else .fin s (2 ^ (f.p - 1) + t) (f.qmin + (e - 1 : Nat))

/-- The code of a signed magnitude. -/
def B8Fmt.signedCode (f : B8Fmt) (s : Bool) (c : Nat) : Nat := if f.signed && s && c != 0 then 128 + c else c

/-- The magnitude code of a nonzero finite magnitude rounded to `p` bits, the largest being `top`; `infs` says that one
code above it is an infinity. A value exactly half a step above the largest ties to even (log 98, the model's choice). -/
def encodeMag (p : Nat) (qmin : Int) (top : Nat) (infs : Bool) (rm : Rounding) (s : Bool) (m : Nat) (e : Int) :
    Nat × Flags :=
  let (n, q, x, tiny) := roundBits p qmin rm s m e
  let c := (q - qmin).toNat * 2 ^ (p - 1) + n
  if top < c then ((if infs && overflowsToInf rm s then top + 1 else top), flagOF ||| flagNX)
  else (c, flagIf x flagNX ||| flagIf (x && tiny) flagUF)

/-- A number encoded by 05 R105. -/
def B8Fmt.encode (f : B8Fmt) (rm : Rounding) : Num → Nat × Flags
  | .nan sig => (f.nanCode, flagIf sig flagNV)
  | .inf s =>
    if s && !f.signed then (0, flagNV)
    else if f.infs then (f.signedCode s (f.maxCode + 1), 0)
    else (f.signedCode s f.maxCode, flagOF ||| flagNX)
  | .fin s m e =>
    if m = 0 then (0, 0)
    else if s && !f.signed then (0, flagNV)
    else
      let (c, g) := encodeMag f.p f.qmin f.maxCode f.infs rm s m e
      (f.signedCode s c, g)

/-- The value of an E2M1 code. -/
def readE2m1 (x : Nat) : Num :=
  let s := x / 8 % 2 == 1
  let e := x / 2 % 4
  let t := x % 2
  if e = 0 then .fin s t (-1) else .fin s (2 + t) (-1 + (e - 1 : Nat))

/-- A number encoded into E2M1, saturating to 6 (05 R106). A NaN is never asked for: its block has the scale 0xFF. A zero
keeps its sign (log 99, the model's choice). -/
def encodeE2m1 (rm : Rounding) : Num → Nat × Flags
  | .nan _ => (0, flagNV)
  | .inf s => ((if s then 8 else 0) + 7, flagOF ||| flagNX)
  | .fin s m e =>
    if m = 0 then (if s then 8 else 0, 0)
    else
      let (c, g) := encodeMag 2 (-1) 7 false rm s m e
      ((if s then 8 else 0) + c, g)

/-- An E8M0 scale byte: its exponent, none for the NaN. -/
def scaleOf (c : Nat) : Option Int := if c = 255 then none else some ((c : Int) - 127)

/-! ### Rounding of one operation (05 R100) -/

/-- A result and the flags of forming it, encoded. -/
def FloatFmt.finish (f : FloatFmt) (rm : Rounding) (r : Num × Flags) : Nat × Flags :=
  let (c, g) := f.encode rm r.1
  (c, r.2 ||| g)

/-- One FP32 operation under RNE, as numbers (05 R109, 06 R119). -/
def round32 (r : Num × Flags) : Num × Flags :=
  let (c, g) := fp32Fmt.finish .rne r
  (fp32Fmt.read c, g)

end Sys2Proof.Machine
end

