-- ==== Sys2Proof/Machine/Numbers.lean ====
section
/-! DEFINITION. Lane types and memory formats as numbers (03 R61, 05 R94-R107, 07 R135), and the correctly rounded
functions of 22 R397. -/

namespace Sys2Proof.Machine

/-! ### Lane types (03 R61) -/

/-- Float layout of a lane type. -/
def laneFmt : LaneType → Option FloatFmt
  | .fp32 => some fp32Fmt | .bf16 => some bf16Fmt | .fp16 => some fp16Fmt | .fp64 => some fp64Fmt
  | .i32 => none | .i16 => none | .i8 => none | .i64 => none

/-- The value of a lane. -/
def laneRead (t : LaneType) (x : Nat) : Num :=
  match laneFmt t with
  | some f => f.read x
  | none => Num.ofInt (readInt t.width x)

/-- A number encoded into a lane (05 R102, R103). -/
def laneEncode (t : LaneType) (rm : Rounding) (x : Num) : Nat × Flags :=
  match laneFmt t with
  | some f => f.encode rm x
  | none =>
    let b : Int := 2 ^ (t.width - 1)
    let (v, g) := encodeInt (-b) (b - 1) rm x
    (codeOfInt t.width v, g)

/-! ### Memory formats (07 R135) -/

/-- Element size in bits; 0 for bits without a format. -/
def fmtBits (f : Nat) : Nat :=
  match f with
  | 0 => 0 | 1 => 64 | 2 => 32 | 3 => 16 | 4 => 16 | 5 => 32 | 6 => 16 | 7 => 8 | 8 => 8 | 9 => 4 | 10 => 4
  | _ => 8

/-- The binary8 format of a code of 0x10 and up; x8pK elements are b8pKsf. -/
def b8Of (f : Nat) : B8Fmt :=
  let k := f / 8
  ⟨f % 8 + 1, k == 2 || k == 3 || k == 6, k == 3 || k == 5⟩

/-- The value of an element, its scale apart. -/
def fmtRead (f x : Nat) : Num :=
  match f with
  | 1 => fp64Fmt.read x
  | 2 => fp32Fmt.read x
  | 3 => bf16Fmt.read x
  | 4 => fp16Fmt.read x
  | 5 => Num.ofInt (readInt 32 x)
  | 6 => Num.ofInt (readInt 16 x)
  | 7 => Num.ofInt (readInt 8 x)
  | 8 => readSm 8 x
  | 9 => readSm 4 x
  | 10 => readE2m1 x
  | f => (b8Of f).read x

/-- An element of a two's complement format. -/
def intCode (w : Nat) (rm : Rounding) (x : Num) : Nat × Flags :=
  let b : Int := 2 ^ (w - 1)
  let (v, g) := encodeInt (-b) (b - 1) rm x
  (codeOfInt w v, g)

/-- A number encoded into an element, its scale apart (05 R102-R106). -/
def fmtEncode (f : Nat) (rm : Rounding) (x : Num) : Nat × Flags :=
  match f with
  | 1 => fp64Fmt.encode rm x
  | 2 => fp32Fmt.encode rm x
  | 3 => bf16Fmt.encode rm x
  | 4 => fp16Fmt.encode rm x
  | 5 => intCode 32 rm x
  | 6 => intCode 16 rm x
  | 7 => intCode 8 rm x
  | 8 => encodeSm 8 rm x
  | 9 => encodeSm 4 rm x
  | 10 => encodeE2m1 rm x
  | f => (b8Of f).encode rm x

/-- The narrowing rule applies (07 R135). -/
def fmtNarrow (f : Nat) : Bool := f ≥ 8
/-- The format carries scales. -/
def fmtScaled (f : Nat) : Bool := f == 10 || f ≥ 0x30
/-- The integer formats of 06 R119. -/
def fmtInt (f : Nat) : Bool := 5 ≤ f && f ≤ 9
/-- A tag on such an element is refused (06 R120). -/
def fmtUntaggable (f : Nat) : Bool := f == 1 || f == 5 || f == 6 || f == 7
/-- The lane type of the same bits as a format without conversion. -/
def fmtOfLane : LaneType → Nat
  | .fp32 => 2 | .bf16 => 3 | .fp16 => 4 | .i32 => 5 | .i16 => 6 | .i8 => 7 | .fp64 => 1 | .i64 => 0

/-- Equal numbers. -/
def Num.same (x y : Num) : Bool :=
  match x, y with
  | .nan _, .nan _ => true
  | .inf s, .inf t => s == t
  | .fin _ _ _, .fin _ _ _ => !x.lt y && !y.lt x
  | .fin _ _ _, .inf _ => false | .fin _ _ _, .nan _ => false
  | .inf _, .fin _ _ _ => false | .inf _, .nan _ => false
  | .nan _, .fin _ _ _ => false | .nan _, .inf _ => false

/-- The element converts exactly (06 R121). -/
def fmtExact (f : Nat) (x : Num) (code : Nat) : Bool := (fmtRead f code).same x

/-! ### Integer roots -/

/-- Square root of a number, rounded down, bit by bit from bit `k - 1`. -/
def isqrt (n : Nat) : Nat → Nat → Nat
  | 0, r => r
  | k + 1, r => if (r + 2 ^ k) * (r + 2 ^ k) ≤ n then isqrt n k (r + 2 ^ k) else isqrt n k r

/-! ### 1/x and 1/sqrt x, exact up to a sticky bit -/

/-- 1/x for a finite x that is not 0: 130 bits of the quotient and a sticky bit below them. -/
def recipNum (s : Bool) (m : Nat) (e : Int) : Num :=
  let k := Nat.log2 m + 130
  let n := 2 ^ k / m
  .fin s (2 * n + (if 2 ^ k % m = 0 then 0 else 1)) (-e - k - 1)

/-- 1/sqrt x for a finite x above 0. -/
def rsqrtNum (m : Nat) (e : Int) : Num :=
  let (m, e) := if e % 2 = 0 then (m, e) else (2 * m, e - 1)
  let k := Nat.log2 m + 130
  let n := 2 ^ (2 * k) / m
  let r := isqrt n (k + 1) 0
  .fin false (2 * r + (if r * r * m = 2 ^ (2 * k) then 0 else 1)) (-(e / 2) - k - 1)

/-! ### e^x and ln x, between bounds -/

/-- `a / b` rounded up. -/
def ceilDiv (a b : Nat) : Nat := (a + b - 1) / b

/-- Bounds of `2 atanh(p / q)` for 3 p <= q, in units of 2^-n. -/
def atanhSeries (p q : Nat) : Nat → Nat → Nat → Nat → Nat → Nat → Nat × Nat
  | 0, _, _, tHi, lo, hi => (2 * lo, 2 * (hi + tHi + 1))
  | fuel + 1, i, tLo, tHi, lo, hi =>
    atanhSeries p q fuel (i + 1) (tLo * p * p / (q * q)) (ceilDiv (tHi * p * p) (q * q))
      (lo + tLo / (2 * i + 1)) (hi + ceilDiv tHi (2 * i + 1))

/-- `2 atanh(p / q)` to about 2^-n. -/
def atanhBounds (n p q : Nat) : Nat × Nat :=
  atanhSeries p q (n / 3 + 2) 0 (2 ^ n * p / q) (ceilDiv (2 ^ n * p) q) 0 0

/-- ln 2 in units of 2^-n. -/
def ln2Bounds (n : Nat) : Nat × Nat := atanhBounds n 1 3

/-- Bounds of ln of `m 2^e`, in units of 2^-n. -/
def lnBounds (n m : Nat) (e : Int) : Int × Int :=
  let l := Nat.log2 m
  let k : Int := e + l
  let (aLo, aHi) := atanhBounds n (m - 2 ^ l) (m + 2 ^ l)
  let (bLo, bHi) := ln2Bounds n
  if 0 ≤ k then (k * bLo + aLo, k * bHi + aHi) else (k * bHi + aLo, k * bLo + aHi)

/-- Bounds of e^r for r between rLo and rHi, both within 0 to 1, in units of 2^-n. -/
def expSeries (n rLo rHi : Nat) : Nat → Nat → Nat → Nat → Nat → Nat → Nat × Nat
  | 0, _, _, tHi, lo, hi => (lo, hi + 2 * tHi + 2)
  | fuel + 1, i, tLo, tHi, lo, hi =>
    expSeries n rLo rHi fuel (i + 1) (tLo * rLo / (2 ^ n * (i + 1))) (ceilDiv (tHi * rHi) (2 ^ n * (i + 1)))
      (lo + tLo) (hi + tHi)

/-- Bounds of e^x for x = `v 2^f`, as integers in units of 2^g. -/
def expBounds (n : Nat) (v : Int) (f : Int) : Nat × Nat × Int :=
  let (bLo, bHi) := ln2Bounds n
  let x : Int := if 0 ≤ f + n then v * 2 ^ (f + n).toNat else v / 2 ^ (-(f + n)).toNat
  let k : Int := if 0 ≤ x then x / bHi else x / bLo
  let rLo : Int := if 0 ≤ k then x - k * bHi else x - k * bLo
  let rHi : Int := (if 0 ≤ k then x - k * bLo else x - k * bHi) + 1
  let (lo, hi) := expSeries n rLo.toNat rHi.toNat (n / 4 + 20) 0 (2 ^ n) (2 ^ n) 0 0
  (lo, hi, k - n)

/-- A number strictly between two bounds, encoded: both bounds round alike, or the next precision is tried; the value is
known to be irrational, so that it is never a bound itself. -/
def FloatFmt.between (f : FloatFmt) (rm : Rounding) (lo hi : Int) (g : Int) : Option (Nat × Flags) :=
  let a := 2 * lo + 1
  let b := 2 * hi - 1
  let p := f.encode rm (.fin (decide (a < 0)) a.natAbs (g - 1))
  let q := f.encode rm (.fin (decide (b < 0)) b.natAbs (g - 1))
  if p = q then some p else none

/-- The first precision that decides; the last one is taken as it stands (log 15). -/
def FloatFmt.decideBy (f : FloatFmt) (rm : Rounding) (bounds : Nat → Int × Int × Int) : List Nat → Nat × Flags
  | [] =>
    let (lo, _, g) := bounds 4096
    f.encode rm (.fin (decide (lo < 0)) (2 * lo + 1).natAbs (g - 1))
  | n :: ns =>
    let (lo, hi, g) := bounds n
    match f.between rm lo hi g with
    | some r => r
    | none => f.decideBy rm bounds ns

/-- Precisions tried. -/
def precisions : List Nat := [160, 320, 640, 1280, 2560]

/-- e^x for a finite x that is not 0. -/
def FloatFmt.expFin (f : FloatFmt) (rm : Rounding) (s : Bool) (m : Nat) (e : Int) : Nat × Flags :=
  let top : Int := e + Nat.log2 m
  if 11 ≤ top then f.encode rm (.fin false 1 (if s then -10000 else 10000))
  else if top < -100 then f.encode rm (.fin false (if s then 2 ^ 100 - 1 else 2 ^ 100 + 1) (-100))
  else
    let v : Int := if s then -(m : Int) else m
    f.decideBy rm (fun n => let (lo, hi, g) := expBounds n v e; (lo, hi, g)) precisions

/-- ln x for a finite x above 0 other than 1. -/
def FloatFmt.lnFin (f : FloatFmt) (rm : Rounding) (m : Nat) (e : Int) : Nat × Flags :=
  f.decideBy rm (fun n => let (lo, hi) := lnBounds n m e; (lo, hi, -(n : Int))) precisions

/-- VEXP of a code (22 R397). -/
def FloatFmt.exp (f : FloatFmt) (rm : Rounding) (x : Nat) : Nat × Flags :=
  match f.read x with
  | .nan b => (f.nanCode, flagIf b flagNV)
  | .inf s => (if s then 0 else f.infCode, 0)
  | .fin s m e => if m = 0 then f.encode rm (.fin false 1 0) else f.expFin rm s m e

/-- VLN of a code. -/
def FloatFmt.ln (f : FloatFmt) (rm : Rounding) (x : Nat) : Nat × Flags :=
  match f.read x with
  | .nan b => (f.nanCode, flagIf b flagNV)
  | .inf s => if s then (f.nanCode, flagNV) else (f.infCode, 0)
  | .fin s m e =>
    if m = 0 then (f.signBit true + f.infCode, flagDZ)
    else if s then (f.nanCode, flagNV)
    else if Num.same (.fin false m e) (.fin false 1 0) then (0, 0)
    else f.lnFin rm m e

/-- VRCP of a code. -/
def FloatFmt.rcp (f : FloatFmt) (rm : Rounding) (x : Nat) : Nat × Flags :=
  match f.read x with
  | .nan b => (f.nanCode, flagIf b flagNV)
  | .inf s => (f.signBit s, 0)
  | .fin s m e => if m = 0 then (f.signBit s + f.infCode, flagDZ) else f.encode rm (recipNum s m e)

/-- VRSQ of a code. -/
def FloatFmt.rsq (f : FloatFmt) (rm : Rounding) (x : Nat) : Nat × Flags :=
  match f.read x with
  | .nan b => (f.nanCode, flagIf b flagNV)
  | .inf s => if s then (f.nanCode, flagNV) else (0, 0)
  | .fin s m e =>
    if m = 0 then (f.signBit s + f.infCode, flagDZ)
    else if s then (f.nanCode, flagNV)
    else f.encode rm (rsqrtNum m e)

/-! ### Sums (05 R108) -/

/-- Adjacent pairs of a list combined. -/
def pairUp {α : Type} (f : α → α → α) : List α → List α
  | a :: b :: l => f a b :: pairUp f l
  | [a] => [a]
  | [] => []

/-- The tree sum of a list of 2^k leaves. -/
def treeSum {α : Type} (f : α → α → α) (z : α) : Nat → List α → α
  | 0, l => l.headD z
  | k + 1, l => treeSum f z k (pairUp f l)

end Sys2Proof.Machine
end

