-- ==== Sys2Proof/Machine/Rotation.lean ====
section
/-! DEFINITION. Rotation of blocks and conversion between tags (06 R117-R122). -/

namespace Sys2Proof.Machine

/-- `f` applied `n` times. -/
def iterate {α : Type} (f : α → α) : Nat → α → α
  | 0, x => x
  | n + 1, x => iterate f n (f x)

/-- The sign of position `i` is -1 (06 R117). -/
def signNeg (seed : Word) (i : Nat) : Bool :=
  if seed = 0 then false else (iterate xs (i / 64 + 1) seed).getLsbD (i % 64)

/-- A list cut into pieces of `n`. -/
def chunks {α : Type} (n : Nat) : Nat → List α → List (List α)
  | 0, _ => []
  | _ + 1, [] => []
  | fuel + 1, x :: l => (x :: l).take n :: chunks n fuel ((x :: l).drop n)

/-- Values and the flags raised while they were formed. -/
abbrev Nums := List Num × Flags

/-- Flags of a list ORed. -/
def orFlags (l : List Flags) : Flags := l.foldl (· ||| ·) 0

/-- Separates values from flags. -/
def unzipFlags {α : Type} (l : List (α × Flags)) : List α × Flags := (l.map (·.1), orFlags (l.map (·.2)))

/-- An operation of the butterflies: exact in the integer kind, FP32 RNE in the float kind. -/
def kindOp (int : Bool) (r : Num × Flags) : Num × Flags := if int then r else round32 r

/-- Stage `k` of the butterflies. -/
def butterfly (int : Bool) (k : Nat) (x : List Num) : Nums :=
  let at' (i : Nat) : Num := x[i]?.getD (.fin false 0 0)
  unzipFlags ((List.range x.length).map (fun i =>
    if i / 2 ^ k % 2 = 0 then kindOp int (Num.add .rne (at' i) (at' (i + 2 ^ k)))
    else kindOp int (Num.sub .rne (at' (i - 2 ^ k)) (at' i))))

/-- The first `b` stages. -/
def butterflies (int : Bool) (b : Nat) (x : List Num) : Nums :=
  (List.range b).foldl (fun a k => let (y, f) := butterfly int k a.1; (y, a.2 ||| f)) (x, 0)

/-- The signs of a block applied. -/
def applySigns (seed : Word) (x : List Num) : List Num :=
  (List.range x.length).map (fun i =>
    let v := x[i]?.getD (.fin false 0 0)
    if signNeg seed i then v.negate else v)

/-- Values as they enter the butterflies: in the float kind held in FP32, rounded RNE where they do not fit. -/
def enterKind (int : Bool) (x : List Num) : Nums := unzipFlags (x.map (fun v => if int then (v, 0) else round32 (v, 0)))

/-- `rotate_block` (06 R119). -/
def rotateBlock (int : Bool) (b : Nat) (seed : Word) (x : List Num) : Nums :=
  let (x, f) := enterKind int x
  let (y, g) := butterflies int b (applySigns seed x)
  (y, f ||| g)

/-- 2^-b times a value: rounded to an integer by the mode in the integer kind, to FP32 RNE in the float kind. -/
def unscale (int : Bool) (rm : Rounding) (b : Nat) (v : Num) : Num × Flags :=
  if int then
    match v with
    | .fin s m e => let (n, x) := roundAt rm s m (e - b) 0; (.fin s n 0, flagIf x flagNX)
    | .inf s => (.inf s, 0)
    | .nan c => (.nan c, 0)
  else round32 (v.scale (-(b : Int)), 0)

/-- `derotate_block` (06 R119). -/
def derotateBlock (int : Bool) (rm : Rounding) (b : Nat) (seed : Word) (x : List Num) : Nums :=
  let (x, f) := enterKind int x
  let (y, g) := butterflies int b x
  let (z, h) := unzipFlags ((applySigns seed y).map (unscale int rm b))
  (z, f ||| g ||| h)

/-- A transform applied to each piece of `n` values. -/
def perBlock (n : Nat) (f : List Num → Nums) (x : List Num) : Nums :=
  let parts := (chunks n x.length x).map f
  (parts.flatMap (·.1), orFlags (parts.map (·.2)))

/-- A tag: block-log and seed slot; `none` without one. -/
abbrev Tag := Option (Nat × Nat)

/-- The tag of a fat pointer (07 R134). -/
def fatTag (p : Word) : Tag := if fatBlk p = 0 then none else some (fatBlk p + 3, fatSeed p)

/-- The seed slot a tag names holds zero (06 R118). -/
def tagZero (seeds : Vector Word 16) : Tag → Option Nat
  | some (_, n) => if n ≠ 0 ∧ seedOf seeds n = 0 then some n else none
  | none => none

/-- Values taken from tag `a` to tag `b` (06 R122). -/
def retag (seeds : Vector Word 16) (int : Bool) (rm : Rounding) (a b : Tag) (x : List Num) : Nums :=
  if a = b then (x, 0)
  else
    let (y, f) :=
      match a with
      | some (n, k) => perBlock (2 ^ n) (derotateBlock int rm n (seedOf seeds k)) x
      | none => (x, 0)
    match b with
    | some (n, k) =>
      let (z, g) := perBlock (2 ^ n) (rotateBlock int n (seedOf seeds k)) y
      (z, f ||| g)
    | none => (y, f)

end Sys2Proof.Machine
end

