-- ==== Sys2Proof/Machine/VecMem.lean ====
section
/-! DEFINITION. Memory as a vector instruction reaches it (22 R387, 07 R409), streams (09 R179, R180), and vector register
fields. -/

namespace Sys2Proof.Machine

/-- Why an execution in the sequencer does not complete. -/
inductive VStop where
  /-- A deferred-precise trap: cause and DETAIL. -/
  | trap (code detail : Nat)
  /-- The sequencer waits. -/
  | hold
  /-- The sequencer waits, with a request sent or a miss reported. -/
  | wait (s : State)
  /-- The firmware ends the launch: a refused shared access or a machine check. -/
  | fatal (x : Trap)
  deriving DecidableEq, Repr

/-- Illegal operand in the sequencer. -/
def vIllegal {α : Type} : Except VStop α := .error (.trap 0x02 0)

/-! ### Places -/

/-- Where an element lies. -/
inductive Place where
  | self (a : Nat)
  | page (a : Nat) (en : Entry)
  | remote (dst off : Nat)
  deriving DecidableEq, Repr

/-- Address of the instruction that the sequencer of the slot executes next. -/
def State.seqPc (s : State) : VAddr :=
  match s.me.seq with
  | .op e :: _ => e.pc
  | .loop b _ n :: _ => ((b[n]?).map (·.pc)).getD s.me.pc
  | .mark _ _ :: _ => s.me.pc
  | [] => s.me.pc

/-- A miss of the sequencer: reported, and the slot waits (07 R146); what its integer pipe waits for stays. -/
def State.vMiss (s : State) (e : Nat) (write : Bool) : State :=
  let c := s.cur.core
  let s1 : State := { s with misses := s.misses ++ [⟨.vector c s.cur.slot.val, s.claimId c, e, write, s.seqPc⟩] }
  s1.modMe (fun t => { t with vmiss := true })

/-- The checks of 22 R387 on one element of `n` bytes, after those of its address. An element of a stream takes them too: in
any other row it is an illegal operand, and not the protection trap of 07 R132 (log 114, the model's choice). -/
def State.vResolve (s : State) (e n : Nat) (write : Bool) : Except VStop (Place × State) :=
  let c := s.cur.core
  let detail := if write then 1 else 0
  match rowFor e n with
  | .self =>
    if !(s.isFw c || s.myCore.grants (localNeeds (!write) write) e n) then .error (.trap 0x04 detail)
    else if s.selfHeld (sram c e) n (!write) write then .error .hold
    else .ok (.self (sram c e), s)
  | .claim =>
    match s.sliceCore c e with
    | none => .error (.trap 0x04 detail)
    | some d =>
      if write && s.me.bufferMeets (sram d (sliceOff e)) n then .error .hold
      else .ok (.remote d (sliceOff e), s)
  | .page =>
    match s.translate c (s.claimId c) e with
    | (none, _) =>
      match s.walkPoison (s.claimId c) e with
      | some w =>
        (match (machineCheck w : Except Stop Unit) with
         | .error (.trap x) => .error (.fatal x)
         | _ => .error .hold)
      | none => .error (.wait (s.vMiss e write))
    | (some en, s1) =>
      if !entOk en || s1.peerDown en then .error (.fatal ⟨0x05, 0, word e⟩)
      else if (if write then entW en else entR en) then
        (if !write && s1.narrowHeld (entPhys en e) n then .error .hold else .ok (.page (entPhys en e) en, s1))
      else .error (.trap 0x04 detail)
  | .unit => vIllegal
  | .engine => vIllegal
  | .device => vIllegal
  | .firmware => vIllegal
  | .unmapped => vIllegal

/-- The checks on a list of elements, in order. -/
def State.vResolveAll (s : State) (write : Bool) : List (Nat × Nat) → Except VStop (List (Nat × Nat × Place) × State)
  | [] => .ok ([], s)
  | (e, n) :: l => do
    let (p, s1) ← s.vResolve e n write
    let (ps, s2) ← s1.vResolveAll write l
    .ok ((e, n, p) :: ps, s2)

/-- HBM accesses of 64 bytes that the elements make, each block once (07 R149). -/
def State.countAll (s : State) (write : Bool) : List Nat → List (Nat × Nat × Place) → State
  | _, [] => s
  | seen, (e, _, p) :: l =>
    match p with
    | .page _ en =>
      if seen.contains (e / 64) then s.countAll write seen l
      else (s.countAccess en e write).countAll write (e / 64 :: seen) l
    | .self _ => s.countAll write seen l
    | .remote _ _ => s.countAll write seen l

/-! ### Reads -/

/-- A read of the sequencer that an access of the integer pipe would make too: its machine check ends the launch. -/
def vLift {α : Type} (x : Except Stop α) : Except VStop α :=
  match x with
  | .ok a => .ok a
  | .error (.trap t) => .error (.fatal t)
  | .error (.fatal t) => .error (.fatal t)
  | .error .hold => .error .hold
  | .error (.held _) => .error .hold
  | .error (.sent _) => .error .hold

/-- A machine check at a word. -/
def State.vEcc (s : State) (a n : Nat) : Except VStop Unit := vLift (s.checkSeen a n)

/-- The bytes of a range that a vector load does not take from memory. -/
def State.knownCells (s : State) (a n : Nat) : List Host.Cell :=
  (List.range n).filterMap (fun i => (s.vectorKnown (a + i)).map (fun b => (a + i, b)))

/-- Bytes that have arrived for the vector instruction. -/
def VWait.bytes (x : VWait) (a n : Nat) : Option (List Byte) :=
  (List.range n).mapM (fun i => find? (a + i) x.got)

/-- The bytes of one aligned word of a core that the remote elements among `l` lie in. -/
def spanIn (dst w : Nat) (l : List (Nat × Nat × Place)) : Nat × Nat :=
  l.foldl
    (fun a x =>
      match x.2.2 with
      | .remote d o => if d = dst ∧ wordAddr o = w then (min a.1 o, max a.2 (o + x.2.1)) else a
      | .self _ => a
      | .page _ _ => a)
    (w + 8, w)

/-- One element read: its own SRAM or a page now; a remote element when its word has arrived, which is asked for once. -/
def State.vReadOne (s : State) (all : List (Nat × Nat × Place)) (n : Nat) (p : Place) :
    Except VStop (List Byte × State) :=
  match p with
  | .self a => do
    s.vEcc a n
    .ok (s.vectorRead a n)
  | .page a _ =>
    match s.residentOf s.cur.core with
    | some l =>
      if l.det then vLift (s.sharedRead l a n)
      else do
        s.vEcc a n
        .ok (s.vectorRead a n)
    | none => do
      s.vEcc a n
      .ok (s.vectorRead a n)
  | .remote d o =>
    if s.isDet s.cur.core then
      match s.residentOf s.cur.core with
      | some l =>
        if s.remoteOk l.claim d o (.load n) then vLift (s.sharedRead l (sram d o) n)
        else .error (.fatal ⟨0x04, 0, word d⟩)
      | none => .error .hold
    else
      match s.me.vwait.bytes (sram d o) n with
      | some bs => .ok (bs, s.forgetEarly (sram d o) n)
      | none =>
        let (lo, hi) := spanIn d (wordAddr o) all
        if s.me.vwait.pending ≠ 0 then .error .hold
        else if (s.knownCells (sram d o) n).length = n && s.remoteOk (s.claimId s.cur.core) d o (.load n) then
          .ok (s.vectorRead (sram d o) n)
        else if s.ownUpdate s.cur.core s.cur.slot.val (sram d lo) (hi - lo) then .error .hold
        else
          let s1 := s.sendRemote s.seqPc d lo (.load (hi - lo)) .vector
          .error (.wait (s1.modMe (fun t =>
            { t with
              vwait := { t.vwait with
                sent := true, pending := 1, got := t.vwait.got ++ s.knownCells (sram d lo) (hi - lo) } })))

/-- Elements read, in order. -/
def State.vReadPlaces (s : State) (all : List (Nat × Nat × Place)) : List (Nat × Nat × Place) →
    Except VStop (List (List Byte) × State)
  | [] => .ok ([], s)
  | (_, n, p) :: l => do
    let (b, s1) ← s.vReadOne all n p
    let (bs, s2) ← s1.vReadPlaces all l
    .ok (b :: bs, s2)

/-- Elements checked and read. -/
def State.vRead (s : State) (es : List (Nat × Nat)) : Except VStop (List (List Byte) × State) := do
  let (ps, s1) ← s.vResolveAll false es
  let (bs, s2) ← s1.vReadPlaces ps ps
  .ok (bs, s2.countAll false [] ps)

/-! ### Writes -/

/-- The place of an address whose checks have passed. -/
def State.placeOf (s : State) (e : Nat) : Place :=
  let c := s.cur.core
  match rowAt e with
  | .claim => .remote ((s.sliceCore c e).getD c) (sliceOff e)
  | .page =>
    match s.translate c (s.claimId c) e with
    | (some en, _) => .page (entPhys en e) en
    | (none, _) => .self (sram c (e % 2 ^ 20))
  | .self => .self (sram c e)
  | .unit => .self (sram c (e % 2 ^ 20)) | .engine => .self (sram c (e % 2 ^ 20))
  | .device => .self (sram c (e % 2 ^ 20)) | .firmware => .self (sram c (e % 2 ^ 20))
  | .unmapped => .self (sram c (e % 2 ^ 20))

/-- The bytes of cells that lie in one aligned word, as the word and the mask of its bytes. -/
def wordOfCells (cs : List (Nat × Byte)) : BitVec 8 × Word :=
  cs.foldl (fun p c => (p.1 ||| BitVec.ofNat 8 (2 ^ (c.1 % 8)), p.2 ||| word (c.2.toNat * 2 ^ (8 * (c.1 % 8))))) (0, 0)

/-- The store of cells that lie in one aligned word: of consecutive bytes, or of the bytes a mask names. -/
def storeOfCells (cs : List (Nat × Byte)) : Nat × Req :=
  match wordRuns cs with
  | [(a, bs)] => (a, .store bs.length (word (leNat bs)))
  | _ => (wordAddr (((cs.head?).map (·.1)).getD 0), .masked (wordOfCells cs).1 (wordOfCells cs).2)

/-- The bytes of one word of a vector store, at virtual addresses: one write, whichever lanes are active (08 R151). `st` is
the write stream that they are elements of. -/
def State.vWriteWord (st : Option Nat) (s : State) (cs : List (Nat × Byte)) : State :=
  let c := s.cur.core
  let e := ((cs.head?).map (·.1)).getD 0
  let shift (a : Nat) : List (Nat × Byte) := cs.map (fun x => (x.1 + a - e, x.2))
  let shared (l : Launch) (a : Nat) : State :=
    match storeOfCells (shift a) with
    | (a, .store n w) => s.sharedWrite l c a n w false
    | (a, _) => s.buffered l c
        ⟨s.logical c, a, 8, (wordOfCells (shift a)).2, false, (wordOfCells (shift a)).1, s.seqPc⟩
  match s.placeOf e with
  | .self a => s.vectorStore (shift a) st
  | .page a _ =>
    match s.residentOf c with
    | some l => if l.det then shared l a else s.vectorStore (shift a) st
    | none => s.vectorStore (shift a) st
  | .remote d o =>
    let r := storeOfCells (shift o)
    let send := (cs.foldl (fun t x => t.forgetEarly (sram d o + x.1 - e) 1) s).sendVector d r.1 r.2 s.seqPc st
    match s.residentOf c with
    | some l => if l.det then shared l (sram d o) else send
    | none => send

/-- Elements as cells, rising by address, the last of equal addresses kept. -/
def cellsOf (es : List (Nat × List Byte)) : List (Nat × Byte) :=
  es.foldl (fun m x => (List.range x.2.length).foldl (fun m i => insertKey (x.1 + i) (x.2[i]?.getD 0) m) m) []

/-- Elements written whose checks have passed. -/
def State.vWriteRuns (s : State) (es : List (Nat × List Byte)) (st : Option Nat := none) : State :=
  (byWord (cellsOf es)).foldl (State.vWriteWord st) s

/-- Checks on the elements to be written; a deterministic launch finds a refusal at once. -/
def State.vCheckWrites (s : State) (es : List (Nat × Nat)) : Except VStop State := do
  let (ps, s1) ← s.vResolveAll true es
  let bad := ps.find? (fun x =>
    match x.2.2 with
    | .remote d o => s.isDet s.cur.core && !s.remoteOk (s.claimId s.cur.core) d o (.store x.2.1 0)
    | .self _ => false
    | .page _ _ => false)
  match bad with
  | some (_, _, .remote d _) => .error (.fatal ⟨0x04, 1, word d⟩)
  | some (_, _, .self _) => .ok s1
  | some (_, _, .page _ _) => .ok s1
  | none => .ok (s1.countAll true [] ps)

/-! ### Vector registers -/

/-- Lane `i` of `w` bits. -/
def laneAt (v : Vec) (w i : Nat) : Nat := v.toNat / 2 ^ (w * i) % 2 ^ w

/-- The lanes of a register. -/
def lanesOf (v : Vec) (t : LaneType) : List Nat := (List.range t.lanes).map (laneAt v t.width)

/-- A register of lanes. -/
def vecOf (w : Nat) (l : List Nat) : Vec :=
  BitVec.ofNat 512 (l.foldr (fun x acc => x % 2 ^ w + 2 ^ w * acc) 0)

/-- The mask of an instruction: every lane, or those of k[x]. -/
def Slot.maskOf (t : Slot) (x : KReg) : Nat → Bool := fun i => if x = 0 then true else (vget t.k x.val 0).getLsbD i

/-- The stream bound to a vector register, if any. -/
def Slot.bound (t : Slot) (v : VReg) : Option Stream :=
  if v.val < 4 then
    let x := vget t.streams v.val Stream.reset
    if x.en then some x else none
  else none

/-- Width in bytes of a stream's lanes. -/
def Stream.bytes (x : Stream) : Nat :=
  match x.lane with
  | 0 => 4 | 1 => 2 | 2 => 2 | 3 => 4 | 4 => 2 | 5 => 1 | _ => 8

/-- Address of element `j` of a stream (09 R179); none outside the 48-bit map. -/
def Stream.elem (x : Stream) (j : Nat) : Option Nat :=
  let b0 := recField x.desc 8 4
  let b1 := recField x.desc 12 4
  let a : Int := (fatVa (recWord x.desc 0) : Int) + (j % b0 : Nat) * recSigned x.desc 20 4 +
    (j / b0 % b1 : Nat) * recSigned x.desc 24 4 + (j / b0 / b1 : Nat) * recSigned x.desc 28 4
  if a < 0 ∨ 2 ^ 48 ≤ a then none else some a.toNat

/-- Elements of a stream from its position on, at most `n`. -/
def Stream.elems (x : Stream) (n : Nat) : Except VStop (List (Nat × Nat)) :=
  (List.range (min n (x.total - x.pos))).mapM (fun j =>
    match x.elem (x.pos + j) with
    | some a => .ok (a, x.bytes)
    | none => .error (.trap 0x03 0))

/-- A slot with a stream replaced. -/
def Slot.setStream (t : Slot) (n : Nat) (x : Stream) : Slot := { t with streams := vset t.streams n x }

/-- Elements of a read stream: those read early, and the others read now, each checked (09 R180, 08 R158). -/
def State.vStreamRead (s : State) (x : Stream) (es : List (Nat × Nat)) : Except VStop (List Nat × State) :=
  if x.early.isEmpty then do
    let (bs, s1) ← s.vRead es
    .ok (bs.map leNat, s1)
  else do
    let js := (es.zip (List.range es.length)).map (fun p => (p.1, find? (x.pos + p.2) x.early))
    let (bs, s1) ← s.vRead ((js.filter (fun p => p.2.isNone)).map (·.1))
    .ok ((js.foldl
      (fun (a : List Nat × List (List Byte)) p =>
        match p.2 with
        | some v => (a.1 ++ [v], a.2)
        | none => (a.1 ++ [leNat (a.2.headD [])], a.2.drop 1))
      ([], bs)).1, s1)

/-- A source field read as lanes of type `t`: a register, or the next elements of the read stream bound to it. -/
def State.vSource (s : State) (v : VReg) (t : LaneType) : Except VStop (Vec × State) :=
  match s.me.bound v with
  | none => .ok (vget s.me.v v.val 0, s)
  | some x =>
    if x.writes || 8 * x.bytes != t.width then vIllegal
    else if x.total ≤ x.pos then .error (.trap 0x0B v.val)
    else do
      let es ← x.elems t.lanes
      let (bs, s1) ← s.vStreamRead x es
      let pos := min x.total (x.pos + t.lanes)
      .ok (vecOf t.width bs,
        s1.modMe (fun y => y.setStream v.val { x with pos, early := x.early.filter (fun p => decide (pos ≤ p.1)) }))

/-- An element of a stream as a relaxed load of the slot finds it now; none where it raises something. A remote one is read
at its receiver, if that allows it and is powered. -/
def State.streamPeek (s : State) (n : Nat) (p : Place) : Option Nat :=
  match p with
  | .self _ => (s.vReadOne [] n p).toOption.map (fun r => leNat r.1)
  | .page _ _ => (s.vReadOne [] n p).toOption.map (fun r => leNat r.1)
  | .remote d o =>
    let a := sram d o
    if s.remoteOk (s.claimId s.cur.core) d o (.load n) && !s.poisonedIn a n && !s.gated.contains (clusterOf d) &&
        !s.ownUpdate s.cur.core s.cur.slot.val a n && !s.narrowHeld a n then
      some (leNat ((List.range n).map (fun i => s.vectorByte (a + i))))
    else none

/-- Read stream `n` of the slot of the step reads its element `j` early, where that raises nothing (08 R158). -/
def State.streamAheadAt (s : State) (n : Fin 4) (j : Nat) : State :=
  let x := vget s.me.streams n.val Stream.reset
  if x.en && !x.writes && !s.isDet s.cur.core && decide (x.pos ≤ j) && decide (j < x.total) then
    match x.elem j with
    | some a =>
      (match s.vResolveAll false [(a, x.bytes)] with
       | .ok ([(_, _, p)], _) =>
         (match s.streamPeek x.bytes p with
          | some v => s.modMe (fun y => y.setStream n.val { x with early := insertKey j v x.early })
          | none => s)
       | .ok _ => s
       | .error _ => s)
    | none => s
  else s

/-- Source fields read, in order. -/
def State.vSources (s : State) : List (VReg × LaneType) → Except VStop (List Vec × State)
  | [] => .ok ([], s)
  | (v, t) :: l => do
    let (x, s1) ← s.vSource v t
    let (xs, s2) ← s1.vSources l
    .ok (x :: xs, s2)

/-- The checks on a destination field (09 R180): where its lanes go, none for a plain register. Each element within the push
is reached, and has its address formed, one of an inactive lane too (log 116, the model's choice). -/
def State.vDest (s : State) (v : VReg) (t : LaneType) (act : Nat → Bool) :
    Except VStop (Option (List (Nat × Nat × Nat)) × State) :=
  match s.me.bound v with
  | none => .ok (none, s)
  | some x =>
    if !x.writes || 8 * x.bytes != t.width then vIllegal
    else if x.total ≤ x.pos then .error (.trap 0x0B v.val)
    else do
      let es ← x.elems t.lanes
      let act := (es.zip (List.range es.length)).filter (fun y => act y.2)
      let s1 ← s.vCheckWrites (act.map (·.1))
      .ok (some (act.map (fun y => (y.2, y.1.1, y.1.2))), s1)

/-- The lanes written into a destination: active lanes of a register, or elements of a write stream, which advances by
the lane count. -/
def State.vWriteLanes (s : State) (v : VReg) (t : LaneType) (place : Option (List (Nat × Nat × Nat)))
    (act : Nat → Bool) (new : List Nat) : State :=
  match place with
  | none =>
    let old := lanesOf (vget s.me.v v.val 0) t
    let out := (List.range t.lanes).map (fun i => if act i then new[i]?.getD 0 else old[i]?.getD 0)
    s.modMe (fun y => { y with v := vset y.v v.val (vecOf t.width out) })
  | some es =>
    let s1 := s.vWriteRuns (es.map (fun y => (y.2.1, leBytes y.2.2 (new[y.1]?.getD 0)))) (some v.val)
    s1.modMe (fun y =>
      let x := vget y.streams v.val Stream.reset
      y.setStream v.val { x with pos := min x.total (x.pos + t.lanes) })

end Sys2Proof.Machine
end

