-- ==== Sys2Proof/Machine/Vector.lean ====
section
/-! DEFINITION. What the sequencer does with one vector or mask instruction (22 R386-R406, 20 R325, R333, 05 R100,
R111). -/

namespace Sys2Proof.Machine

/-- The state after an execution and the flags it raised. -/
abbrev VRes := Except VStop (State × Flags)

/-- The slot's rounding mode. -/
def State.rm (s : State) : Rounding := roundingOf s.me.rm

/-- A g operand at execution: the value read at dispatch, or q5's oldest element, waited for. -/
def State.vOperand (s : State) (r : GReg) (e : VEntry) : Except VStop (Word × State) :=
  if r.val = 29 then
    match s.myCore.port 5 with
    | w :: _ => .ok (w, s.modMyCore (fun x => x.popped 5))
    | [] => .error .hold
  else .ok (e.g, s)

/-- Room in q6, waited for (09 R183). -/
def State.q6Room (s : State) : Except VStop Unit :=
  if s.myCore.inUse 6 < portDepth 6 then .ok () else .error .hold

/-- A push to q6. -/
def State.pushQ6 (s : State) (w : Word) : State := s.modMyCore (fun x => x.setPort 6 (x.port 6 ++ [w]))

/-- Lane results with their flags, the active lanes only. -/
def lanesBy (t : LaneType) (act : Nat → Bool) (f : Nat → Nat × Flags) : List Nat × Flags :=
  unzipFlags ((List.range t.lanes).map (fun i => if act i then f i else (0, 0)))

/-- Element `i` of a list of lanes. -/
def nth (l : List Nat) (i : Nat) : Nat := l[i]?.getD 0

/-! ### Lane functions (05 R100) -/

/-- A lane operation: rounded in a float lane type, modulo 2^w in an integer one. -/
def laneOp (ff : Rounding → Num → Num → Num × Flags) (fi : Int → Int → Int) (rm : Rounding) (t : LaneType)
    (x y : Nat) : Nat × Flags :=
  match laneFmt t with
  | some f => f.finish rm (ff rm (f.read x) (f.read y))
  | none => (codeOfInt t.width (fi (readInt t.width x) (readInt t.width y)), 0)

/-- VADD. -/
def laneAdd : Rounding → LaneType → Nat → Nat → Nat × Flags := laneOp Num.add (fun x y => x + y)
/-- VSUB. -/
def laneSub : Rounding → LaneType → Nat → Nat → Nat × Flags := laneOp Num.sub (fun x y => x - y)
/-- VMUL. -/
def laneMul : Rounding → LaneType → Nat → Nat → Nat × Flags := laneOp (fun _ => Num.mul) (fun x y => x * y)

/-- One of two lanes by order; a NaN gives the canonical NaN. -/
def lanePick (first : Num → Num → Bool) (firstI : Int → Int → Bool) (t : LaneType) (x y : Nat) : Nat × Flags :=
  match laneFmt t with
  | some f =>
    let a := f.read x
    let b := f.read y
    if a.isNan || b.isNan then (f.nanCode, a.sigNV ||| b.sigNV) else (if first a b then x else y, 0)
  | none => (if firstI (readInt t.width x) (readInt t.width y) then x else y, 0)

/-- VMIN. -/
def laneMin (_ : Rounding) (t : LaneType) (x y : Nat) : Nat × Flags :=
  lanePick (fun a b => !b.below a) (fun a b => decide (a ≤ b)) t x y
/-- VMAX. -/
def laneMax (_ : Rounding) (t : LaneType) (x y : Nat) : Nat × Flags :=
  lanePick (fun a b => !a.below b) (fun a b => decide (b ≤ a)) t x y

/-- VAND, VOR, VXOR: bit patterns. -/
def laneBits (f : Nat → Nat → Nat) (_ : Rounding) (_ : LaneType) (x y : Nat) : Nat × Flags := (f x y, 0)
/-- VSHL. -/
def laneShl (_ : Rounding) (t : LaneType) (x y : Nat) : Nat × Flags := (x * 2 ^ (y % t.width) % 2 ^ t.width, 0)
/-- VSHR. -/
def laneShr (_ : Rounding) (t : LaneType) (x y : Nat) : Nat × Flags := (x / 2 ^ (y % t.width), 0)

/-- VABS and VNEG: the sign alone, NaN canonical (22 R388). -/
def laneSign (abs : Bool) (t : LaneType) (x : Nat) : Nat × Flags :=
  let sb := 2 ^ (t.width - 1)
  match laneFmt t with
  | some f =>
    let a := f.read x
    if a.isNan then (f.nanCode, a.sigNV) else (if abs then x % sb else (x + sb) % (2 * sb), 0)
  | none =>
    let v := readInt t.width x
    (codeOfInt t.width (if abs then (v.natAbs : Int) else -v), 0)

/-- VFMA (22 R398). -/
def laneFma (rm : Rounding) (t : LaneType) (x y z : Nat) : Nat × Flags :=
  match laneFmt t with
  | some f => f.finish rm (Num.fma rm (f.read x) (f.read y) (f.read z))
  | none => (codeOfInt t.width (readInt t.width x * readInt t.width y + readInt t.width z), 0)

/-- Comparisons (22 R394). -/
inductive Cmp where
  | lt | le | eq
  deriving DecidableEq, Repr

/-- The relation on numbers that are not NaN. -/
def Cmp.num (c : Cmp) (x y : Num) : Bool :=
  match c with
  | .lt => x.lt y | .le => !y.lt x | .eq => !x.lt y && !y.lt x

/-- The relation on integers. -/
def Cmp.int (c : Cmp) (x y : Int) : Bool :=
  match c with
  | .lt => decide (x < y) | .le => decide (x ≤ y) | .eq => decide (x = y)

/-- A comparison of two lanes. -/
def laneCmp (c : Cmp) (t : LaneType) (x y : Nat) : Bool × Flags :=
  match laneFmt t with
  | some f =>
    let a := f.read x
    let b := f.read y
    if a.isNan || b.isNan then (false, if c = .eq then a.sigNV ||| b.sigNV else flagNV) else (c.num a b, 0)
  | none => (c.int (readInt t.width x) (readInt t.width y), 0)

/-! ### Executions over lanes -/

/-- Two sources into a register (22 R389): v[a], v[b], or v[b], v[c] and a mask with OPB. A bound v[a] that is both is an
illegal operand whatever its stream (09 R180). -/
def State.vBinary (s : State) (f : Rounding → LaneType → Nat → Nat → Nat × Flags) (a b : VReg) (c : Option Third)
    (t : LaneType) : VRes := do
  if c.isNone && (s.me.bound a).isSome then vIllegal
  let act := s.me.maskOf ((c.map (·.mask)).getD 0)
  let (x, y, s1) ← (match c with
    | none => do
      let (y, s1) ← s.vSource b t
      let (x, s2) ← s1.vSource a t
      .ok (x, y, s2)
    | some r => do
      let (x, s1) ← s.vSource b t
      let (y, s2) ← s1.vSource r.reg t
      .ok (x, y, s2) : Except VStop (Vec × Vec × State))
  let (p, s2) ← s1.vDest a t act
  let (l, g) := lanesBy t act (fun i => f s.rm t (laneAt x t.width i) (laneAt y t.width i))
  .ok (s2.vWriteLanes a t p act l, g)

/-- One source into a register. -/
def State.vUnary (s : State) (f : Nat → Nat × Flags) (a b : VReg) (x : KReg) (t : LaneType) : VRes := do
  let act := s.me.maskOf x
  let (v, s1) ← s.vSource b t
  let (p, s2) ← s1.vDest a t act
  let (l, g) := lanesBy t act (fun i => f (laneAt v t.width i))
  .ok (s2.vWriteLanes a t p act l, g)

/-- VEXP, VLN, VRCP, VRSQ. -/
def State.vFunction (s : State) (f : FloatFmt → Rounding → Nat → Nat × Flags) (a b : VReg) (x : KReg)
    (t : LaneType) : VRes :=
  match laneFmt t with
  | some m => s.vUnary (f m s.rm) a b x t
  | none => vIllegal

/-- VFMA: sources in the order B, C, A (09 R180). Where A names an exhausted read stream the overrun comes before the
illegal operand of a destination that is a read stream (log 115, the model's choice). -/
def State.vFma (s : State) (a b c : VReg) (x : KReg) (t : LaneType) : VRes := do
  let act := s.me.maskOf x
  let (y, s1) ← s.vSource b t
  let (z, s2) ← s1.vSource c t
  let (w, s3) ← s2.vSource a t
  let (p, s4) ← s3.vDest a t act
  let (l, g) := lanesBy t act (fun i => laneFma s.rm t (laneAt y t.width i) (laneAt z t.width i) (laneAt w t.width i))
  .ok (s4.vWriteLanes a t p act l, g)

/-- A mask register written. -/
def State.setK (s : State) (k : KReg) (w : Word) : State := s.modMe (fun y => { y with k := vset y.k k.val w })

/-- VCLT, VCLE, VCEQ. -/
def State.vCompare (s : State) (c : Cmp) (a : KReg) (b d : VReg) (x : KReg) (t : LaneType) : VRes := do
  let act := s.me.maskOf x
  let (y, s1) ← s.vSource b t
  let (z, s2) ← s1.vSource d t
  let rs := (List.range t.lanes).map (fun i =>
    if act i then laneCmp c t (laneAt y t.width i) (laneAt z t.width i)
    else ((vget s.me.k a.val 0).getLsbD i, 0))
  let w := (List.range t.lanes).map (fun i => if (rs[i]?.getD (false, 0)).1 then 2 ^ i else 0)
  .ok (s2.setK a (word w.sum), orFlags (rs.map (·.2)))

/-- VSEL: every lane is written. -/
def State.vSelect (s : State) (a b c : VReg) (x : KReg) (t : LaneType) : VRes := do
  let act := s.me.maskOf x
  let (y, s1) ← s.vSource b t
  let (z, s2) ← s1.vSource c t
  let (p, s3) ← s2.vDest a t (fun _ => true)
  let l := (List.range t.lanes).map (fun i => if act i then laneAt y t.width i else laneAt z t.width i)
  .ok (s3.vWriteLanes a t p (fun _ => true) l, 0)

/-- VBCAST. -/
def State.vBroadcast (s : State) (e : VEntry) (a : VReg) (b : GReg) (t : LaneType) : VRes := do
  let (w, s1) ← s.vOperand b e
  let (p, s2) ← s1.vDest a t (fun _ => true)
  .ok (s2.vWriteLanes a t p (fun _ => true) (List.replicate t.lanes (w.toNat % 2 ^ t.width)), 0)

/-- VMOVV: one lane of v[a]; the others keep their bits. -/
def State.vInsert (s : State) (e : VEntry) (a : VReg) (b : GReg) (n : Nat) (t : LaneType) : VRes := do
  let (w, s1) ← s.vOperand b e
  let (p, s2) ← s1.vDest a t (fun _ => true)
  let l := (lanesOf (vget s.me.v a.val 0) t).set n (w.toNat % 2 ^ t.width)
  .ok (s2.vWriteLanes a t p (fun _ => true) l, 0)

/-- The value of a lane as VMOVG reads it. -/
def State.vLane (s : State) (b : VReg) (n : Nat) (t : LaneType) : Except VStop (Word × State) := do
  let (v, s1) ← s.vSource b t
  let x := laneAt v t.width n
  .ok (if t.isFloat then word x else wordOfInt (readInt t.width x), s1)

/-- VMOVG from the replay queue: a lane to g[a]; q5 as its destination is refused here (03 R56). -/
def State.vExtract (s : State) (a : GReg) (b : VReg) (n : Nat) (t : LaneType) : VRes := do
  if a.val = 29 then vIllegal
  let (w, s1) ← s.vLane b n t
  match s1.writeG a w with
  | .ok s2 => .ok (s2, 0)
  | .error (.trap z) => .error (.trap z.code z.detail)
  | .error _ => .error .hold

/-- VPACK. -/
def State.vPack (s : State) (a b : VReg) (x : KReg) (t : LaneType) : VRes := do
  s.q6Room
  let act := s.me.maskOf x
  let (v, s1) ← s.vSource b t
  let (p, s2) ← s1.vDest a t (fun _ => true)
  let l := ((List.range t.lanes).filter act).map (laneAt v t.width)
  .ok ((s2.vWriteLanes a t p (fun _ => true) l).pushQ6 (word l.length), 0)

/-- Magnitude rank of VCMPK: the first lane goes ahead of the second (22 R395). -/
def magAhead (t : LaneType) (x y : Nat) : Bool :=
  match laneFmt t with
  | some f =>
    let a := (f.read x).abs
    let b := (f.read y).abs
    if a.isNan then !b.isNan else if b.isNan then false else b.lt a
  | none => decide ((readInt t.width y).natAbs < (readInt t.width x).natAbs)

/-- The two lanes of a group of four that VCMPK keeps. -/
def keptTwo (t : LaneType) (l : List Nat) : Nat × Nat :=
  let ahead (p q : Nat) : Bool := magAhead t (nth l p) (nth l q) || (!magAhead t (nth l q) (nth l p) && decide (p < q))
  let ps := (List.range 4).filter (fun p => ((List.range 4).filter (fun q => q != p && ahead q p)).length < 2)
  (ps.headD 0, (ps.drop 1).headD 1)

/-- VCMPK. -/
def State.vCompact (s : State) (a b : VReg) (x : KReg) (t : LaneType) : VRes := do
  s.q6Room
  let act := s.me.maskOf x
  let (v, s1) ← s.vSource b t
  let (p, s2) ← s1.vDest a t (fun _ => true)
  let groups := (List.range (t.lanes / 4)).map (fun j =>
    let l := (List.range 4).map (fun q => if act (4 * j + q) then laneAt v t.width (4 * j + q) else 0)
    (l, keptTwo t l))
  let out := groups.flatMap (fun g => [nth g.1 g.2.1, nth g.1 g.2.2])
  let info := ((List.range groups.length).map (fun j =>
    match groups[j]? with
    | some g => (4 * g.2.2 + g.2.1) * 2 ^ (4 * j)
    | none => 0)).sum
  .ok ((s2.vWriteLanes a t p (fun _ => true) out).pushQ6 (word info), 0)

/-- Format in which a reduction sums or pushes: fp64 for fp64 lanes, else fp32 (05 R111). -/
def sumFmt (t : LaneType) : FloatFmt := if t = .fp64 then fp64Fmt else fp32Fmt

/-- VRSUM's value (05 R111, R115). -/
def rsumOf (rm : Rounding) (t : LaneType) (act : Nat → Bool) (v : Vec) : Word × Flags :=
  match laneFmt t with
  | some f =>
    if (List.range t.lanes).any act then
      let z : Num := .fin true 0 0
      let leaves := (List.range t.lanes).map (fun i => (if act i then f.read (laneAt v t.width i) else z, (0 : Flags)))
      let m := sumFmt t
      let r := treeSum
        (fun p q =>
          let (c, g) := m.finish rm (Num.add rm p.1 q.1)
          (m.read c, p.2 ||| q.2 ||| g))
        (z, 0) (Nat.log2 t.lanes) leaves
      (word (m.encode rm r.1).1, r.2)
    else (0, 0)
  | none =>
    (((List.range t.lanes).map (fun i =>
      if act i then wordOfInt (readInt t.width (laneAt v t.width i)) else 0)).foldl (· + ·) 0, 0)

/-- Lowest index of a largest active lane: a NaN ranks above every number (22 R392). -/
def largest (t : LaneType) (act : Nat → Bool) (v : Vec) : Option Nat :=
  let above (i j : Nat) : Bool :=
    let x := laneAt v t.width i
    let y := laneAt v t.width j
    match laneFmt t with
    | some f => if (f.read y).isNan then false else (f.read x).isNan || (f.read y).below (f.read x)
    | none => decide (readInt t.width y < readInt t.width x)
  ((List.range t.lanes).filter act).foldl
    (fun b i =>
      match b with
      | none => some i
      | some j => if above i j then some i else some j)
    none

/-- NV of the signalling NaNs among the active lanes. -/
def sigFlags (t : LaneType) (act : Nat → Bool) (v : Vec) : Flags :=
  match laneFmt t with
  | some f => orFlags (((List.range t.lanes).filter act).map (fun i => (f.read (laneAt v t.width i)).sigNV))
  | none => 0

/-- VRMAX's value. -/
def rmaxOf (t : LaneType) (act : Nat → Bool) (v : Vec) : Word :=
  match laneFmt t, largest t act v with
  | some f, some i => word ((sumFmt t).encode .rne (f.read (laneAt v t.width i))).1
  | some _, none => word ((sumFmt t).encode .rne (.inf true)).1
  | none, some i => wordOfInt (readInt t.width (laneAt v t.width i))
  | none, none => wordOfInt (-(2 ^ (t.width - 1)))

/-- VRSUM, VRMAX, VARGMX push one doubleword. -/
def State.vReduce (s : State) (f : (Nat → Bool) → Vec → Word × Flags) (b : VReg) (x : KReg) (t : LaneType) : VRes := do
  s.q6Room
  let (v, s1) ← s.vSource b t
  let (w, g) := f (s.me.maskOf x) v
  .ok (s1.pushQ6 w, g)

/-- VCVT (22 R396). -/
def State.vConvert (s : State) (a b : VReg) (ts : LaneType) (x : KReg) (t : LaneType) : VRes := do
  let act := s.me.maskOf x
  let (v, s1) ← s.vSource b ts
  let (p, s2) ← s1.vDest a t act
  let (l, g) := lanesBy t act (fun i =>
    if i < ts.lanes then laneEncode t s.rm (laneRead ts (laneAt v ts.width i)) else (0, 0))
  .ok (s2.vWriteLanes a t p act l, g)

/-- Seeds that the slot's instructions see. -/
def State.mySeeds (s : State) : Vector Word 16 := s.seedsOf s.cur.core

/-- VHAD and VIHAD (06 R124). -/
def State.vHadamard (s : State) (inverse : Bool) (a b : VReg) (blk : Nat) (seed : Fin 16) (x : KReg) (t : LaneType) :
    VRes := do
  if seed.val ≠ 0 ∧ seedOf s.mySeeds seed.val = 0 then .error (.trap 0x09 0)
  let act := s.me.maskOf x
  let (v, s1) ← s.vSource b t
  let (p, s2) ← s1.vDest a t act
  let int := !t.isFloat
  let w := seedOf s.mySeeds seed.val
  let (y, f) := perBlock (2 ^ (blk + 3))
    (if inverse then derotateBlock int s.rm (blk + 3) w else rotateBlock int (blk + 3) w)
    ((lanesOf v t).map (laneRead t))
  let (l, g) := lanesBy t act (fun i => laneEncode t s.rm (y[i]?.getD (.fin false 0 0)))
  .ok (s2.vWriteLanes a t p act l, f ||| g)

/-! ### Loads and stores -/

/-- Addresses of elements at byte offsets from a pointer, checked (22 R387). -/
def vAddresses (p : Word) (offs : List Int) (n : Nat) : Except VStop (List Nat) :=
  if !fatOk p then vIllegal
  else do
    let as ← offs.mapM (fun o =>
      let a : Int := (fatVa p : Int) + o
      if a < 0 ∨ 2 ^ 48 ≤ a then (.error (.trap 0x03 0) : Except VStop Nat) else .ok a.toNat)
    if as.any (fun a => a % n != 0) then vIllegal
    .ok as

/-- Active lanes of a lane type. -/
def actives (t : LaneType) (act : Nat → Bool) : List Nat := (List.range t.lanes).filter act

/-- Lanes by index from a list of pairs. -/
def fill (n : Nat) (l : List (Nat × Nat)) : List Nat := (List.range n).map (fun i => lookupD 0 i l)

/-- VLD. -/
def State.vLoad (s : State) (e : VEntry) (a : VReg) (b : GReg) (d : Int) (x : KReg) (t : LaneType) : VRes := do
  let act := s.me.maskOf x
  let is := actives t act
  let w := t.width / 8
  let (p, s1) ← s.vOperand b e
  let as ← vAddresses p (is.map (fun i => d + (i * w : Nat))) w
  let (bs, s2) ← s1.vRead (as.map (fun q => (q, w)))
  let (pl, s3) ← s2.vDest a t act
  .ok (s3.vWriteLanes a t pl act (fill t.lanes (is.zip (bs.map leNat))), 0)

/-- VST. -/
def State.vStore (s : State) (e : VEntry) (a : VReg) (b : GReg) (d : Int) (x : KReg) (t : LaneType) : VRes := do
  let is := actives t (s.me.maskOf x)
  let w := t.width / 8
  let (p, s1) ← s.vOperand b e
  let (v, s2) ← s1.vSource a t
  let as ← vAddresses p (is.map (fun i => d + (i * w : Nat))) w
  let s3 ← s2.vCheckWrites (as.map (fun q => (q, w)))
  .ok (s3.vWriteRuns (as.zip (is.map (fun i => leBytes w (laneAt v t.width i)))), 0)

/-- The state without words read ahead: the address of a gather may depend on any earlier vector load (08 R154). -/
def State.noEarly (s : State) : State :=
  if s.me.early.isEmpty then s else s.modMe (fun t => { t with early := [] })

/-- VGATH (22 R399). -/
def State.vGather (s : State) (e : VEntry) (a : VReg) (b : GReg) (c : VReg) (x : KReg) (t : LaneType) : VRes := do
  let act := s.me.maskOf x
  let is := actives t act
  let w := t.width / 8
  let (p, s1) ← s.noEarly.vOperand b e
  let (v, s2) ← s1.vSource c t
  let as ← vAddresses p (is.map (fun i => (laneAt v t.width i * w : Nat))) w
  let (bs, s3) ← s2.vRead (as.map (fun q => (q, w)))
  let (pl, s4) ← s3.vDest a t act
  .ok (s4.vWriteLanes a t pl act (fill t.lanes (is.zip (bs.map leNat))), 0)

/-- VSCAT: the highest-numbered active lane that names an element writes it. -/
def State.vScatter (s : State) (e : VEntry) (a : VReg) (b : GReg) (c : VReg) (x : KReg) (t : LaneType) : VRes := do
  let is := actives t (s.me.maskOf x)
  let w := t.width / 8
  let (p, s1) ← s.vOperand b e
  let (v, s2) ← s1.vSource c t
  let (y, s3) ← s2.vSource a t
  let as ← vAddresses p (is.map (fun i => (laneAt v t.width i * w : Nat))) w
  let s4 ← s3.vCheckWrites (as.map (fun q => (q, w)))
  .ok (s4.vWriteRuns (as.zip (is.map (fun i => leBytes w (laneAt y t.width i)))), 0)

/-- The lane type in force for VLDC: with `.raw`, i32 for sm sources and fp32 otherwise (06 R123). -/
def rawLane (f : Nat) (t : Option LaneType) : LaneType :=
  match t with
  | some t => t
  | none => if f = 8 ∨ f = 9 then .i32 else .fp32

/-- Byte offset of element `i` of a format. -/
def elemOffset (f i : Nat) : Nat := i * fmtBits f / 8
/-- Bytes in which an element of a format lies. -/
def elemBytes (f : Nat) : Nat := max 1 (fmtBits f / 8)
/-- The code of element `i` in its bytes. -/
def elemCode (f i : Nat) (bs : List Byte) : Nat :=
  if fmtBits f = 4 then leNat bs / 16 ^ (i % 2) % 16 else leNat bs

/-- The checks of 06 R118 and R120 on a tagged pointer, at the first element's address. -/
def State.vTagCheck (s : State) (p : Word) (base : Int) (t : LaneType) : Except VStop Unit :=
  let f := fatFmt p
  let b := fatBlk p
  if b = 0 then .ok ()
  else if fmtUntaggable f || decide (t.maxBlk < b) || base % (2 ^ (b + 3) * fmtBits f / 8 : Nat) != 0 then vIllegal
  else if (tagZero s.mySeeds (fatTag p)).isSome then .error (.trap 0x09 0)
  else .ok ()

/-- Formats that VLDC and VSTC name (06 R123). -/
def vFmtOk (p : Word) : Bool := fatOk p && fatFmt p != 0 && !fmtScaled (fatFmt p)

/-- The lane types that count as integer formats (06 R119). -/
def laneInt (t : LaneType) : Bool := fmtInt (fmtOfLane t)

/-- VLDC (22 R402). -/
def State.vLoadConvert (s : State) (e : VEntry) (a : VReg) (b : GReg) (d : Int) (x : KReg) (ty : Option LaneType) :
    VRes := do
  let (p, s1) ← s.vOperand b e
  if !vFmtOk p then vIllegal
  let f := fatFmt p
  let t := rawLane f ty
  let act := s.me.maskOf x
  let tagged := fatBlk p != 0 && ty.isSome
  let n := 2 ^ (fatBlk p + 3)
  let is := (List.range t.lanes).filter (fun i =>
    if tagged then (List.range n).any (fun j => decide (i / n * n + j < t.lanes) && act (i / n * n + j)) else act i)
  let as ← vAddresses p (is.map (fun i => d + (elemOffset f i : Nat))) (elemBytes f)
  if tagged then s.vTagCheck p ((fatVa p : Int) + d) t
  let (bs, s2) ← s1.vRead (as.map (fun q => (q, elemBytes f)))
  let (pl, s3) ← s2.vDest a t act
  let codes := is.zip ((is.zip bs).map (fun q => elemCode f q.1 q.2))
  let vals := codes.map (fun q => fmtRead f q.2)
  let (ys, g) :=
    if tagged then
      perBlock n (derotateBlock (laneInt t && fmtInt f) s.rm (fatBlk p + 3) (seedOf s.mySeeds (fatSeed p))) vals
    else (vals, 0)
  let byLane := is.zip ys
  let (l, h) := lanesBy t act (fun i => laneEncode t s.rm (lookupD (.fin false 0 0) i byLane))
  .ok (s3.vWriteLanes a t pl act l, g ||| h)

/-- A byte that a masked store of 4-bit elements writes: its inactive nibble keeps the value read. -/
def nibbles (old : Nat) (codes : List (Nat × Nat)) (i : Nat) : List Byte :=
  let half (j : Nat) : Nat := match find? j codes with
    | some c => c
    | none => old / 16 ^ (j % 2) % 16
  [BitVec.ofNat 8 (half (i / 2 * 2) + 16 * half (i / 2 * 2 + 1))]

/-- VSTC (22 R402, 06 R121). -/
def State.vStoreConvert (s : State) (e : VEntry) (a : VReg) (b : GReg) (d : Int) (x : KReg) (t : LaneType) : VRes := do
  let (p, s1) ← s.vOperand b e
  if !vFmtOk p then vIllegal
  let f := fatFmt p
  let act := s.me.maskOf x
  let (v, s2) ← s1.vSource a t
  let is := actives t act
  let as ← vAddresses p (is.map (fun i => d + (elemOffset f i : Nat))) (elemBytes f)
  s.vTagCheck p ((fatVa p : Int) + d) t
  let s3 ← s2.vCheckWrites (as.map (fun q => (q, elemBytes f)))
  let vals := (lanesOf v t).map (laneRead t)
  let (ys, g) :=
    if fatBlk p = 0 then (vals, 0)
    else
      perBlock (2 ^ (fatBlk p + 3))
        (rotateBlock (laneInt t && fmtInt f) (fatBlk p + 3) (seedOf s.mySeeds (fatSeed p))) vals
  let cs := is.map (fun i => (i, fmtEncode f s.rm (ys[i]?.getD (.fin false 0 0))))
  if fmtNarrow f && fatBlk p == 0 && cs.any (fun c => !fmtExact f (ys[c.1]?.getD (.fin false 0 0)) c.2.1) then
    .error (.trap 0x06 0)
  let codes := cs.map (fun c => (c.1, c.2.1))
  let h := orFlags (cs.map (fun c => c.2.2))
  if fmtBits f = 4 then
    let half := (as.zip is).filter (fun q => !is.contains (if q.2 % 2 = 0 then q.2 + 1 else q.2 - 1))
    let (olds, s4) ← s3.vReadPlaces (half.map (fun q => (q.1, 1, s3.placeOf q.1)))
      (half.map (fun q => (q.1, 1, s3.placeOf q.1)))
    let old := (half.map (·.1)).zip (olds.map leNat)
    .ok (s4.vWriteRuns ((as.zip is).map (fun q => (q.1, nibbles (lookupD 0 q.1 old) codes q.2))), g ||| h)
  else
    .ok (s3.vWriteRuns ((as.zip codes).map (fun q => (q.1, leBytes (elemBytes f) q.2.2))), g ||| h)

/-- GMASK (20 R325): 16 bits at the pointer; -infinity where a bit is 0. It reads and writes its register (09 R180), so
one bound to a stream is refused. -/
def State.vGrammarMask (s : State) (e : VEntry) (a : VReg) (b : GReg) : VRes := do
  let (p, s1) ← s.vOperand b e
  if (s.me.bound a).isSome then vIllegal
  let as ← vAddresses p [0] 2
  let (bs, s2) ← s1.vRead (as.map (fun q => (q, 2)))
  let m := (bs.map leNat).headD 0
  .ok (s2.vWriteLanes a .fp32 none (fun i => !m.testBit i) (List.replicate 16 0xFF800000), 0)

end Sys2Proof.Machine
end

