-- ==== Sys2Proof/Machine/Draw.lean ====
section
/-! DEFINITION. The arithmetic of committees: the assay expression (10 R198, 05 R114), and the draw engine's sweep, choice
and uniform sources (10 R201, R202, 05 R113). Values are fp32 codes; every rounding is RNE. -/

namespace Sys2Proof.Machine

/-! ### fp32 operations -/

/-- The code of -infinity. -/
def fNegInf : Nat := 0xFF800000
/-- The code of -0. -/
def fNegZero : Nat := 0x80000000
/-- A code's number. -/
def f32 (x : Nat) : Num := fp32Fmt.read x
/-- x + y. -/
def fAdd (x y : Nat) : Nat := (fp32Fmt.finish .rne (Num.add .rne (f32 x) (f32 y))).1
/-- x - y. -/
def fSub (x y : Nat) : Nat := (fp32Fmt.finish .rne (Num.sub .rne (f32 x) (f32 y))).1
/-- x times y. -/
def fMul (x y : Nat) : Nat := (fp32Fmt.finish .rne (Num.mul (f32 x) (f32 y))).1
/-- The larger (05 R100). -/
def fMax (x y : Nat) : Nat := (laneMax .rne .fp32 x y).1
/-- The smaller. -/
def fMin (x y : Nat) : Nat := (laneMin .rne .fp32 x y).1
/-- -x. -/
def fNeg (x : Nat) : Nat := (laneSign false .fp32 x).1
/-- VEXP.fp32. -/
def fExp (x : Nat) : Nat := (fp32Fmt.exp .rne x).1
/-- VLN.fp32. -/
def fLn (x : Nat) : Nat := (fp32Fmt.ln .rne x).1
/-- x is below y. -/
def fLt (x y : Nat) : Bool := !(f32 x).isNan && !(f32 y).isNan && (f32 x).lt (f32 y)
/-- x is at least y. -/
def fGe (x y : Nat) : Bool := !(f32 x).isNan && !(f32 y).isNan && !(f32 x).lt (f32 y)
/-- x is zero of either sign. -/
def fZero (x : Nat) : Bool := (f32 x).isZero

/-- The quotient of two finite numbers, exact up to a sticky bit; 0/0 is invalid. -/
def divNum : Num → Num → Num
  | .fin s m e, .fin t n f =>
    if n = 0 then (if m = 0 then .nan false else .inf (s != t))
    else
      let k := Nat.log2 n + 130
      .fin (s != t) (2 * (m * 2 ^ k / n) + (if m * 2 ^ k % n = 0 then 0 else 1)) (e - f - k - 1)
  | .fin s _ _, .inf t => .fin (s != t) 0 0
  | .inf s, .fin t _ _ => .inf (s != t)
  | .inf _, .inf _ => .nan false
  | .nan _, _ => .nan false
  | .fin _ _ _, .nan _ => .nan false
  | .inf _, .nan _ => .nan false

/-- x / y. -/
def fDiv (x y : Nat) : Nat := (fp32Fmt.encode .rne (divNum (f32 x) (f32 y))).1

/-- A fold (05 R108). -/
def fFold : List Nat → Nat
  | [] => 0
  | x :: l => l.foldl fAdd x

/-! ### The assay expression (10 R198) -/

/-- Operands that an operation takes, if it is assigned. -/
def assayArity (op : Nat) : Option Nat :=
  if 0x10 ≤ op ∧ op ≤ 0x23 then some 0
  else if op = 0x36 ∨ op = 0x37 then some 0
  else if op = 0x34 then some 1
  else if op = 0x30 ∨ op = 0x31 ∨ op = 0x32 ∨ op = 0x33 ∨ op = 0x35 then some 2
  else none

/-- The depth of the operand stack after the operations, from a depth on; none where a rule is broken. -/
def assayDepth : Nat → List Nat → Option Nat
  | d, [] => some d
  | d, op :: ops =>
    match assayArity op with
    | some n => if n ≤ d ∧ d - n + 1 ≤ 8 then assayDepth (d - n + 1) ops else none
    | none => none

/-- The operations before the first END of a well-formed expression. -/
def assayOps (e : List Nat) : Option (List Nat) :=
  let ops := e.takeWhile (fun b => b != 0)
  if (e.drop ops.length).all (fun b => b == 0) && assayDepth 0 ops == some 1 then some ops else none

/-- What the expression sees for one token: the value and the renormalised weight of each present member, ascending. -/
abbrev Terms := List (Nat × Nat × Nat)

/-- The value or weight of member `m`, or what an absent one gives. -/
def termOf (ts : Terms) (m d : Nat) (f : Nat × Nat × Nat → Nat) : Nat :=
  ((ts.find? (fun t => t.1 == m)).map f).getD d

/-- The terms with a weight above 0. -/
def contributing (ts : Terms) : Terms := ts.filter (fun t => fLt 0 t.2.2)

/-- WSUM (05 R114). -/
def assayWsum (ts : Terms) : Nat := fFold ((contributing ts).map (fun t => fMul t.2.2 t.2.1))

/-- WLSE (05 R114). -/
def assayWlse (ts : Terms) : Nat :=
  let us := contributing ts
  match us with
  | [] => fNegInf
  | u :: rest =>
    let m := rest.foldl (fun m t => fMax m t.2.1) u.2.1
    if m = fNegInf then fNegInf
    else fAdd m (fLn (fFold (us.map (fun t => fMul t.2.2 (fExp (fSub t.2.1 m))))))

/-- LSE2 (10 R198). -/
def assayLse2 (x y : Nat) : Nat :=
  if x = fNegInf ∧ y = fNegInf then fNegInf
  else
    let m := fMax x y
    fAdd m (fLn (fAdd (fExp (fSub x m)) (fExp (fSub y m))))

/-- One operation on the operand stack, top first. -/
def assayStep (consts : Nat → Nat) (ts : Terms) (st : List Nat) (op : Nat) : List Nat :=
  match op, st with
  | 0x30, y :: x :: r => fAdd x y :: r
  | 0x31, y :: x :: r => fMul x y :: r
  | 0x32, y :: x :: r => fMax x y :: r
  | 0x33, y :: x :: r => fMin x y :: r
  | 0x34, x :: r => fNeg x :: r
  | 0x35, y :: x :: r => assayLse2 x y :: r
  | 0x36, r => assayWsum ts :: r
  | 0x37, r => assayWlse ts :: r
  | op, r =>
    if op < 0x18 then termOf ts (op - 0x10) fNegInf (fun t => t.2.1) :: r
    else if op < 0x20 then termOf ts (op - 0x18) 0 (fun t => t.2.2) :: r
    else consts (op - 0x20) :: r

/-- The value of an expression for one token; a NaN is the canonical one (05 R100). -/
def assayEval (consts : Nat → Nat) (ts : Terms) (ops : List Nat) : Nat :=
  let v := (ops.foldl (assayStep consts ts) []).headD fNegInf
  if (f32 v).isNan then 0x7FC00000 else v

/-! ### Sums of the draw engine (05 R113) -/

/-- The vector tree sums of a slice row, vectors ascending. -/
def vecSums (l : List Nat) : List Nat :=
  (chunks 16 l.length l).map (fun v => treeSum fAdd fNegZero 4 (v ++ List.replicate (16 - v.length) fNegZero))

/-- The masses of the slices, from the vector sums. -/
def sliceMasses (vs : List Nat) : List Nat := (chunks 256 vs.length vs).map fFold

/-- The total of a sequence over the canonical ids. -/
def mass (l : List Nat) : Nat := fFold (sliceMasses (vecSums l))

/-! ### The sweep and the choice (10 R201) -/

/-- The largest pattern below 2^32 for which `p` holds, by 32 rounds of bisection between `lo` and `hi`. -/
def bisect (p : Nat → Bool) : Nat → Nat → Nat → Nat
  | 0, lo, _ => lo
  | n + 1, lo, hi => let m := (lo + hi) / 2; if p m then bisect p n m hi else bisect p n lo m

/-- What a sweep of one position gives: the weights, the survivors and their mass. -/
structure Sweep where
  e : List Nat
  live : List Bool
  total : Nat
  deriving DecidableEq, Repr

/-- The weights with every non-survivor as -0. -/
def masked (e : List Nat) (live : List Bool) : List Nat :=
  (e.zip live).map (fun p => if p.2 then p.1 else fNegZero)

/-- The sweep of one position's result values; none where it is empty. -/
def sweepOf (params : Word) (vals : List Nat) : Option Sweep :=
  let s := vals.map (fun v => if (f32 v).isNan then fNegInf else v)
  let m := s.foldl (fun m v => if fLt m v then v else m) fNegInf
  if m = fNegInf then none
  else
    let e := s.map (fun v => if v = m ∧ m = 0x7F800000 then 0x3F800000 else fExp (fSub v m))
    let topk := bits params 0 16
    let goal := fMul (bits params 32 32) (mass e)
    let tk := if topk = 0 then 0 else bisect (fun t => decide (topk ≤ (e.filter (fun x => t ≤ x)).length)) 32 0 (2 ^ 32)
    let tp := bisect (fun t => fGe (mass (masked e (e.map (fun x => decide (t ≤ x))))) goal) 32 0 (2 ^ 32)
    let live := e.map (fun x => decide (0 < x) && decide (max tk tp ≤ x))
    some ⟨e, live, mass (masked e live)⟩

/-- The cumulative mass of token `j` over masked weights. -/
def cumulative (w vs ms : List Nat) (j : Nat) : Nat :=
  let sl := j / 4096
  let vi := j / 16
  fFold [fFold (ms.take sl), fFold ((vs.drop (256 * sl)).take (vi - 256 * sl)), fFold ((w.drop (16 * vi)).take (j % 16 + 1))]

/-- `choose`: the smallest surviving token whose cumulative mass passes `u S`, or the largest surviving one. -/
def chooseOf (w : List Nat) (live : List Bool) (total u : Nat) : Nat :=
  let x := fMul u total
  let vs := vecSums w
  let ms := sliceMasses vs
  let js := (List.range live.length).filter (fun j => live[j]?.getD false)
  match js.find? (fun j => fLt x (cumulative w vs ms j)) with
  | some j => j
  | none => js.getLastD 0

/-! ### Uniform values (10 R201) -/

/-- One round of Philox4x32 (the generator's published constants, log 21). -/
def philoxRound (k : Nat × Nat) (x : Nat × Nat × Nat × Nat) : Nat × Nat × Nat × Nat :=
  let p := 0xD2511F53 * x.1
  let q := 0xCD9E8D57 * x.2.2.1
  (Nat.xor (Nat.xor (q / 2 ^ 32) x.2.1) k.1, q % 2 ^ 32, Nat.xor (Nat.xor (p / 2 ^ 32) x.2.2.2) k.2, p % 2 ^ 32)

/-- `n` rounds, the key raised after each. -/
def philoxRounds : Nat → Nat × Nat → Nat × Nat × Nat × Nat → Nat × Nat × Nat × Nat
  | 0, _, x => x
  | n + 1, k, x => philoxRounds n ((k.1 + 0x9E3779B9) % 2 ^ 32, (k.2 + 0xBB67AE85) % 2 ^ 32) (philoxRound k x)

/-- Output word 0 or 1 of Philox4x32-10 for a key and a counter of two words. -/
def philox (seed ctr : Word) (word1 : Bool) : Nat :=
  let r := philoxRounds 10 (bits seed 0 32, bits seed 32 32) (bits ctr 0 32, bits ctr 32 32, 0, 0)
  if word1 then r.2.1 else r.1

/-- The uniform value of an output word. -/
def uniformOf (w : Nat) : Nat := (fp32Fmt.encode .rne (.fin false (w / 256) (-24))).1

end Sys2Proof.Machine
end

