-- ==== Sys2Proof/Machine/Tiles.lean ====
section
/-! DEFINITION. The tile instructions: TZERO, TLOAD, TSAVE, TSTAT, TWAIT, TDROP (09 R166-R168, 21 R376, R378-R381,
R383). -/

namespace Sys2Proof.Machine

/-! ### Elements of a tile -/

/-- Columns of a tile kind. -/
def TileKind.cols : TileKind → Nat
  | .fp32 => 64 | .int32 => 64 | .fp64 => 32 | .odd => 0

/-- The value of an element of a kind. -/
def TileKind.read (k : TileKind) (x : Nat) : Num :=
  match k with
  | .fp32 => fp32Fmt.read x
  | .int32 => Num.ofInt (readInt 32 x)
  | .fp64 => fp64Fmt.read x
  | .odd => .fin false 0 0

/-- A value as an element of a kind; NaN becomes the canonical NaN. -/
def TileKind.encode (k : TileKind) (x : Num) : Nat :=
  match k with
  | .fp32 => (fp32Fmt.encode .rne x).1
  | .int32 => (intCode 32 .rne x).1
  | .fp64 => (fp64Fmt.encode .rne x).1
  | .odd => 0

/-- Cells of the elements of a tile, in order. -/
def tileCells (l : List Nat) : List (Nat × Word) :=
  ((List.range l.length).zip l).filterMap (fun p => if p.2 = 0 then none else some (p.1, word p.2))

/-- Element `i` of a tile. -/
def Tile.elem (t : Tile) (i : Nat) : Nat := (lookupD 0 i t.data).toNat

/-- The N tag of a tile. -/
def Tile.tag (t : Tile) : Tag := if t.blk = 0 then none else some (t.blk + 3, t.seed)

/-! ### TZERO, TWAIT, TDROP (21 R376) -/

/-- `twait(t)`: the odd half of a pair is refused; a tile in flight holds the slot. -/
def State.twaitAt (s : State) (n : Nat) : Except Stop Unit := do
  illegalIf ((s.myCore.planned.tileOf n).kind == .odd) 0
  holdIf (s.myCore.inFlight n)

/-- A core with a tile replaced; the odd half of an FP64 pair is freed with its even half, unless a tile instruction that
came later in program order has already taken it (09 R168). -/
def CoreState.putTile (x : CoreState) (n : Nat) (t : Tile) : CoreState :=
  let y := if (x.tileOf n).kind = .fp64 ∧ (x.tileOf (n + 1)).kind = .odd then x.setTile (n + 1) Tile.reset else x
  y.setTile n t

/-- TZERO. -/
def execTzero (t : TReg) (s : State) : Outcome :=
  s.finish (do
    s.twaitAt t.val
    .ok (s.modMyCore (fun x => x.putTile t.val { Tile.reset with valid := true })))

/-- TWAIT. -/
def execTwait (t : TReg) (s : State) : Outcome :=
  s.finish (do
    s.twaitAt t.val
    .ok s)

/-- TDROP. -/
def execTdrop (t : TReg) (s : State) : Outcome :=
  s.finish (do
    s.twaitAt t.val
    .ok (s.modMyCore (fun x => x.putTile t.val Tile.reset)))

/-! ### TSTAT (09 R167, 21 R383) -/

/-- Code of a kind. -/
def kindCode : TileKind → Nat
  | .fp32 => 0 | .int32 => 1 | .fp64 => 2 | .odd => 3

/-- The status of a tile. -/
def CoreState.tstat (x : CoreState) (n : Nat) : Word :=
  let p := x.planned.tileOf n
  fieldAt 11 p.seed ||| fieldAt 8 p.blk ||| fieldAt 4 (kindCode p.kind) ||| flagAt 2 (x.inFlight n) |||
    flagAt 1 (x.tileOf n).dirty ||| flagAt 0 (x.tileV n)

/-- TSTAT. -/
def execTstat (a : GReg) (t : TReg) (s : State) : Outcome :=
  s.finish (do
    s.ports [] [a]
    s.writeG a (s.myCore.tstat t.val))

/-! ### Tile images (21 R378, R379) -/

/-- The tile kind that a format loads and stores; none for a format outside the table. -/
def fmtTile (f : Nat) : Option TileKind :=
  match f with
  | 1 => some .fp64
  | 2 => some .fp32 | 3 => some .fp32 | 4 => some .fp32
  | 5 => some .int32 | 6 => some .int32 | 7 => some .int32 | 8 => some .int32 | 9 => some .int32
  | f => if 0x10 ≤ f ∧ f < 0x30 then some .fp32 else none

/-- Bytes of an image. -/
def imageBytes (f : Nat) (k : TileKind) : Nat := 32 * k.cols * fmtBits f / 8

/-- Bytes of a block of a tag. -/
def blockBytes (f : Nat) : Tag → Nat
  | some (b, _) => fmtBits f * 2 ^ b / 8
  | none => 1

/-- A tagged pointer breaks 06 R120 on a path of blocks up to `2^most`: the tag itself. -/
def tagBad (f : Nat) (t : Tag) (most : Nat) : Bool :=
  match t with
  | some (b, _) => fmtUntaggable f || decide (most < b)
  | none => false

/-- The checks of R378 and R379 that do not depend on the tile: the address, format and kind. -/
def imageChecks (p : Word) (d : Int) : Except Stop (Nat × Nat × TileKind) := do
  let e ← ea p d 0 0
  match fmtTile (fatFmt p) with
  | none => illegalOperand 0
  | some k =>
    illegalIf (e % 64 != 0 || (rowAt e != .self && rowAt e != .page)) (word e)
    illegalIf (tagBad (fatFmt p) (fatTag p) 6) 0
    illegalIf (e % blockBytes (fatFmt p) (fatTag p) != 0) (word e)
    .ok (e, fatFmt p, k)

/-- A tag that names a seed slot holding zero takes the zero-rotation-seed trap. -/
def State.seedCheck (s : State) (t : Tag) : Except Stop Unit :=
  match tagZero (s.seedsOf s.cur.core) t with
  | some n => trapWith 0x09 0 (word n)
  | none => .ok ()

/-- A tile holds the slot while a command into it is in flight; an FP64 access also while one into its odd half is
(log 19). -/
def State.tileHold (s : State) (n : Nat) (k : TileKind) : Except Stop Unit :=
  holdIf (s.myCore.inFlight n || (k == .fp64 && s.myCore.inFlight (n + 1)))

/-! ### Bytes of an image -/

/-- Blocks of 64 bytes of a translated image read, in order. -/
def State.readImagePages (s : State) (e : Nat) : Nat → Except Stop (List Byte × State)
  | 0 => .ok ([], s)
  | n + 1 => do
    let (a, _, s1) ← s.pageAccess e 64 true false 0
    holdIf (!s1.isDet s1.cur.core && s1.narrowHeld a 64)
    let (bs, s2) ←
      match s1.residentOf s1.cur.core with
      | some l => if l.det then s1.sharedRead l a 64 else .ok (s1.slotRead a 64)
      | none => .ok (s1.slotRead a 64)
    let (cs, s3) ← s2.readImagePages (e + 64) n
    .ok (bs ++ cs, s3)

/-- The bytes of an image; one that leaves the row of its address takes a protection trap (07 R132). -/
def State.readImage (s : State) (e n : Nat) : Except Stop (List Byte × State) :=
  match rowFor e n with
  | .self => do
    let a ← s.selfAccess e n true false 0
    .ok (s.slotRead a n)
  | .page => s.readImagePages e (n / 64)
  | _ => protection 0 (word e)

/-- Physical addresses of the blocks of a translated image to be written, all checked before any is written. -/
def State.imagePlaces (s : State) (e : Nat) : Nat → Except Stop (List Nat × State)
  | 0 => .ok ([], s)
  | n + 1 => do
    let (a, _, s1) ← s.pageAccess e 64 false true 1
    let (l, s2) ← s1.imagePlaces (e + 64) n
    .ok (a :: l, s2)

/-- One block of a translated image written. -/
def State.writeBlock (s : State) (a : Nat) (bs : List Byte) : State :=
  match s.residentOf s.cur.core with
  | some l =>
    if l.det then
      (List.range 8).foldl
        (fun t i => t.sharedWrite l s.cur.core (a + 8 * i) 8 (word (leNat ((bs.drop (8 * i)).take 8))) false) s
    else s.slotStores a bs
  | none => s.slotStores a bs

/-- An image written. -/
def State.writeImage (s : State) (e : Nat) (bs : List Byte) : Res :=
  match rowFor e bs.length with
  | .self => do
    let a ← s.selfAccess e bs.length false true 1
    .ok (s.slotStores a bs)
  | .page => do
    let (l, s1) ← s.imagePlaces e (bs.length / 64)
    .ok ((l.zip (chunks 64 l.length bs)).foldl (fun t p => t.writeBlock p.1 p.2) s1)
  | _ => protection 1 (word e)

/-- Elements of `n` bits from bytes, the low nibble first (05 R95). -/
def codesOf (bits : Nat) (bs : List Byte) : List Nat :=
  if bits = 4 then bs.flatMap (fun b => [b.toNat % 16, b.toNat / 16])
  else (chunks (bits / 8) bs.length bs).map leNat

/-- The bytes of elements. -/
def bytesOfCodes (bits : Nat) (l : List Nat) : List Byte :=
  if bits = 4 then (chunks 2 l.length l).map (fun p => BitVec.ofNat 8 (p.headD 0 + 16 * (p.drop 1).headD 0))
  else l.flatMap (fun x => leBytes (bits / 8) x)

/-! ### TLOAD (21 R380) -/

/-- TLOAD. -/
def execTload (t : TReg) (b : GReg) (d : Int) (s : State) : Outcome :=
  s.finish (do
    s.ports [b] []
    let (p, s1) := s.readG b
    let (e, f, k) ← imageChecks p d
    illegalIf ((s.myCore.planned.tileOf t.val).kind == .odd || (k == .fp64 && t.val % 2 == 1)) 0
    s.seedCheck (fatTag p)
    s.tileHold t.val k
    s.afterVectorAt e (imageBytes f k)
    let (bs, s2) ← s1.readImage e (imageBytes f k)
    let y : Tile :=
      { valid := true, dirty := false, kind := k, blk := fatBlk p, seed := if fatBlk p = 0 then 0 else fatSeed p
        data := tileCells ((codesOf (fmtBits f) bs).map (fun c => k.encode (fmtRead f c))) }
    .ok (s2.modMyCore (fun x =>
      let z := x.putTile t.val y
      if k = .fp64 then z.setTile (t.val + 1) Tile.oddHalf else z)))

/-! ### TSAVE (21 R381) -/

/-- The tag-mismatch conditions of TSAVE. -/
def saveMismatch (k : TileKind) (a b : Tag) : Bool :=
  match a, b with
  | some (n, _), some (m, _) => a != b && (k == .int32 || decide (m < n))
  | some _, none => k == .int32
  | none, _ => false

/-- The rows of a tile converted to a tag, and the elements encoded: each with whether it is exact. -/
def Tile.convert (t : Tile) (seeds : Vector Word 16) (f : Nat) (b : Tag) : List (Nat × Bool) :=
  let c := t.kind.cols
  (List.range 32).flatMap (fun m =>
    let row := (List.range c).map (fun n => t.kind.read (t.elem (c * m + n)))
    ((retag seeds (t.kind == .int32) .rne t.tag b row).1).map (fun v =>
      let x := (fmtEncode f .rne v).1
      (x, fmtExact f v x)))

/-- Position of the first element that the narrowing rule refuses. -/
def firstInexact (l : List (Nat × Bool)) : Option Nat :=
  (((List.range l.length).zip l).find? (fun p => !p.2.2)).map (·.1)

/-- TSAVE. -/
def execTsave (t : TReg) (b : GReg) (d : Int) (s : State) : Outcome :=
  s.finish (do
    s.ports [b] []
    let (p, s1) := s.readG b
    let (e, f, k) ← imageChecks p d
    illegalIf ((s.myCore.planned.tileOf t.val).kind == .odd) 0
    s.seedCheck (fatTag p)
    s.tileHold t.val (s.myCore.planned.tileOf t.val).kind
    let y := s.myCore.tileOf t.val
    illegalIf (!y.valid || y.kind != k) 0
    if saveMismatch k y.tag (fatTag p) then trapWith 0x07 0 0
    let l := y.convert (s.seedsOf s.cur.core) f (fatTag p)
    match (if fmtNarrow f && (fatTag p).isNone then firstInexact l else none) with
    | some i => trapWith 0x06 0 (word (e + i * fmtBits f / 8))
    | none =>
      s.storeOrder
      let s2 ← s1.writeImage e (bytesOfCodes (fmtBits f) (l.map (·.1)))
      .ok (s2.modMyCore (fun x => x.setTile t.val { x.tileOf t.val with dirty := false })))

end Sys2Proof.Machine
end

