-- ==== Sys2Proof/Machine/Matrix.lean ====
section
/-! DEFINITION. The matrix unit: the checks of its records (09 R170-R172, 06 R125, R126, 21 R344-R347), its acceptance, the
running stage (21 R348-R351, 06 R130) and completion (09 R174-R176, 21 R352). -/

namespace Sys2Proof.Machine

/-! ### Fields of a record (21 R344) -/

/-- CODE of a record. -/
def recCode (r : Rec) : Nat := recField r 0 1
/-- NOTIFY. -/
def recNotify (r : Rec) : Bool := recField r 1 1 / 4 % 2 == 1
/-- TAG. -/
def recTag (r : Rec) : Nat := recField r 2 2

/-- One operand of a matrix record. -/
structure MxOp where
  ptr : Word
  /-- Contiguous along the outer dimension. -/
  outer : Bool
  ld : Nat
  scale : Word
  /-- Lines, and elements of a line as stored. -/
  lines : Nat
  elems : Nat
  deriving DecidableEq, Repr

/-- M. -/
def mxM (r : Rec) : Nat := recField r 10 1
/-- N. -/
def mxN (r : Rec) : Nat := recField r 11 1
/-- K. -/
def mxK (r : Rec) : Nat := recField r 12 2
/-- MMAS. -/
def mxSparse (r : Rec) : Bool := recCode r == 2
/-- META. -/
def mxMeta (r : Rec) : Word := recWord r 56

/-- Operand A. -/
def mxA (r : Rec) : MxOp :=
  let o := recField r 9 1 % 2 == 1
  { ptr := recWord r 16, outer := o, ld := recField r 32 4, scale := recWord r 40
    lines := if o then mxK r else mxM r
    elems := if o then mxM r else if mxSparse r then mxK r / 2 else mxK r }

/-- Operand B. -/
def mxB (r : Rec) : MxOp :=
  let o := recField r 9 1 / 2 % 2 == 1
  { ptr := recWord r 24, outer := o, ld := recField r 36 4, scale := recWord r 48
    lines := if o then mxK r else mxN r
    elems := if o then mxN r else mxK r }

/-- Format of an operand. -/
def MxOp.fmt (o : MxOp) : Nat := fatFmt o.ptr
/-- Tag of an operand. -/
def MxOp.tag (o : MxOp) : Tag := fatTag o.ptr
/-- K tag of an operand: its tag where it lies along K (21 R347). -/
def MxOp.kTag (o : MxOp) : Tag := if o.outer then none else o.tag
/-- The operand is scaled. -/
def MxOp.scaled (o : MxOp) : Bool := fmtScaled o.fmt
/-- Its scales come over the hem. -/
def MxOp.hem (o : MxOp) : Bool := o.scaled && bit o.scale 63
/-- Source logical core of the hem. -/
def MxOp.hemSrc (o : MxOp) : Nat := bits o.scale 16 13
/-- Expected sequence. -/
def MxOp.hemSeq (o : MxOp) : Nat := bits o.scale 0 16
/-- Bytes of element `i` of a line, and its address. -/
def MxOp.addr (o : MxOp) (l i : Nat) : Nat := fatVa o.ptr + l * o.ld + i * fmtBits o.fmt / 8
/-- Bytes that hold an element. -/
def MxOp.size (o : MxOp) : Nat := max 1 (fmtBits o.fmt / 8)
/-- Scale blocks of a line (21 R346). -/
def mxBlocks (r : Rec) : Nat := (mxK r + 31) / 32

/-- Products of a group of a dense pair of formats (09 R170). -/
def mxPair (a b : Nat) : Option Nat :=
  if a = 3 ∧ b = 3 then some 1
  else if a = 4 ∧ b = 4 then some 1
  else if a = 10 ∧ b = 10 then some 4
  else if (a = 10 ∨ 0x10 ≤ a) ∧ (b = 10 ∨ 0x10 ≤ b) then some 2
  else none

/-- G of a record; none for a pairing that 09 R170 does not list. -/
def mxG (code a b : Nat) : Option Nat :=
  match code with
  | 1 => mxPair a b
  | 2 => (mxPair a b).map (2 * ·)
  | 3 => if a = 1 ∧ b = 1 then some 1 else none
  | _ => if (a = 8 ∨ a = 9) ∧ (b = 8 ∨ b = 9) then some (if a = 9 ∧ b = 9 then 4 else 2) else none

/-! ### Checks of EPUSH (09 R172, 21 R347) -/

/-- Block size of a tag divides `n`. -/
def tagDivides (t : Tag) (n : Nat) : Bool :=
  match t with
  | some (b, _) => n % 2 ^ b == 0
  | none => true

/-- A scale field breaks 21 R346. -/
def MxOp.scaleBad (o : MxOp) (blocks : Nat) : Bool :=
  if o.scaled then
    o.outer ||
    (if bit o.scale 63 then bits o.scale 29 34 != 0 || decide (64 < o.lines * blocks) else bits o.scale 48 15 != 0)
  else o.scale != 0

/-- A command that does not clear a tile that is valid in program order accumulates (06 R126). -/
def CoreState.mxAccumulates (x : CoreState) (r : Rec) : Bool := !recClear r && (x.planned.tileOf (recTile r)).valid

/-- The record is a reserved MMA combination. -/
def CoreState.mxReserved (x : CoreState) (r : Rec) : Bool :=
  let a := mxA r
  let b := mxB r
  let t := x.planned.tileOf (recTile r)
  let code := recCode r
  recField r 8 1 / 16 != 0 || recField r 9 1 / 4 != 0 || recField r 14 2 != 0 ||
  mxM r == 0 || decide (32 < mxM r) || mxN r == 0 || decide ((if code = 3 then 32 else 64) < mxN r) || mxK r == 0 ||
  (mxG code a.fmt b.fmt).isNone || (code == 3 && recTile r % 2 == 1) || t.kind == .odd ||
  (x.mxAccumulates r && t.kind != mxKind code) ||
  (!mxSparse r && mxMeta r != 0) || (mxSparse r && (a.outer || mxK r % 4 != 0 || fatFmt (mxMeta r) != 0)) ||
  a.scaleBad (mxBlocks r) || b.scaleBad (mxBlocks r) ||
  (code == 3 && (a.tag.isSome || b.tag.isSome)) || (a.outer && a.tag.isSome) ||
  !tagDivides a.kTag (mxK r) || !tagDivides b.kTag (mxK r) || (b.outer && !tagDivides b.tag (mxN r))

/-- The tags of the record disagree (06 R125, R126). -/
def CoreState.mxMismatch (x : CoreState) (r : Rec) : Bool :=
  let t := x.planned.tileOf (recTile r)
  (mxA r).kTag != (mxB r).kTag || (x.mxAccumulates r && (t.blk, t.seed) != recNTag r)

/-- A range of bytes lies whole in a row that the unit may read: illegal operand for the claim window and unmapped bytes
(09 R172) and for the event units (02 R22), protection for the other rows (07 R132, R149, 09 R189). -/
def mxRange (fw : Bool) (va n : Nat) : Except Stop Unit := do
  illegalIf (rowAt va == .claim || rowAt va == .unmapped || rowAt va == .unit) (word va)
  if rowAt va == .engine || rowAt va == .device then protection 0 (word va)
  if 2 ^ 48 < va + n then trapWith 0x03 0 (word (va + n - 1))
  if rowAt va == .firmware && !fw then protection 0 (word va)
  illegalIf (rowAt va == .self && rowFor va n != .self) (word va)
  if rowFor va n != rowAt va then protection 0 (word va)

/-- The checks on an operand's addresses. The lines of a tagged operand start at multiples of the bytes of 2^b elements as
they are stored, for the half-length lines of MMAS too (log 101, the model's choice). -/
def MxOp.check (fw : Bool) (o : MxOp) (blocks : Nat) : Except Stop Unit := do
  let va := fatVa o.ptr
  illegalIf (va % o.size != 0) (word va)
  illegalIf (o.ld % o.size != 0) 0
  illegalIf (tagBad o.fmt o.tag (if o.outer then 6 else 8)) 0
  illegalIf (va % blockBytes o.fmt o.tag != 0) (word va)
  illegalIf (decide (1 < o.lines) && o.ld % blockBytes o.fmt o.tag != 0) 0
  mxRange fw va ((o.lines - 1) * o.ld + (o.elems * fmtBits o.fmt + 7) / 8)
  if o.scaled && !o.hem then mxRange fw (bits o.scale 0 48) (o.lines * blocks)

/-- What the unit finds at an address. -/
inductive MxAt where
  | at (a : Nat)
  | miss
  /-- The page-fault service refused the page, its entry lacks R, or its peer cannot be reached: XLATE. -/
  | bad
  /-- No region grants the read (07 R137), or the entry is reserved (07 R145): the command faults. -/
  | fault (code : Nat)
  /-- The walk reads a word that cannot be corrected (13 R250). -/
  | poison (w : Nat)
  deriving DecidableEq, Repr

/-- Bytes of an operand: a local read under LR, or a translated one under R. -/
def State.mxPlace (s : State) (c : Nat) (refused : List Nat) (va n : Nat) : MxAt :=
  match rowAt va with
  | .self => if s.isFw c || (s.coreOf c).grants [102] va n then .at (sram c va) else .fault 0x04
  | .firmware => .at (firmwareBase + va)
  | _ =>
    match (s.translate c (s.claimId c) va).1 with
    | some e => if !entOk e then .fault 0x05 else if !s.peerDown e && entR e then .at (entPhys e va) else .bad
    | none =>
      match s.walkPoison (s.claimId c) va with
      | some w => .poison w
      | none => if refused.contains (va / 2 ^ 16) then .bad else .miss

/-- Byte of memory as the unit reads it, once every read is known to be possible: a word that the running command has read
early, or memory's (08 R151). -/
def State.mxByte (s : State) (c va : Nat) : Byte :=
  match s.mxPlace c [] va 1 with
  | .at a =>
    (match ((s.coreOf c).mxRun.bind (fun m => find? (wordAddr a) m.early)) with
     | some w => BitVec.ofNat 8 (w.toNat / 2 ^ (8 * (a % 8)))
     | none => readCell s.mem a)
  | .miss => 0
  | .bad => 0
  | .fault _ => 0
  | .poison _ => 0

/-- The nibble of META for group `j` of line `m` (21 R349). -/
def State.mxNibble (s : State) (c : Nat) (r : Rec) (m j : Nat) : Nat :=
  (s.mxByte c (fatVa (mxMeta r) + m * ((mxK r + 7) / 8) + j / 2)).toNat / 2 ^ (4 * (j % 2)) % 16

/-- The k that stored value `i` of line `m` of operand A is for; none for a value of MMAS that no k uses. -/
def State.mxKof (s : State) (c : Nat) (r : Rec) (o : MxOp) (sparse : Bool) (m i : Nat) : Option Nat :=
  if o.outer then some m
  else if sparse then
    let x := s.mxNibble c r m (i / 2)
    if i % 2 = 1 then some (i / 2 * 4 + x / 4)
    else if x % 4 = x / 4 then none
    else some (i / 2 * 4 + x % 4)
  else some i

/-- Every read of a command: the smallest k that needs it, its address and its size. -/
def State.mxReads (s : State) (c : Nat) (r : Rec) : List (Nat × Nat × Nat) :=
  let op (o : MxOp) (sparse : Bool) : List (Nat × Nat × Nat) :=
    ((List.range o.lines).flatMap (fun l => (List.range o.elems).filterMap (fun i =>
      (s.mxKof c r o sparse l i).map (fun k => (k, o.addr l i, o.size))))) ++
    (if o.scaled && !o.hem then
      (List.range o.lines).flatMap (fun l => (List.range (mxBlocks r)).map (fun q =>
        (32 * q, bits o.scale 0 48 + l * mxBlocks r + q, 1)))
     else [])
  op (mxA r) (mxSparse r) ++ op (mxB r) false ++
  (if mxSparse r then
    (List.range (mxM r)).flatMap (fun m => (List.range ((mxK r + 7) / 8)).map (fun j =>
      (8 * j, fatVa (mxMeta r) + m * ((mxK r + 7) / 8) + j, 1)))
   else [])

/-- The first read of the self window that no region grants: a protection trap at EPUSH (07 R137). -/
def State.mxGranted (s : State) (r : Rec) : Except Stop Unit :=
  match (s.mxReads s.cur.core r).find? (fun p => s.mxPlace s.cur.core [] p.2.1 p.2.2 == .fault 0x04) with
  | some p => protection 0 (word p.2.1)
  | none => .ok ()

/-- Every check of a matrix record's body. -/
def State.mxChecks (s : State) (r : Rec) : Except Stop Unit := do
  let x := s.myCore
  illegalIf (!fatOk (recWord r 16) || !fatOk (recWord r 24) || (mxSparse r && !fatOk (mxMeta r))) 0
  if x.mxReserved r then trapWith 0x08 0 0
  if x.mxMismatch r then trapWith 0x07 0 0
  let fw := s.isFw s.cur.core
  (mxA r).check fw (mxBlocks r)
  (mxB r).check fw (mxBlocks r)
  if mxSparse r then mxRange fw (fatVa (mxMeta r)) (mxM r * ((mxK r + 7) / 8))
  s.seedCheck (mxA r).tag
  s.seedCheck (mxB r).tag
  s.mxGranted r

/-! ### The queue (09 R169) -/

/-- A run that starts, with the operands that its shadow slot has fetched. -/
def MxCmd.start (m : MxCmd) : MxRun := ⟨m, none, false, false, false, [], m.early⟩

/-- A command accepted: it runs at once, or waits. -/
def CoreState.mxAccept (x : CoreState) (m : MxCmd) : CoreState :=
  if x.mxRun.isNone then { x with mxRun := some m.start } else { x with mxQueue := x.mxQueue ++ [m] }

/-- The running stage taken by the next command. -/
def CoreState.mxNext (x : CoreState) : CoreState :=
  { x with mxRun := x.mxQueue.head?.map MxCmd.start, mxQueue := x.mxQueue.drop 1 }

/-! ### Reading the operands (07 R140, 21 R352) -/

/-- The read of smallest k for which `p` holds. -/
def leastRead (p : Nat × Nat × Nat → Bool) (l : List (Nat × Nat × Nat)) : Option (Nat × Nat × Nat) :=
  l.foldl
    (fun a x => if p x then (match a with | some y => if x.1 < y.1 then some x else a | none => some x) else a) none

/-- An element of an operand. -/
def State.mxElem (s : State) (c : Nat) (o : MxOp) (l i : Nat) : Num :=
  let x := leNat ((List.range o.size).map (fun j => s.mxByte c (o.addr l i + j)))
  fmtRead o.fmt (if fmtBits o.fmt = 4 then x / 2 ^ (4 * (i % 2)) % 16 else x)

/-- a(m, k) and b(k, n) of a dense operand. -/
def State.mxAt (s : State) (c : Nat) (o : MxOp) (outer k : Nat) : Num :=
  if o.outer then s.mxElem c o k outer else s.mxElem c o outer k

/-- a(m, k); none where MMAS has pruned it (21 R349). -/
def State.mxAk (s : State) (c : Nat) (r : Rec) (m k : Nat) : Option Num :=
  if mxSparse r then
    let j := k / 4
    let x := s.mxNibble c r m j
    if k % 4 = x / 4 then some (s.mxElem c (mxA r) m (2 * j + 1))
    else if k % 4 = x % 4 then some (s.mxElem c (mxA r) m (2 * j))
    else none
  else some (s.mxAt c (mxA r) m k)

/-- The oldest hem entry from a logical core. -/
def CoreState.hemFrom (x : CoreState) (src : Nat) : Option HemTile := x.hem.find? (fun h => h.src == src)

/-- Scale byte of line `l`, block `q`: beyond a hem entry's length 0xFF. -/
def State.mxScaleByte (s : State) (c : Nat) (r : Rec) (o : MxOp) (l q : Nat) : Nat :=
  let i := l * mxBlocks r + q
  if o.hem then
    match (s.coreOf c).hemFrom o.hemSrc with
    | some h => ((h.bytes[i]?).getD 0xFF).toNat
    | none => 0xFF
  else (s.mxByte c (bits o.scale 0 48 + i)).toNat

/-- Exponent of the scale that applies at k; 0 for an unscaled operand, none for the NaN. -/
def State.mxScale (s : State) (c : Nat) (r : Rec) (o : MxOp) (l k : Nat) : Option Int :=
  if o.scaled then scaleOf (s.mxScaleByte c r o l (k / 32)) else some 0

/-! ### The sums (05 R108-R110, 21 R348, R350, R351) -/

/-- The zero that pads a group. -/
def negZero : Num := .fin true 0 0

/-- FP32 addition of numbers with flags. -/
def addFlagged (x y : Num × Flags) : Num × Flags :=
  let (z, g) := round32 (Num.add .rne x.1 y.1)
  (z, x.2 ||| y.2 ||| g)

/-- Products of a group of G from k on: pruned ones and those beyond K are -0. -/
def mxLeaves (a : Nat → Option Num) (b : Nat → Num) (kMax g k : Nat) : List (Num × Flags) :=
  (List.range g).map (fun i =>
    if k + i < kMax then
      match a (k + i) with
      | some x => Num.mul x (b (k + i))
      | none => (negZero, 0)
    else (negZero, 0))

/-- Step 3 of 05 R109: the group's sum times its powers of two. -/
def stepThree (x : Num × Flags) (sa sb : Option Int) (kb : Nat) : Num × Flags :=
  match sa, sb with
  | some p, some q =>
    let (z, g) := round32 (x.1.scale (p + q - kb), 0)
    (z, x.2 ||| g)
  | none, _ => (.nan false, x.2)
  | some _, none => (.nan false, x.2)

/-- One FP32 element of MMA and MMAS, from its old value. -/
def mmaElem (a : Nat → Option Num) (b : Nat → Num) (sa sb : Nat → Option Int) (kMax g kb : Nat) (old : Num) :
    Num × Flags :=
  (List.range ((kMax + g - 1) / g)).foldl
    (fun acc q =>
      let t := treeSum addFlagged (negZero, 0) (Nat.log2 g) (mxLeaves a b kMax g (q * g))
      addFlagged acc (stepThree t (sa (q * g)) (sb (q * g)) kb))
    (old, 0)

/-- One FP64 element of MMAD: fused, K ascending. -/
def mmadElem (a b : Nat → Num) (kMax : Nat) (old : Nat) : Nat × Flags :=
  (List.range kMax).foldl
    (fun acc k =>
      let (z, g) := fp64Fmt.finish .rne (Num.fma .rne (a k) (b k) (fp64Fmt.read acc.1))
      (z, acc.2 ||| g))
    (old, 0)

/-- The integer value of an sm8 or sm4 element. -/
def Num.toInt : Num → Int
  | .fin s m _ => if s then -(m : Int) else m
  | .inf _ => 0
  | .nan _ => 0

/-- sat32 and whether it clamped (05 R110). -/
def sat32 (v : Int) : Int × Bool :=
  if v < -2147483648 then (-2147483648, true) else if 2147483647 < v then (2147483647, true) else (v, false)

/-- v / 2^b rounded to nearest even, and whether it was inexact (21 R350). -/
def divBlock (v : Int) (b : Nat) : Int × Bool :=
  let (n, x) := roundAt .rne (decide (v < 0)) v.natAbs (-(b : Int)) 0
  (if v < 0 then -(n : Int) else n, x)

/-- One INT32 element of MMAI: its value, SAT and NX. -/
def mmaiElem (a b : Nat → Int) (kMax g kb : Nat) (old : Int) : Int × Bool × Bool :=
  let n := if kb = 0 then g else 2 ^ kb
  (List.range ((kMax + n - 1) / n)).foldl
    (fun acc q =>
      let v := ((List.range n).map (fun i => if q * n + i < kMax then a (q * n + i) * b (q * n + i) else 0)).sum
      let (w, x) := divBlock v kb
      let (z, c) := sat32 (acc.1 + w)
      (z, acc.2.1 || c, acc.2.2 || x))
    (old, false, false)

/-! ### Completion elements (09 R174) -/

/-- A completion element. -/
def element (tag code err : Nat) (sat : Bool) (f : Flags) (value : Nat) : Word :=
  fieldAt 48 tag ||| fieldAt 40 code ||| fieldAt 36 err ||| flagAt 35 sat ||| flagAt 34 (f &&& flagNV != 0) |||
    flagAt 33 (f &&& flagOF != 0) ||| flagAt 32 (f &&& flagNX != 0) ||| word value

/-- ERR of an element. -/
def elementErr (w : Word) : Nat := bits w 36 4

/-- The effects on a core of a completion with nonzero ERR: STATUS.EERR and the engine window's last error (13 R249,
09 R189). -/
def CoreState.noteError (x : CoreState) (w : Word) : CoreState :=
  if elementErr w = 0 then x
  else { x with slots := x.slots.map (fun (t : Slot) => { t with eerr := true }), lastErr := w }

/-! ### The running stage -/

/-- What a run computes for one element from its old code: the new code, SAT and the flags. -/
def State.mxCompute (s : State) (c : Nat) (r : Rec) (m n old : Nat) : Nat × Bool × Flags :=
  let ao := mxA r
  let bo := mxB r
  let kb : Nat := match ao.kTag with | some (b, _) => b | none => 0
  let g := (mxG (recCode r) ao.fmt bo.fmt).getD 1
  match recCode r with
  | 3 =>
    let (z, f) := mmadElem (s.mxAt c ao m) (s.mxAt c bo n) (mxK r) old
    (z, false, f)
  | 4 =>
    let (z, sat, x) := mmaiElem (fun k => (s.mxAt c ao m k).toInt) (fun k => (s.mxAt c bo n k).toInt) (mxK r) g kb
      (readInt 32 old)
    (codeOfInt 32 z, sat, flagIf x flagNX)
  | _ =>
    let (z, f) := mmaElem (s.mxAk c r m) (s.mxAt c bo n) (s.mxScale c r ao m) (s.mxScale c r bo n) (mxK r) g kb
      (fp32Fmt.read old)
    ((fp32Fmt.encode .rne z).1, false, f)

/-- The tile a run leaves, with SAT and the flags. -/
def State.mxResult (s : State) (c : Nat) (r : Rec) : Tile × Bool × Flags :=
  let k := mxKind (recCode r)
  let t := (s.coreOf c).tileOf (recTile r)
  let keep := !recClear r && t.valid && t.kind == k
  let w := k.cols
  let out := (List.range (32 * w)).map (fun i =>
    let old := if keep then t.elem i else 0
    if i / w < mxM r ∧ i % w < mxN r then s.mxCompute c r (i / w) (i % w) old else (old, false, 0))
  let tag := if keep then (t.blk, t.seed) else recNTag r
  ({ valid := true, dirty := true, kind := k, blk := tag.1, seed := tag.2, data := tileCells (out.map (·.1)) },
    out.any (·.2.1), orFlags (out.map (·.2.2)))

/-- A core with a command's result in its tile, and the pair as its kind asks (09 R166). -/
def CoreState.mxWrite (x : CoreState) (r : Rec) (t : Tile) : CoreState :=
  let y := x.putTile (recTile r) t
  if t.kind = .fp64 then y.setTile (recTile r + 1) Tile.oddHalf else y

/-- The state of the hem operands (06 R130). -/
inductive HemState where
  | ready | absent
  | mismatch (src found expect : Nat)
  deriving DecidableEq, Repr

/-- The hem check on a source and an expected sequence. -/
def CoreState.hemCheck (x : CoreState) (src seq : Nat) : HemState :=
  match x.hemFrom src with
  | some h => if h.seqno = seq then .ready else .mismatch src h.seqno seq
  | none => .absent

/-- The hem check on both operands. The spec gives no order where both stand on the hem; the model checks A first: A absent
while B mismatches is a wait, and of two mismatches HEMSTAT records A's, with one count (log 117, the model's choice). -/
def CoreState.mxHem (x : CoreState) (r : Rec) : HemState :=
  let one (o : MxOp) : HemState := if o.hem then x.hemCheck o.hemSrc o.hemSeq else .ready
  match one (mxA r) with
  | .ready => one (mxB r)
  | h => h

/-- A mismatch recorded in HEMSTAT (06 R131). -/
def CoreState.hemMismatch (x : CoreState) (src found expect : Nat) : CoreState :=
  { x with
    hemFound := BitVec.ofNat 16 found
    hemExpect := BitVec.ofNat 16 expect
    hemSrc := BitVec.ofNat 13 src
    hemCount := if x.hemCount = 63 then 63 else x.hemCount + 1 }

/-- The run of a core updated. -/
def CoreState.modRun (x : CoreState) (f : MxRun → MxRun) : CoreState := { x with mxRun := x.mxRun.map f }

/-- A run's completion element set. -/
def State.mxDone (s : State) (c : Nat) (w : Word) : State :=
  s.modCore c (fun x => x.modRun (fun m => { m with done := some w, hemWait := false }))

/-- `fault_end` at the EPUSH of a command: a machine check on an engine's read (13 R250), or a refused remote access
(07 R140). -/
def State.engineFault (s : State) (c k : Nat) (pc : VAddr) (x : Trap) : State :=
  let s1 := if x.code = 0x0F then { s with checks := s.checks + 1 } else s
  s1.faultEnd c k (causeWord false x.detail x.code) pc x.value

/-- The running command of a core with code `code` runs: it waits on the hem or a page, fails, or leaves its result. -/
def State.mxRunStep (s : State) (c code : Nat) : Option State :=
  let x := s.coreOf c
  match x.mxRun with
  | none => none
  | some m =>
    let r := m.cmd.record
    if recCode r ≠ code ∨ m.done.isSome ∨ m.missing ∨ s.frozen c then none
    else
      match x.mxHem r with
      | .absent => some (s.modCore c (fun x => x.modRun (fun m => { m with hemWait := true })))
      | .mismatch src found expect =>
        some ((s.modCore c (fun x => x.hemMismatch src found expect)).mxDone c
          (element (recTag r) code 1 false 0 (recTile r)))
      | .ready =>
        let place (p : Nat × Nat × Nat) : MxAt := s.mxPlace c m.refused p.2.1 p.2.2
        let reads := s.mxReads c r
        match leastRead (fun p => match place p with | .at _ => false | _ => true) reads with
        | some p =>
          (match place p with
           | .fault code => some (s.engineFault c m.cmd.slot m.cmd.pc ⟨code, 0, word p.2.1⟩)
           | .poison w => some (s.engineFault c m.cmd.slot m.cmd.pc (machineTrap w))
           | .miss =>
             let s1 : State := { s with misses := s.misses ++ [⟨.matrix c, s.claimId c, p.2.1, false, m.cmd.pc⟩] }
             some (s1.modCore c (fun x => x.modRun (fun m => { m with missing := true, hemWait := false })))
           | _ => some (s.mxDone c (element (recTag r) code 2 false 0 p.1)))
        | none =>
          let bad := reads.filterMap (fun p =>
            match place p with
            | .at a => (wordsOf a p.2.2).find? (fun w =>
                s.poisoned.contains w && !(m.early.any (fun x => x.1 == w)))
            | _ => none)
          match bad with
          | w :: _ => some (s.engineFault c m.cmd.slot m.cmd.pc (machineTrap w))
          | [] =>
            let (t, sat, f) := s.mxResult c r
            some ((s.modCore c (fun x => x.mxWrite r t)).mxDone c (element (recTag r) code 0 sat f (recTile r)))

/-- The running command of a core, or with `next` the shadow command behind it (09 R169), reads the word at a physical address
early, which no other read of it will then do (08 R151). -/
def State.matrixAheadAt (s : State) (c a : Nat) (next : Bool) : State :=
  if s.poisonedIn (wordAddr a) 8 then s
  else
    let seen (l : List (Nat × Word)) : List (Nat × Word) := insertKey (wordAddr a) (s.readN (wordAddr a) 8) l
    s.modCore c (fun x =>
      if next then
        match x.mxQueue with
        | m :: l => { x with mxQueue := { m with early := seen m.early } :: l }
        | [] => x
      else x.modRun (fun m => if m.done.isSome then m else { m with early := seen m.early }))

/-- MMA (21 R348). -/
def execMma (c : Nat) (s : State) : Outcome := s.event (s.mxRunStep c 1)
/-- MMAS (21 R349). -/
def execMmas (c : Nat) (s : State) : Outcome := s.event (s.mxRunStep c 2)
/-- MMAD (21 R351). -/
def execMmad (c : Nat) (s : State) : Outcome := s.event (s.mxRunStep c 3)
/-- MMAI (21 R350). -/
def execMmai (c : Nat) (s : State) : Outcome := s.event (s.mxRunStep c 4)

/-! ### MATRIX_COMPLETION -/

/-- The list without its first element for which `p` holds. -/
def dropFirst {α : Type} (p : α → Bool) : List α → List α
  | [] => []
  | x :: l => if p x then l else x :: dropFirst p l

/-- A hem entry of a source freed. -/
def CoreState.hemFree (x : CoreState) (src : Nat) : CoreState := { x with hem := dropFirst (fun h => h.src == src) x.hem }

/-- Hem entries that a completed command frees: once for each source. -/
def CoreState.mxFree (x : CoreState) (r : Rec) : CoreState :=
  let a := mxA r
  let b := mxB r
  let y := if a.hem then x.hemFree a.hemSrc else x
  if b.hem && !(a.hem && a.hemSrc == b.hemSrc) then y.hemFree b.hemSrc else y

/-- The command has completed: F is 0, it counts, an error is noted. -/
def CoreState.mxEnd (x : CoreState) (m : MxRun) (w : Word) : CoreState :=
  let y := if elementErr w = 1 then x else x.mxFree m.cmd.record
  ({ y with mxDone := y.mxDone + 1 }.modRun (fun m => { m with ended := true })).noteError w

/-- The element goes to q2 once there is room, and the next command starts (09 R176). -/
def CoreState.mxPush (x : CoreState) (m : MxRun) (w : Word) : CoreState :=
  if !recNotify m.cmd.record then x.mxNext
  else if x.inUse 2 < portDepth 2 then (x.setPort 2 (x.port 2 ++ [w])).mxNext
  else x

/-- MATRIX_COMPLETION (09 R174, R176). -/
def State.matrixCompletion (s : State) (c : Nat) : Option State :=
  let x := s.coreOf c
  match x.mxRun with
  | some m =>
    match m.done with
    | some w =>
      if s.frozen c then none
      else some (s.modCore c (fun x => (if m.ended then x else x.mxEnd m w).mxPush m w))
    | none => none
  | none => none

/-- MATRIX_COMPLETION. -/
def execMatrixCompletion (c : Nat) (s : State) : Outcome := s.event (s.matrixCompletion c)

end Sys2Proof.Machine
end

