-- ==== Sys2Proof/Machine/Copy.lean ====
section
/-! DEFINITION. The copy engine: its records' checks (21 R309, R310, R312), a command's run (R311, 09 R184, R185) and its
completion (R313), and the hem (06 R128-R130). -/

namespace Sys2Proof.Machine

/-! ### Fields of a record (20 R309) -/

/-- One operand of a copy record: pointer, byte strides, sizes. -/
structure CopyOp where
  ptr : Word
  s0 : Int
  s1 : Int
  s2 : Int
  deriving DecidableEq, Repr

/-- SRC. -/
def copySrc (r : Rec) : CopyOp := ⟨recWord r 8, recSigned r 32 4, recSigned r 36 4, recSigned r 40 4⟩
/-- DST. -/
def copyDst (r : Rec) : CopyOp := ⟨recWord r 16, recSigned r 44 4, recSigned r 48 4, recSigned r 52 4⟩
/-- N0. -/
def copyN0 (r : Rec) : Nat := recField r 24 4
/-- N1. -/
def copyN1 (r : Rec) : Nat := recField r 28 2
/-- N2. -/
def copyN2 (r : Rec) : Nat := recField r 30 2
/-- E. -/
def copyCount (r : Rec) : Nat := copyN0 r * copyN1 r * copyN2 r
/-- SCALE. -/
def copyScale (r : Rec) : Word := recWord r 56
/-- COPYH. -/
def copyIsHem (r : Rec) : Bool := recCode r == 0x11
/-- SEQ and HSRC of a COPYH. -/
def copySeq (r : Rec) : Nat := bits (copyScale r) 0 16
def copyHsrc (r : Rec) : Nat := bits (copyScale r) 16 13

/-- Format of an operand. -/
def CopyOp.fmt (o : CopyOp) : Nat := fatFmt o.ptr
/-- Bits of an element: a raw element is a byte. -/
def CopyOp.bits (o : CopyOp) : Nat := if o.fmt = 0 then 8 else fmtBits o.fmt
/-- Bytes that hold an element. -/
def CopyOp.size (o : CopyOp) : Nat := max 1 (o.bits / 8)
/-- The tag; raw data carry none. -/
def CopyOp.tag (o : CopyOp) : Tag := if o.fmt = 0 then none else fatTag o.ptr
/-- The operand is scaled. -/
def CopyOp.scaled (o : CopyOp) : Bool := fmtScaled o.fmt

/-- Address of element `e`, before the 48-bit range is looked at. -/
def CopyOp.addr (o : CopyOp) (r : Rec) (e : Nat) : Int :=
  let i0 := e % copyN0 r
  let i1 := e / copyN0 r % copyN1 r
  let i2 := e / copyN0 r / copyN1 r
  (fatVa o.ptr : Int) + (if o.bits = 4 then ((i0 / 2 : Nat) : Int) else (i0 : Int) * o.s0) + (i1 : Int) * o.s1 +
    (i2 : Int) * o.s2

/-- The lowest and the highest byte that an operand's elements touch. -/
def CopyOp.span (o : CopyOp) (r : Rec) : Int × Int :=
  let va : Int := fatVa o.ptr
  let d0 : Int := if o.bits = 4 then (((copyN0 r - 1) / 2 : Nat) : Int) else ((copyN0 r - 1 : Nat) : Int) * o.s0
  let d1 : Int := (copyN1 r - 1 : Nat) * o.s1
  let d2 : Int := (copyN2 r - 1 : Nat) * o.s2
  (va + min 0 d0 + min 0 d1 + min 0 d2, va + max 0 d0 + max 0 d1 + max 0 d2 + (o.size - 1 : Nat))

/-! ### Checks (20 R310, R312) -/

/-- Bytes `lo` to `hi` lie in the claim window, its slices in the claim (07 R139), or in translated space; `va` is the
address reported. -/
def State.engineRange (s : State) (claim : Nat) (lo hi : Int) (va : Nat) (detail : Nat) : Except Stop Unit := do
  let row : Row := if lo < 0 ∨ 2 ^ 48 ≤ hi then .unmapped else rowFor lo.toNat (hi - lo + 1).toNat
  illegalIf (row != .claim && row != .page) (word va)
  let n := ((s.claim? claim).map (fun x => x.rect.w * x.rect.h)).getD 0
  if row == .claim then
    if n ≤ sliceOf lo.toNat then protection detail (wordOfInt lo)
    if n ≤ sliceOf hi.toNat then protection detail (wordOfInt hi)

/-- A tagged operand breaks R310: R120, its dimension-0 stride, or N0. -/
def CopyOp.tagBroken (o : CopyOp) (r : Rec) : Bool :=
  match o.tag with
  | some (b, n) =>
    let k : Int := blockBytes o.fmt (some (b, n))
    fmtUntaggable o.fmt || o.s0 != (if o.bits = 4 then 0 else (o.size : Int)) || copyN0 r % 2 ^ b != 0 ||
    (o.scaled && copyN0 r % 32 != 0) ||
    (decide (1 < copyN1 r) && o.s1 % k != 0) || (decide (1 < copyN2 r) && o.s2 % k != 0)
  | none => false

/-- The checks on one operand's address, strides and tag. -/
def CopyOp.check (o : CopyOp) (r : Rec) : Except Stop Unit := do
  illegalIf (fatVa o.ptr % o.size != 0) (word (fatVa o.ptr))
  illegalIf (o.s0 % o.size != 0 || o.s1 % o.size != 0 || o.s2 % o.size != 0) 0
  illegalIf (o.bits == 4 && (o.s0 != 0 || copyN0 r % 2 == 1)) 0
  illegalIf (o.tagBroken r) 0
  illegalIf (fatVa o.ptr % blockBytes o.fmt o.tag != 0) (word (fatVa o.ptr))

/-- A tag that names a seed slot holding zero. -/
def seedTrap (seeds : Vector Word 16) (t : Tag) : Except Stop Unit :=
  match tagZero seeds t with
  | some n => trapWith 0x09 0 (word n)
  | none => .ok ()

/-- The checks of a copy record's body. -/
def State.copyChecks (s : State) (claim : Nat) (seeds : Vector Word 16) (r : Rec) : Except Stop Unit := do
  let a := copySrc r
  let b := copyDst r
  let c := copyScale r
  illegalIf (!fatOk a.ptr || !fatOk b.ptr) 0
  illegalIf (copyCount r == 0 || decide (2 ^ 32 ≤ copyCount r)) 0
  illegalIf ((a.fmt == 0) != (b.fmt == 0) || (a.scaled && b.scaled)) 0
  if copyIsHem r then illegalIf ((!a.scaled && !b.scaled) || bits c 29 35 != 0) 0
  else illegalIf (bits c 48 16 != 0 || (!a.scaled && !b.scaled && c != 0)) 0
  a.check r
  b.check r
  let sa := a.span r
  let sb := b.span r
  s.engineRange claim sa.1 sa.2 (fatVa a.ptr) 0
  s.engineRange claim sb.1 sb.2 (fatVa b.ptr) 1
  if copyIsHem r then
    illegalIf (b.scaled && (decide (2048 < copyCount r) || copyHsrc r != 0)) 0
    illegalIf (b.scaled && rowAt (fatVa b.ptr) != .claim) (word (fatVa b.ptr))
  else if a.scaled || b.scaled then
    s.engineRange claim (bits c 0 48) (bits c 0 48 + ((copyCount r + 31) / 32 - 1 : Nat)) (bits c 0 48)
      (if b.scaled then 1 else 0)
  seedTrap seeds a.tag
  seedTrap seeds b.tag

/-! ### Remote accesses of an engine (07 R140, R146) -/

/-- Why an engine's access does not take place. -/
inductive EngStop where
  | miss (va : Nat) (write : Bool)
  | xlate
  | refused (dst : Nat) (write : Bool)
  | poisoned (w : Nat)
  /-- An entry with a reserved value (07 R145). -/
  | reserved (va : Nat)
  deriving DecidableEq, Repr

/-- Physical address of `n` bytes that a command reads or writes. -/
def State.engPlace (s : State) (x : EngineCmd) (va n : Nat) (write : Bool) : Except EngStop Nat :=
  match rowFor va n with
  | .claim =>
    match s.claim? x.claim with
    | some cl =>
      let d := cl.rect.coreOf (sliceOf va)
      if sliceOf va < cl.rect.w * cl.rect.h ∧
          s.remoteOk x.claim d (sliceOff va) (if write then .store n 0 else .load n) then .ok (sram d (sliceOff va))
      else .error (.refused d write)
    | none => .error .xlate
  | .page =>
    match s.walk x.claim va with
    | some (_, e) =>
      if !entOk e then .error (.reserved va)
      else if !s.peerDown e && (if write then entW e else entR e) then .ok (entPhys e va)
      else .error .xlate
    | none =>
      match s.walkPoison x.claim va with
      | some w => .error (.poisoned w)
      | none => .error (if x.refused.contains (va / 2 ^ 16) then .xlate else .miss va write)
  | .self => .error .xlate | .unit => .error .xlate | .engine => .error .xlate | .device => .error .xlate
  | .firmware => .error .xlate | .unmapped => .error .xlate

/-- A command as it is pushed. -/
def EngineCmd.pushed (number cluster : Nat) (pusher : Pusher) (pc : VAddr) (claim : Nat) (record : Rec)
    (seeds : Vector Word 16) : EngineCmd :=
  { number, cluster, pusher, pc, claim, record, seeds, started := false, vocab := none
    missing := false, refused := [], done := none, early := [], slow := false, pend := []
    next := 0, out := 0, flags := 0, scales := [], orphan := false }

/-- A byte as a command reads it: of a word it has read early, or memory's (08 R151). -/
def State.engByte (s : State) (x : EngineCmd) (a : Nat) : Byte :=
  match find? (wordAddr a) x.early with
  | some w => BitVec.ofNat 8 (w.toNat / 2 ^ (8 * (a % 8)))
  | none => readCell s.mem a

/-- `n` bytes read by a command. -/
def State.engRead (s : State) (x : EngineCmd) (va n : Nat) : Except EngStop (List Byte) := do
  let a ← s.engPlace x va n false
  match (wordsOf a n).find? (fun w => s.poisoned.contains w && (find? w x.early).isNone) with
  | some w => .error (.poisoned w)
  | none => .ok (if x.early.isEmpty then s.readBytes a n else (List.range n).map (fun i => s.engByte x (a + i)))

/-- A write of a command: a physical address, and bytes or one half of a byte. -/
inductive EngWrite where
  | bytes (a : Nat) (bs : List Byte)
  | nibble (a : Nat) (high : Bool) (x : Nat)
  deriving DecidableEq, Repr

/-- The cells of writes, the last of a byte kept. -/
def State.engCells (s : State) (ws : List EngWrite) : List (Nat × Byte) :=
  ws.foldl
    (fun m w =>
      match w with
      | .bytes a bs => (List.range bs.length).foldl (fun m i => insertKey (a + i) (bs[i]?.getD 0) m) m
      | .nibble a high x =>
        let old := ((find? a m).getD (readCell s.mem a)).toNat
        insertKey a (BitVec.ofNat 8 (if high then old % 16 + 16 * x else old / 16 * 16 + x)) m)
    []

/-- Cells written by an engine, each 8-byte word at once (09 R184); a power-gated cluster wakes for them. -/
def State.engWrite (s : State) (cs : List Host.Cell) : State :=
  (wordRuns cs).foldl (fun t r => (t.wakeAt r.1).writeBytes r.1 r.2) s

/-- A slot's words read ahead that a command has now written. -/
def Slot.noteCommand (t : Slot) (n : Nat) (cs : List Host.Cell) : Slot :=
  { t with
    early := t.early.map (fun x =>
      if cs.any (fun c => wordAddr c.1 == x.addr) then { x with cmds := n :: x.cmds } else x) }

/-- The slots of the core that will pop the element of a command note what it has written of the words they have read
ahead (08 R160). -/
def State.noteCommand (s : State) (x : EngineCmd) (cs : List Host.Cell) : State :=
  match x.pusher with
  | .slot c _ =>
    if recNotify x.record && (s.coreOf c).slots.toList.any (fun t => !t.early.isEmpty) then
      s.modCore c (fun y => { y with slots := y.slots.map (fun t => t.noteCommand x.number cs) })
    else s
  | .packet _ _ => s

/-- Words that a command has written, once its element is known. -/
def Slot.noteElement (t : Slot) (n : Nat) (w : Word) : Slot :=
  { t with early := t.early.map (fun x => if x.cmds.contains n then { x with stale := w :: x.stale } else x) }

/-- The element of command `n` goes toward q3. -/
def CoreState.noteElement (x : CoreState) (n : Nat) (w : Word) : CoreState :=
  if x.slots.toList.any (fun t => !t.early.isEmpty) then { x with slots := x.slots.map (fun t => t.noteElement n w) } else x

/-- The writes of a command performed. -/
def State.engCommit (s : State) (x : EngineCmd) (ws : List EngWrite) : State :=
  (s.noteCommand x (s.engCells ws)).engWrite (s.engCells ws)

/-- The writes of a command performed now, or kept to be performed word by word (08 R151). -/
def State.engOutput (s : State) (x : EngineCmd) (ws : List EngWrite) : State × List (List Host.Cell) :=
  if x.slow then (s, byWord (s.engCells ws)) else (s.engCommit x ws, [])

/-- A copy or lexicon command reads the word at a physical address early: a word of its claim's cores or a page. -/
def EngineCmd.readEarly (s : State) (x : EngineCmd) (a : Nat) : EngineCmd :=
  if x.done.isSome || s.poisonedIn (wordAddr a) 8 then x
  else { x with early := insertKey (wordAddr a) (s.readN (wordAddr a) 8) x.early }

/-- Both engines' commands with one updated. -/
def State.modCommand (s : State) (n : Nat) (f : EngineCmd → EngineCmd) : State :=
  { s with
    copies := replaceFirst (fun x => x.number == n) f s.copies
    lexicons := replaceFirst (fun x => x.number == n) f s.lexicons }

/-- One word of the results of a command written, after every earlier one of the same bytes. -/
def State.engineWriteAt (s : State) (n i : Nat) : State :=
  match (s.copies ++ s.lexicons).find? (fun x => x.number == n) with
  | some x =>
    match x.pend[i]? with
    | some g =>
      if (x.pend.take i).any (fun h => h.any (fun c => g.any (fun d => c.1 == d.1))) then s
      else ((s.noteCommand x g).engWrite g).modCommand n (fun y => { y with pend := dropAt y.pend i })
    | none => s
  | none => s

/-! ### The conversion of one unit (20 R311) -/

/-- Elements of a unit. -/
def copyUnit (r : Rec) : Nat :=
  let size (o : CopyOp) : Nat :=
    max (match o.tag with | some (b, _) => 2 ^ b | none => 1) (if o.scaled then 32 else 1)
  max (size (copySrc r)) (size (copyDst r))

/-- The bits move unchanged (20 R310). -/
def copyRaw (r : Rec) : Bool :=
  let a := (copySrc r).ptr
  let b := (copyDst r).ptr
  fatFmt a == fatFmt b && (fatFmt a == 0 || (fatBlk a == fatBlk b && fatSeed a == fatSeed b))

/-- Exponent of the highest bit of a finite number that is not 0. -/
def Num.top : Num → Option Int
  | .fin _ m e => if m = 0 then none else some (e + Nat.log2 m)
  | .inf _ => none
  | .nan _ => none

/-- Largest unbiased exponent of a scaled format's elements (05 R106). -/
def scaledEmax (f : Nat) : Int := if f = 10 then 2 else 2 ^ (7 - (b8Of f).p) - 1

/-- A block encoded with its scale byte (05 R106): each element's code and whether it is exact. -/
def encodeScaled (f : Nat) (x : List Num) : List (Nat × Bool) × Nat × Flags :=
  let special (v : Num) : Bool := match v with | .fin _ _ _ => false | .inf _ => true | .nan _ => true
  if x.any special then (x.map (fun v => (0, special v)), 0xFF, flagNV)
  else
    match x.filterMap Num.top with
    | [] => (x.map (fun _ => (0, true)), 0, 0)
    | t :: ts =>
      let e : Int := max (-127) (min 127 (ts.foldl max t - scaledEmax f))
      let (l, g) := unzipFlags (x.map (fun v =>
        let w := v.scale (-e)
        let (c, g) := fmtEncode f .rne w
        ((c, fmtExact f w c), g)))
      (l, (e + 127).toNat, g)

/-- A unit encoded: codes with exactness, scale bytes and flags. -/
def encodeUnit (f : Nat) (x : List Num) : List (Nat × Bool) × List Nat × Flags :=
  if fmtScaled f then
    let parts := (chunks 32 x.length x).map (encodeScaled f)
    (parts.flatMap (·.1), parts.map (·.2.1), orFlags (parts.map (·.2.2)))
  else
    let (l, g) := unzipFlags (x.map (fun v =>
      let (c, g) := fmtEncode f .rne v
      ((c, fmtExact f v c), g)))
    (l, [], g)

/-- What a unit yields: its writes, scale bytes and flags, or the error that ends the command. -/
inductive UnitRes where
  | ok (ws : List EngWrite) (scales : List Byte) (f : Flags)
  | fails (err value : Nat) (f : Flags)
  | stop (x : EngStop)
  deriving DecidableEq, Repr

/-- The source code of element `e`. -/
def State.copyRead (s : State) (x : EngineCmd) (e : Nat) : Except EngStop Nat := do
  let o := copySrc x.record
  let bs ← s.engRead x (o.addr x.record e).toNat o.size
  let c := leNat bs
  .ok (if o.bits = 4 then c / 2 ^ (4 * (e % copyN0 x.record % 2)) % 16 else c)

/-- The scale exponent of element `e` of a scaled source. -/
def State.copyReadScale (s : State) (x : EngineCmd) (hem : List Byte) (e : Nat) : Except EngStop (Option Int) :=
  if copyIsHem x.record then .ok (scaleOf ((hem[e / 32]?).getD 0xFF).toNat)
  else do
    let bs ← s.engRead x (bits (copyScale x.record) 0 48 + e / 32) 1
    .ok (scaleOf (leNat bs))

/-- The source elements of a unit as codes and values; the first that cannot be read. -/
def State.copyReads (s : State) (x : EngineCmd) (hem : List Byte) : List Nat →
    Except (EngStop × Nat) (List (Nat × Num))
  | [] => .ok []
  | e :: es => do
    let f := (copySrc x.record).fmt
    let c ← match s.copyRead x e with
      | .ok c => .ok c
      | .error z => .error (z, e)
    let v ←
      if fmtScaled f && !copyRaw x.record then
        match s.copyReadScale x hem e with
        | .ok (some k) => .ok ((fmtRead f c).scale k)
        | .ok none => .ok (.nan false)
        | .error z => .error (z, e)
      else .ok (fmtRead f c)
    let l ← s.copyReads x hem es
    .ok ((c, v) :: l)

/-- Writes of a unit's elements; the first that cannot be written. -/
def State.copyWrites (s : State) (x : EngineCmd) : List (Nat × Nat) → Except (EngStop × Nat) (List EngWrite)
  | [] => .ok []
  | (e, c) :: l => do
    let o := copyDst x.record
    let a ← match s.engPlace x (o.addr x.record e).toNat o.size true with
      | .ok a => .ok a
      | .error z => .error (z, e)
    let ws ← s.copyWrites x l
    .ok ((if o.bits = 4 then .nibble a (e % copyN0 x.record % 2 == 1) c else .bytes a (leBytes o.size c)) :: ws)

/-- Writes of the scale bytes of a unit that starts at `u`. -/
def State.copyScaleWrites (s : State) (x : EngineCmd) (u : Nat) : List Nat → Except (EngStop × Nat) (List EngWrite)
  | [] => .ok []
  | b :: l => do
    let a ← match s.engPlace x (bits (copyScale x.record) 0 48 + u / 32) 1 true with
      | .ok a => .ok a
      | .error z => .error (z, u)
    let ws ← s.copyScaleWrites x (u + 32) l
    .ok (.bytes a [BitVec.ofNat 8 b] :: ws)

/-- An access that fails at element `e`: XLATE with VALUE e, or what ends or delays the command. -/
def unitStop (f : Flags) (p : EngStop × Nat) : UnitRes :=
  match p.1 with
  | .xlate => .fails 2 p.2 f
  | .miss va w => .stop (.miss va w)
  | .refused d w => .stop (.refused d w)
  | .poisoned w => .stop (.poisoned w)
  | .reserved va => .stop (.reserved va)

/-- One unit of a copy, from element `u` on. A short last block is scaled over the elements it has and writes those alone:
its absent positions lie outside the destination range, whose bytes 09 R184 leaves unchanged, and an operand that is read
past its last element finds the zero codes of 05 R106 there, since no element is (log 100). -/
def State.copyOne (s : State) (x : EngineCmd) (hem : List Byte) (u : Nat) (f0 : Flags) : UnitRes :=
  let r := x.record
  let a := copySrc r
  let b := copyDst r
  let es := (List.range (min (copyUnit r) (copyCount r - u))).map (u + ·)
  match s.copyReads x hem es with
  | .error p => unitStop f0 p
  | .ok cv =>
    let raw := copyRaw r
    let (vals, g) :=
      if raw then ([], 0) else retag x.seeds (fmtInt a.fmt && fmtInt b.fmt) .rne a.tag b.tag (cv.map (·.2))
    let (codes, scales, h) := if raw then (cv.map (fun p => (p.1, true)), [], 0) else encodeUnit b.fmt vals
    let f := f0 ||| g ||| h
    match (if fmtNarrow b.fmt && b.tag.isNone then firstInexact codes else none) with
    | some i => .fails 3 (u + i) f
    | none =>
      match s.copyWrites x (es.zip (codes.map (·.1))) with
      | .error p => unitStop f p
      | .ok ws =>
        if copyIsHem r then .ok ws (scales.map (BitVec.ofNat 8)) f
        else
          match s.copyScaleWrites x u scales with
          | .error p => unitStop f p
          | .ok vs => .ok (ws ++ vs) (scales.map (BitVec.ofNat 8)) f

/-- How far a copy comes: its writes, scale bytes and flags, the error and VALUE of its element, the element it goes on
with, and what delays or ends it there. -/
structure CopyEnd where
  writes : List EngWrite
  scales : List Byte
  err : Nat
  value : Nat
  flags : Flags
  next : Nat
  stop : Option EngStop
  deriving DecidableEq, Repr

/-- At most `n` units of a copy in ascending order, every source read as the memory stands. A unit that an access stops
leaves those before it as they are (20 R311, R313). -/
def State.copyUnits (s : State) (x : EngineCmd) (hem : List Byte) : Nat → Nat → CopyEnd → CopyEnd
  | 0, u, z => { z with value := copyCount x.record, next := u }
  | n + 1, u, z =>
    if copyCount x.record ≤ u then { z with value := copyCount x.record, next := u }
    else
      match s.copyOne x hem u z.flags with
      | .ok ws sc f =>
        s.copyUnits x hem n (u + copyUnit x.record)
          { z with writes := z.writes ++ ws, scales := z.scales ++ sc, flags := f }
      | .fails err v f => { z with err := err, value := v, flags := f, next := u }
      | .stop y => { z with next := u, stop := some y }

/-- Units that one occurrence of the row runs: all of them, or one where the command runs in pieces; two where they share a
byte. -/
def copyPieces (x : EngineCmd) : Nat :=
  if x.slow then (if (copyDst x.record).bits = 4 ∧ copyUnit x.record = 1 then 2 else 1) else copyCount x.record

/-! ### The engine (09 R184) -/

/-- The state with an engine command updated. -/
def State.modCopy (s : State) (n : Nat) (f : EngineCmd → EngineCmd) : State :=
  { s with copies := replaceFirst (fun x => x.number == n) f s.copies }

/-- The core whose hem buffer and logical number a command uses: the pushing one, or for a packet the firmware core of the
cluster's row (log 20). -/
def EngineCmd.home (x : EngineCmd) : Nat :=
  match x.pusher with
  | .slot c _ => c
  | .packet _ _ => coreAt 0 (rowOf (homeOf x.cluster))

/-- The command runs now: it has not run, no page is awaited, its core is not stopped, and no quantum end runs it (12
R239). -/
def State.engReady (s : State) (x : EngineCmd) : Bool :=
  x.done.isNone && !x.missing &&
  (x.orphan ||
   match x.pusher with
   | .slot c _ => !s.frozen c && !s.isDet c
   | .packet _ _ => true)

/-- Element of an engine command. -/
def EngineCmd.element (x : EngineCmd) (err : Nat) (f : Flags) (value : Nat) : Word :=
  Sys2Proof.Machine.element (recTag x.record) (recCode x.record) err false f value

/-- What stops a command outside its element: a miss reported; a launch ended; a packet that will abort, or a command whose
launch has ended already. -/
def State.engHalt (s : State) (x : EngineCmd) (m : MissOf) (mod : State → (EngineCmd → EngineCmd) → State)
    (y : EngStop) : State :=
  let abort (t : State) : State := mod t (fun z => { z with done := some (x.element 2 0 0) })
  let fault (t : State) (z : Trap) : State :=
    match x.pusher, x.orphan with
    | .slot c k, false => t.engineFault c k x.pc z
    | _, _ => abort (if z.code = 0x0F then { t with checks := t.checks + 1 } else t)
  match y with
  | .miss va w => mod { s with misses := s.misses ++ [⟨m, x.claim, va, w, x.pc⟩] } (fun z => { z with missing := true })
  | .xlate => mod s (fun z => { z with done := some (x.element 2 0 0) })
  | .refused d w => fault (s.report .remoteRefused) ⟨0x04, if w then 1 else 0, word d⟩
  | .poisoned w => fault s (machineTrap w)
  | .reserved va => fault s ⟨0x05, 0, word va⟩

/-- A copy command runs, the whole of it or a piece (20 R311, R312). What it has written before an access that stops it
stays, and it goes on there once the page has come. -/
def State.copyRun (s : State) (x : EngineCmd) : Option State :=
  let r := x.record
  let h := x.home
  let fromHem := copyIsHem r && (copySrc r).scaled
  let check : HemState := if fromHem then (s.coreOf h).hemCheck (copyHsrc r) (copySeq r) else .ready
  match check with
  | .absent =>
    if x.orphan then some (s.modCopy x.number (fun z => { z with done := some (x.element 1 0 0) })) else none
  | .mismatch src found expect =>
    some ((s.modCore h (fun y => y.hemMismatch src found expect)).modCopy x.number
      (fun z => { z with done := some (x.element 1 0 0) }))
  | .ready =>
    let hem := if fromHem then (((s.coreOf h).hemFrom (copyHsrc r)).map (·.bytes)).getD [] else []
    let z := s.copyUnits x hem (copyPieces x) x.next ⟨[], x.scales, 0, 0, x.flags, x.next, none⟩
    let (s0, pend) := s.engOutput x z.writes
    let s1 := s0.modCopy x.number (fun y =>
      { y with pend := y.pend ++ pend, next := z.next, flags := z.flags, scales := z.scales })
    match z.stop with
    | some y => some (s1.engHalt x (.copyCmd x.number) (fun t f => t.modCopy x.number f) y)
    | none =>
      if z.err = 0 ∧ z.next < copyCount r then some s1
      else
        let s2 := if fromHem then s1.modCore h (fun y => y.hemFree (copyHsrc r)) else s1
        let s3 : State :=
          if copyIsHem r && (copyDst r).scaled && z.err == 0 && !x.orphan then
            { s2 with
              hems := s2.hems ++ [⟨((s2.claim? x.claim).map (fun c => c.rect.coreOf (sliceOf (fatVa (copyDst r).ptr)))).getD 0,
                ⟨s2.logical h, copySeq r, z.scales⟩, x.claim, x.number⟩] }
          else s2
        some (s3.modCopy x.number (fun y => { y with done := some (x.element z.err z.flags z.value) }))

/-- Commands of a cluster's copy engine that run: at most eight (09 R184). -/
def State.copyRunning (s : State) (cl : Nat) : Nat :=
  (s.copies.filter (fun x => x.cluster == cl && x.started && x.done.isNone)).length

/-- A core's commands start in push order. -/
def State.copyMayStart (s : State) (x : EngineCmd) : Bool :=
  x.started ||
  (decide (s.copyRunning x.cluster < 8) &&
   !s.copies.any (fun y => y.cluster == x.cluster && y.home == x.home && decide (y.number < x.number) && !y.started))

/-- The copy command of number `n` runs, if it is of code `code`. One that runs in pieces starts in an occurrence of its own,
so that the commands that run may come between (09 R184). -/
def State.copyStep (s : State) (n code : Nat) : Option State :=
  match s.copies.find? (fun x => x.number == n) with
  | some x =>
    if recCode x.record == code && s.engReady x && s.copyMayStart x then
      let s1 := s.modCopy n (fun y => { y with started := true })
      if x.slow && !x.started then some s1 else some ((s1.copyRun { x with started := true }).getD s1)
    else none
  | none => none

/-- COPY (20 R311). -/
def execCopy (n : Nat) (s : State) : Outcome := s.event (s.copyStep n 0x10)
/-- COPYH (20 R312). -/
def execCopyh (n : Nat) (s : State) : Outcome := s.event (s.copyStep n 0x11)

/-! ### Completion (09 R176, 20 R313) -/

/-- Elements waiting in the engines' buffers enter q3 while it has room: the copy engine's before the lexicon engine's
(log 105, the model's choice). -/
def CoreState.fillQ3 (x : CoreState) : CoreState :=
  let room := portDepth 3 - (x.port 3).length
  let a := x.copyBuf.take room
  let b := x.lexBuf.take (room - a.length)
  { x.setPort 3 (x.port 3 ++ a ++ b) with copyBuf := x.copyBuf.drop a.length, lexBuf := x.lexBuf.drop b.length }

/-- A command of a slot leaves the copy engine: it counts, and its element goes toward q3. -/
def CoreState.copyEnd (x : CoreState) (r : Rec) (w : Word) : CoreState :=
  ({ x with copyDone := x.copyDone + 1, copyBuf := if recNotify r then x.copyBuf ++ [w] else x.copyBuf }.fillQ3).noteError
    w

/-- A COPY packet ends with its command (12 R224). -/
def State.packetEnd (s : State) (q n : Nat) (w : Word) : State :=
  if elementErr w = 0 then s.completePacket q n else s.abortPacket q n

/-- The first command that has run, its writes performed, and was pushed by the core or, for a firmware core, by a packet.
A turn decides which of several comes first (09 R184). -/
def endedOf (c : Nat) (l : List EngineCmd) : Option EngineCmd := l.find? (fun x => x.written && x.home == c)

/-- A completed copy command goes ahead of the others that wait to report. -/
def State.finishFirst (s : State) (n : Nat) : State :=
  match s.copies.find? (fun x => x.number == n && x.done.isSome) with
  | some x => { s with copies := x :: s.copies.filter (fun y => y.number != n) }
  | none => s

/-- The scale tile of a COPYH has not entered the hem buffer of its destination: the command stalls (06 R129). -/
def State.tileWaits (s : State) (n : Nat) : Bool := s.hems.any (fun h => h.number == n)

/-- COPY_COMPLETION: a command of the core that has run leaves the engine; its element needs room in the core's buffer of
four. -/
def State.copyCompletion (s : State) (c : Nat) : Option State :=
  match endedOf c s.copies with
  | some x =>
    match x.done with
    | some w =>
      let s1 : State := { s with copies := s.copies.filter (fun y => y.number != x.number) }
      match x.pusher with
      | .packet q n => if s.tileWaits x.number then none else some (s1.packetEnd q n w)
      | .slot _ _ =>
        if x.orphan then some (s1.commandClosed x.number)
        else if s.tileWaits x.number then none
        else if recNotify x.record && decide (4 ≤ (s.coreOf c).fillQ3.copyBuf.length) then none
        else some (s1.modCore c (fun y => (y.fillQ3.copyEnd x.record w).noteElement x.number w))
    | none => none
  | none => none

/-- COPY_COMPLETION. -/
def execCopyCompletion (c : Nat) (s : State) : Outcome := s.event (s.copyCompletion c)

/-! ### The hem (06 R129) -/

/-- HEM_TILE_ARRIVAL: a scale tile enters the destination's buffer of 16, after every earlier one from the same source and
once the data writes of its COPYH are performed; the destination's router drops one of another claim (01 R13), and a
destination whose context is saved receives it after its resume. -/
def State.hemArrival (s : State) (n : Nat) : Option State :=
  match s.hems[n]? with
  | some h =>
    if (s.hems.take n).any (fun y => y.dst == h.dst && y.tile.src == h.tile.src) then none
    else if s.copies.any (fun x => x.number == h.number && !x.pend.isEmpty) then none
    else if !s.routerBit h.dst h.claim then some ({ s with hems := dropAt s.hems n }.report .remoteRefused)
    else if s.away h.dst || decide (16 ≤ (s.coreOf h.dst).hem.length) then none
    else some ({ s with hems := dropAt s.hems n }.modCore h.dst (fun x => { x with hem := x.hem ++ [h.tile] }))
  | none => none

/-- HEM_TILE_ARRIVAL. -/
def execHemTileArrival (n : Nat) (s : State) : Outcome := s.event (s.hemArrival n)

end Sys2Proof.Machine
end

