-- ==== Sys2Proof/Machine/Lexicon.lean ====
section
/-! DEFINITION. The lexicon engine (09 R186-R188, 21 R337-R341) and EPUSH (20 R322, R323, 03 R68-R70). -/

namespace Sys2Proof.Machine

/-! ### Records (21 R337, R338) -/

/-- CTL of a lexicon record. -/
def lexCtl (r : Rec) : Bool := recField r 9 1 % 2 == 1
/-- IN. -/
def lexIn (r : Rec) : Nat := bits (recWord r 16) 0 48
/-- COUNT. -/
def lexCount (r : Rec) : Nat := recField r 24 8
/-- OUT. -/
def lexOut (r : Rec) : Nat := bits (recWord r 32) 0 48
/-- CAP. -/
def lexCap (r : Rec) : Nat := recField r 40 8
/-- LEXD. -/
def lexDecodes (r : Rec) : Bool := recCode r == 0x21

/-- The checks of a lexicon record's body. -/
def State.lexChecks (s : State) (claim : Nat) (r : Rec) : Except Stop Unit := do
  let d := lexDecodes r
  illegalIf (!fatOk (recWord r 16) || !fatOk (recWord r 32)) 0
  illegalIf (recField r 10 6 != 0 || recField r 48 16 != 0 || recField r 9 1 / 2 != 0 || decide (15 < recField r 8 1)) 0
  illegalIf (decide (2 ^ 32 ≤ lexCount r) || decide (2 ^ 32 ≤ lexCap r)) 0
  illegalIf (bits (recWord r 16) 48 16 != 0 || bits (recWord r 32) 48 16 != 0) 0
  illegalIf (lexCtl r && (d || !((s.claim? claim).any (·.ctltok)))) 0
  illegalIf (d && lexIn r % 4 != 0) (word (lexIn r))
  illegalIf (!d && lexOut r % 4 != 0) (word (lexOut r))
  let a := if d then 4 * lexCount r else lexCount r
  let b := if d then lexCap r else 4 * lexCap r
  s.engineRange claim (lexIn r) (lexIn r + (max a 1 - 1 : Nat)) (lexIn r) 0
  s.engineRange claim (lexOut r) (lexOut r + (max b 1 - 1 : Nat)) (lexOut r) 1

/-! ### Tokens -/

/-- The spelling of a token id; none outside the vocabulary (09 R186, R410). -/
def Vocab.spelling (v : Vocab) (id : Nat) : Option (List Byte) :=
  if id < 256 then some [BitVec.ofNat 8 id] else (v.tokens[id - 256]?).map (·.1)

/-- The longest spelling of a vocabulary. -/
def Vocab.reach (v : Vocab) : Nat := v.tokens.foldl (fun n t => max n t.1.length) 1

/-- The token whose spelling is the longest prefix of the bytes, with its length (09 R187). -/
def Vocab.longest (v : Vocab) (ctl : Bool) (w : List Byte) : Nat × Nat :=
  ((List.range v.tokens.length).zip v.tokens).foldl
    (fun best p =>
      if (ctl || !p.2.2) && p.2.1.isPrefixOf w && decide (best.2 < p.2.1.length) then (256 + p.1, p.2.1.length) else best)
    ((w.headD 0).toNat, 1)

/-! ### Runs (21 R339, R340) -/

/-- How far a lexicon command comes: its writes, the error and VALUE of its element if it is complete, the input and output
items it goes on with, and what delays or ends it there. -/
structure LexEnd where
  writes : List EngWrite
  err : Nat
  value : Nat
  complete : Bool
  next : Nat
  out : Nat
  stop : Option EngStop
  deriving DecidableEq, Repr

/-- Input bytes from `i` on, at most `n`; the first that cannot be read. -/
def State.lexWindow (s : State) (x : EngineCmd) (i : Nat) : Nat → Except (EngStop × Nat) (List Byte)
  | 0 => .ok []
  | n + 1 => do
    let b ← match s.engRead x (lexIn x.record + i) 1 with
      | .ok b => .ok (b.headD 0)
      | .error z => .error (z, i)
    let bs ← s.lexWindow x (i + 1) n
    .ok (b :: bs)

/-- Writes of bytes, each checked; item `j` is reported. -/
def State.lexWrites (s : State) (x : EngineCmd) (j va : Nat) : List Byte → Except (EngStop × Nat) (List EngWrite)
  | [] => .ok []
  | b :: bs => do
    let a ← match s.engPlace x va 1 true with
      | .ok a => .ok a
      | .error z => .error (z, j)
    let ws ← s.lexWrites x j (va + 1) bs
    .ok (.bytes a [b] :: ws)

/-- A command that is over. -/
def lexOver (ws : List EngWrite) (err value i o : Nat) : LexEnd := ⟨ws, err, value, true, i, o, none⟩

/-- A command stopped at input item `i` and output item `o` by an access: XLATE, or what ends or delays it. What it has
written stays written (21 R341). -/
def lexStop (ws : List EngWrite) (i o : Nat) (p : EngStop × Nat) : LexEnd :=
  match p.1 with
  | .xlate => lexOver ws 2 p.2 i o
  | .miss va w => ⟨ws, 0, 0, false, i, o, some (.miss va w)⟩
  | .refused d w => ⟨ws, 0, 0, false, i, o, some (.refused d w)⟩
  | .poisoned w => ⟨ws, 0, 0, false, i, o, some (.poisoned w)⟩
  | .reserved va => ⟨ws, 0, 0, false, i, o, some (.reserved va)⟩

/-- LEXE from input byte `i` and output token `o` on, at most `n` tokens. -/
def State.lexEncode (s : State) (x : EngineCmd) (v : Vocab) : Nat → Nat → Nat → List EngWrite → LexEnd
  | 0, i, o, ws => ⟨ws, 0, o, decide (lexCount x.record ≤ i), i, o, none⟩
  | n + 1, i, o, ws =>
    let r := x.record
    if lexCount r ≤ i then lexOver ws 0 o i o
    else
      match s.lexWindow x i (min v.reach (lexCount r - i)) with
      | .error p => lexStop ws i o p
      | .ok w =>
        let (t, len) := v.longest (lexCtl r) w
        if o = lexCap r then lexOver ws 4 i i o
        else
          match s.engPlace x (lexOut r + 4 * o) 4 true with
          | .error z => lexStop ws i o (z, i)
          | .ok a => s.lexEncode x v n (i + len) (o + 1) (ws ++ [.bytes a (leBytes 4 t)])

/-- LEXD from input token `j` and output byte `o` on, at most `n` tokens. -/
def State.lexDecode (s : State) (x : EngineCmd) (v : Vocab) : Nat → Nat → Nat → List EngWrite → LexEnd
  | 0, j, o, ws => ⟨ws, 0, o, decide (lexCount x.record ≤ j), j, o, none⟩
  | n + 1, j, o, ws =>
    let r := x.record
    if lexCount r ≤ j then lexOver ws 0 o j o
    else
      match s.engRead x (lexIn r + 4 * j) 4 with
      | .error z => lexStop ws j o (z, j)
      | .ok bs =>
        match v.spelling (leNat bs) with
        | none => lexOver ws 5 j j o
        | some sp =>
          if lexCap r < o + sp.length then lexOver ws 4 o j o
          else
            match s.lexWrites x j (lexOut r + o) sp with
            | .error p => lexStop ws j o p
            | .ok us => s.lexDecode x v n (j + 1) (o + sp.length) (ws ++ us)

/-- The state with a lexicon command updated. -/
def State.modLex (s : State) (n : Nat) (f : EngineCmd → EngineCmd) : State :=
  { s with lexicons := replaceFirst (fun x => x.number == n) f s.lexicons }

/-- The vocabulary a command uses: the one it began with. -/
def State.lexVocab (s : State) (x : EngineCmd) : Option Vocab :=
  if x.started then x.vocab
  else (s.claim? x.claim).bind (fun c => c.vocabs.find? (fun v => v.id == recField x.record 8 1))

/-- A lexicon command runs, the whole of it or one token. What it has written before an access that stops it stays, and it
goes on there once the page has come. -/
def State.lexRun (s : State) (x : EngineCmd) : State :=
  let r := x.record
  match x.vocab with
  | none => s.modLex x.number (fun y => { y with done := some (x.element 6 0 0) })
  | some v =>
    let n := if x.slow then 1 else lexCount r
    let z := if lexDecodes r then s.lexDecode x v n x.next x.out [] else s.lexEncode x v n x.next x.out []
    let (s0, pend) := s.engOutput x z.writes
    let s1 := s0.modLex x.number (fun y => { y with pend := y.pend ++ pend, next := z.next, out := z.out })
    match z.stop with
    | some y => s1.engHalt x (.lexCmd x.number) (fun t f => t.modLex x.number f) y
    | none =>
      if z.complete then s1.modLex x.number (fun y => { y with done := some (x.element z.err 0 z.value) }) else s1

/-- The command belongs to a deterministic launch, whose quantum ends run it (12 R239). -/
def State.detOwned (s : State) (x : EngineCmd) : Bool :=
  match x.pusher with
  | .slot c _ => s.isDet c && !x.orphan
  | .packet _ _ => false

/-- The cluster's engine serves its oldest command, if it is of code `code`; the next one begins once all that an earlier
one writes is written (09 R186, 21 R341). -/
def State.lexStep (s : State) (cl code : Nat) : Option State :=
  match s.lexicons.find? (fun x => x.cluster == cl && !x.written && !s.detOwned x) with
  | some x =>
    if recCode x.record == code && s.engReady x then
      let y : EngineCmd := { x with started := true, vocab := s.lexVocab x }
      some ((s.modLex x.number (fun _ => y)).lexRun y)
    else none
  | none => none

/-- LEXE (21 R339). -/
def execLexe (cl : Nat) (s : State) : Outcome := s.event (s.lexStep cl 0x20)
/-- LEXD (21 R340). -/
def execLexd (cl : Nat) (s : State) : Outcome := s.event (s.lexStep cl 0x21)

/-- A command of a slot leaves the lexicon engine. -/
def CoreState.lexEnd (x : CoreState) (r : Rec) (w : Word) : CoreState :=
  ({ x with lexDone := x.lexDone + 1, lexBuf := if recNotify r then x.lexBuf ++ [w] else x.lexBuf }.fillQ3).noteError w

/-- LEXICON_COMPLETION (21 R341); a command whose launch has ended by a fault reports nothing. -/
def State.lexCompletion (s : State) (c : Nat) : Option State :=
  match endedOf c s.lexicons with
  | some x =>
    match x.done with
    | some w =>
      let s1 : State := { s with lexicons := s.lexicons.filter (fun y => y.number != x.number) }
      if x.orphan then some (s1.commandClosed x.number)
      else if recNotify x.record && decide (4 ≤ (s.coreOf c).fillQ3.lexBuf.length) then none
      else some (s1.modCore c (fun y => (y.fillQ3.lexEnd x.record w).noteElement x.number w))
    | none => none
  | none => none

/-- LEXICON_COMPLETION. -/
def execLexiconCompletion (c : Nat) (s : State) : Outcome := s.event (s.lexCompletion c)

/-! ### EPUSH (20 R322, R323) -/

/-- The engine number of a command code; none for a reserved code (03 R69). -/
def engineOf (code : Nat) : Option Nat :=
  if 1 ≤ code ∧ code ≤ 4 then some 0
  else if code = 0x10 ∨ code = 0x11 then some 1
  else if code = 0x20 ∨ code = 0x21 then some 2
  else none

/-- The header breaks 03 R68 or R70. -/
def headerBad (n : Nat) (r : Rec) : Bool :=
  engineOf (recCode r) != some n || recField r 1 1 / 8 != 0 || recField r 4 4 != 0

/-- The engine has room for one more command of the core (09 R169, R176, R184). How many lexicon commands of a core make its
queue full is not stated: the model lets any number wait, and holds EPUSH only while the core's four elements that wait for
q3 are there (log 113, the model's choice). -/
def State.engineRoom (s : State) (n : Nat) : Bool :=
  let c := s.cur.core
  let x := s.myCore
  match n with
  | 0 => decide (x.mxQueue.length < 4)
  | 1 => decide ((s.copies.filter (fun y => y.ofCore c)).length < 4) && decide (x.copyBuf.length < 4)
  | _ => decide (x.lexBuf.length < 4)

/-- A command of the slot of the step. -/
def State.newCommand (s : State) (r : Rec) : EngineCmd :=
  EngineCmd.pushed s.fresh (clusterOf s.cur.core) (.slot s.cur.core s.cur.slot.val) s.me.pc (s.claimId s.cur.core) r
    (s.seedsOf s.cur.core)

/-- The record enters its engine. -/
def State.acceptCommand (s : State) (n : Nat) (r : Rec) : State :=
  match n with
  | 0 => s.modMyCore (fun x => x.mxAccept ⟨r, s.cur.slot.val, s.me.pc, []⟩)
  | 1 => { s with fresh := s.fresh + 1, copies := s.copies ++ [s.newCommand r] }
  | _ => { s with fresh := s.fresh + 1, lexicons := s.lexicons ++ [s.newCommand r] }

/-- Every check of a record that names engine `n`. -/
def State.recordChecks (s : State) (n : Nat) (r : Rec) : Except Stop Unit := do
  illegalIf (headerBad n r) 0
  match n with
  | 0 => s.mxChecks r
  | 1 => s.copyChecks (s.claimId s.cur.core) (s.seedsOf s.cur.core) r
  | _ => s.lexChecks (s.claimId s.cur.core) r

/-- EPUSH. -/
def execEpush (n : Fin 3) (b : GReg) (s : State) : Outcome :=
  s.finish (do
    s.ports [b] []
    let (p, s1) := s.readG b
    illegalIf (p.toNat % 64 != 0 || decide (0xFFFC0 < p.toNat)) p
    s.afterVector
    let bs ← s.selfBytes p.toNat 64
    let r := recOf bs
    s.recordChecks n.val r
    s.release
    match s.residentOf s.cur.core with
    | some l =>
      if l.det && n != 0 then .ok (s1.addTask l (.epush n.val r))
      else do
        holdIf (!s.engineRoom n.val)
        .ok (s1.acceptCommand n.val r)
    | none => do
      holdIf (!s.engineRoom n.val)
      .ok (s1.acceptCommand n.val r))

end Sys2Proof.Machine
end

