-- ==== Sys2Proof/Machine/Units.lean ====
section
/-! DEFINITION. Requests as they reach other agents: cluster event units (02 R22-R24), power gating (08 R163, 14 R261),
remote accesses (07 R140), and the page-fault service (07 R144-R146). -/

namespace Sys2Proof.Machine

/-! ### Sets of an event unit (02 R24) -/

/-- A set as a group finds it. -/
def UnitSet.fresh (cl : Nat) (g : Option (Nat × Nat)) : UnitSet :=
  ⟨cl, g, Vector.replicate 16 none, Vector.replicate 16 false, Vector.replicate 4 ⟨0, 0, []⟩⟩

/-- The set that serves a core. -/
def State.unitOf (s : State) (c : Nat) : UnitSet :=
  let g := (s.coreOf c).resident
  (s.units.find? (fun u => u.cluster == clusterOf c && u.group == g)).getD (UnitSet.fresh (clusterOf c) g)

/-- The state with a set replaced. -/
def State.setUnit (s : State) (u : UnitSet) : State :=
  { s with units := u :: s.units.filter (fun x => !(x.cluster == u.cluster && x.group == u.group)) }

/-- A load's value on its way back to its slot. -/
def State.reply (s : State) (c k : Nat) (v : Word) : State :=
  s.modSlot c k (fun t => if t.wait == .request then { t with wait := .reply v } else t)

/-- The requests that share the set of core `c` and wait at offset `o`, oldest first. -/
def State.waitersAt (s : State) (c o : Nat) : List UnitReq :=
  s.unitReqs.filter (fun r => r.waiting && r.off == o && clusterOf r.core == clusterOf c &&
    (s.coreOf r.core).resident == (s.coreOf c).resident)

/-- Waiting requests served with a value. -/
def State.release' (s : State) (rs : List UnitReq) (v : Word) : State :=
  rs.foldl
    (fun t r => { t with unitReqs := t.unitReqs.filter (fun x => x != r) }.reply r.core r.slot v) s

/-- A cluster barrier that has enough arrivals releases them (02 R22). -/
def State.openBarrier (s : State) (c : Nat) (b : Nat) : State :=
  let u := s.unitOf c
  let x := vget u.barriers b ⟨0, 0, []⟩
  if x.count ≠ 0 ∧ x.count ≤ x.waiters.length then
    let s1 := x.waiters.foldl (fun t w => t.reply w.1 w.2 (x.gen.setWidth 64)) s
    s1.setUnit { u with barriers := vset u.barriers b ⟨x.count, x.gen + 1, []⟩ }
  else s

/-- A store to an item of the unit of core `c` (02 R22). -/
def State.unitStore (s : State) (c o : Nat) (v : Word) : State :=
  let u := s.unitOf c
  let i := o / 8 % 16
  if o < 0x80 then
    (s.setUnit { u with lines := vset u.lines i (some v) }).release' (s.waitersAt c o) v
  else if o < 0x100 then s.setUnit { u with lines := vset u.lines i none }
  else if o < 0x180 then
    match s.waitersAt c o with
    | r :: _ => (s.setUnit { u with mutexes := vset u.mutexes i true }).release' [r] 1
    | [] => s.setUnit { u with mutexes := vset u.mutexes i false }
  else
    let b := i % 4
    let x := vget u.barriers b ⟨0, 0, []⟩
    if 1 ≤ v.toNat ∧ v.toNat ≤ 64 then
      (s.setUnit { u with barriers := vset u.barriers b { x with count := v.toNat } }).openBarrier c b
    else
      (x.waiters.foldl (fun t w => t.reply w.1 w.2 minusOne) s).setUnit
        { u with barriers := vset u.barriers b ⟨0, x.gen, []⟩ }

/-- A load of an item by a slot: its value and the state after it; none where it blocks. -/
def State.unitLoad (s : State) (c o : Nat) : Option (Word × State) :=
  let u := s.unitOf c
  let i := o / 8 % 16
  if o < 0x80 then (vget u.lines i none).map (fun v => (v, s))
  else if o < 0x100 then some (if (vget u.lines i none).isSome then 1 else 0, s)
  else if o < 0x180 then
    (if vget u.mutexes i false then none else some (1, s.setUnit { u with mutexes := vset u.mutexes i true }))
  else if (vget u.barriers (i % 4) ⟨0, 0, []⟩).count = 0 then some (minusOne, s)
  else none

/-- A load that blocks arrives at a barrier; at a line or mutex it waits in the order it came. -/
def State.unitBlock (s : State) (r : UnitReq) : State :=
  if 0x180 ≤ r.off then
    let u := s.unitOf r.core
    let b := r.off / 8 % 4
    let x := vget u.barriers b ⟨0, 0, []⟩
    (s.setUnit { u with barriers := vset u.barriers b { x with waiters := x.waiters ++ [(r.core, r.slot)] } }).openBarrier
      r.core b
  else { s with unitReqs := s.unitReqs ++ [{ r with waiting := true }] }

/-- A request that has reached its unit takes place there. -/
def State.unitServe (s : State) (r : UnitReq) : State :=
  match r.data with
  | some v => s.unitStore r.core r.off v
  | none =>
    match s.unitLoad r.core r.off with
    | some (v, s1) => s1.reply r.core r.slot v
    | none => s.unitBlock r

/-- A write to a power-gated cluster goes into the one-deep wake latch of its router, if that is empty (08 R163). -/
def State.latchWrite (s : State) (cl : Nat) (w : Latched) : Option State :=
  if s.latches.any (fun x => x.1 == cl) then none else some { s with latches := s.latches ++ [(cl, w)] }

/-- The oldest request of a slot reaches its unit, if `p` holds of it; a write to a power-gated cluster goes into the wake
latch, and a load waits for the power. -/
def State.unitEvent (s : State) (c k : Nat) (p : UnitReq → Bool) : Option State :=
  match s.unitReqs.find? (fun r => r.core == c && r.slot == k && !r.waiting) with
  | some r =>
    let cl := clusterOf c
    let s1 : State := { s with unitReqs := dropFirst (fun x => x == r) s.unitReqs }
    if !p r then none
    else if s.gated.contains cl then (if r.data.isSome then s1.latchWrite cl (.unit r) else none)
    else some (s1.unitServe r)
  | none => none

/-- A store to an item of an offset range. -/
def storeIn (lo hi : Nat) (r : UnitReq) : Bool := r.data.isSome && decide (lo ≤ r.off) && decide (r.off < hi)
/-- A load of an item of an offset range. -/
def loadIn (lo hi : Nat) (r : UnitReq) : Bool := r.data.isNone && decide (lo ≤ r.off) && decide (r.off < hi)

/-- EVENT_LINE_SET. -/
def execEventLineSet (c : Nat) (k : Fin 4) (s : State) : Outcome := s.event (s.unitEvent c k.val (storeIn 0 0x80))
/-- EVENT_LINE_WAIT. -/
def execEventLineWait (c : Nat) (k : Fin 4) (s : State) : Outcome := s.event (s.unitEvent c k.val (loadIn 0 0x80))
/-- EVENT_LINE_CLEAR. -/
def execEventLineClear (c : Nat) (k : Fin 4) (s : State) : Outcome := s.event (s.unitEvent c k.val (storeIn 0x80 0x100))
/-- EVENT_LINE_TEST. -/
def execEventLineTest (c : Nat) (k : Fin 4) (s : State) : Outcome := s.event (s.unitEvent c k.val (loadIn 0x80 0x100))
/-- MUTEX_TAKE. -/
def execMutexTake (c : Nat) (k : Fin 4) (s : State) : Outcome := s.event (s.unitEvent c k.val (loadIn 0x100 0x180))
/-- MUTEX_FREE. -/
def execMutexFree (c : Nat) (k : Fin 4) (s : State) : Outcome := s.event (s.unitEvent c k.val (storeIn 0x100 0x180))
/-- CLUSTER_BARRIER_COUNT. -/
def execClusterBarrierCount (c : Nat) (k : Fin 4) (s : State) : Outcome :=
  s.event (s.unitEvent c k.val (storeIn 0x180 0x1A0))
/-- CLUSTER_BARRIER_ARRIVE. -/
def execClusterBarrierArrive (c : Nat) (k : Fin 4) (s : State) : Outcome :=
  s.event (s.unitEvent c k.val (loadIn 0x180 0x1A0))

/-! ### Remote accesses (07 R140) -/

/-- Two requests touch a common 8-byte word. -/
def Remote.overlaps (a b : Remote) : Bool :=
  a.dst == b.dst && decide (a.off / 8 * 8 < b.off + b.req.size) && decide (b.off / 8 * 8 < a.off + a.req.size)

/-- A reply reaches its slot. -/
def State.remoteReply (s : State) (r : Remote) (v : Word) (bs : List Byte) : State :=
  match r.reply with
  | .pipe => s.reply r.core r.slot v
  | .vector =>
    s.modSlot r.core r.slot (fun t =>
      { t with
        vwait := { t.vwait with
          pending := 0
          got := t.vwait.got ++ (List.range bs.length).map (fun i => (sram r.dst r.off + i, bs[i]?.getD 0)) } })
  | .nobody => s

/-- DETAIL of a refused request. -/
def Req.detail (r : Req) : Nat :=
  match r with
  | .load _ => 0
  | .store _ _ => 1
  | .masked _ _ => 1
  | .atomic _ _ _ _ _ => 3
  | .upd _ _ => 3

/-- The receiving core performs a request or refuses it. The physical core id that TRAPVAL holds is then the receiving
core's (log 102, the model's choice). -/
def State.remoteServe (s : State) (r : Remote) : State :=
  if !s.remoteOk (s.claimId r.core) r.dst r.off r.req then
    (s.report .remoteRefused).engineFault r.core r.slot r.pc ⟨0x04, r.req.detail, word r.dst⟩
  else
    let a := sram r.dst r.off
    match (if r.req.reads then (wordsOf a r.req.size).find? (fun w => s.poisoned.contains w) else none) with
    | some w => s.engineFault r.core r.slot r.pc (machineTrap w)
    | none =>
      let p := s.perform (s.coreOf r.dst).update a r.req
      let t := if r.req.changes p.1 then p.2.noteWrite r.core r.slot r.number a r.req.size r.scope r.req.reads else p.2
      (if r.req.reads && r.reply != .nobody then t.noteSaw r.core r.slot a else t).remoteReply r p.1
        (s.readBytes a r.req.size)

/-- The request is a load, which has taken what it needs of the plain stores before it. -/
def Req.isLoad : Req → Bool
  | .load _ => true | .store _ _ => false | .atomic _ _ _ _ _ => false | .upd _ _ => false | .masked _ _ => false

/-- Request `x` of a slot comes before its later request `r` (08 R150, R159). -/
def Remote.blocks (x r : Remote) : Bool :=
  x.core == r.core && x.slot == r.slot && x.overlaps r && !(r.req.isLoad && x.req.writes && !x.req.reads)

/-- Request `n` may reach its receiver: the requests of its slot to common 8-byte words stay in program order (08 R159),
what its slot's sequencer owes before it has been executed (08 R153), and what its load or atomic returns is no narrow
release ahead of the writes that it releases (08 R155). -/
def State.remoteDue (s : State) (n : Nat) (r : Remote) : Bool :=
  r.after == 0 &&
  !(s.remotes.take n).any (fun x => x.blocks r) &&
  !(r.reply != .nobody && s.narrowHeldBy r.core r.slot (sram r.dst r.off) r.req.size)

/-- Request `n` in flight reaches the receiving core; a write to a power-gated cluster goes into its wake latch (14 R261). -/
def State.remoteAt (s : State) (n : Nat) : Option State :=
  match s.remotes[n]? with
  | some r =>
    let s1 : State := { s with remotes := dropAt s.remotes n }
    if !s.remoteDue n r then none
    else if s.gated.contains (clusterOf r.dst) then
      (if r.req.reads then none else s1.latchWrite (clusterOf r.dst) (.remote r))
    else some (s1.remoteServe r)
  | none => none

/-- REMOTE_ACCESS. -/
def execRemoteAccess (n : Nat) (s : State) : Outcome := s.event (s.remoteAt n)

/-! ### Power (08 R163, 14 R261) -/

/-- POWER_GATE: a cluster that no running launch uses loses its power. -/
def State.powerGateAt (s : State) (cl : Nat) : Option State :=
  if s.gated.contains cl ||
      s.launches.any (fun l => l.cores.any (fun c => clusterOf c == cl && (s.coreOf c).resident.isSome)) then none
  else some { s with gated := cl :: s.gated }

/-- POWER_GATE. -/
def execPowerGate (cl : Nat) (s : State) : Outcome := s.event (s.powerGateAt cl)

/-- A held write takes place. -/
def State.applyLatched (s : State) (w : Latched) : State :=
  match w with
  | .unit r => s.unitServe r
  | .remote r => s.remoteServe r
  | .host a n v => s.writeN a n v

/-- CLUSTER_POWER_UP: the held write takes place before any other access. -/
def State.powerUpAt (s : State) (cl : Nat) : Option State :=
  if s.gated.contains cl then
    let mine := s.latches.filter (fun x => x.1 == cl)
    let s1 : State :=
      { s with gated := s.gated.filter (fun x => x != cl), latches := s.latches.filter (fun x => x.1 != cl) }
    some (mine.foldl (fun t x => t.applyLatched x.2) s1)
  else none

/-- CLUSTER_POWER_UP. -/
def execClusterPowerUp (cl : Nat) (s : State) : Outcome := s.event (s.powerUpAt cl)

/-! ### The page-fault service (07 R144-R146) -/

/-- Ways of a bucket with their entries. -/
def State.ways (s : State) (claim size va : Nat) : List (Nat × Entry) :=
  (List.range 4).map (fun i => (s.wayAddr claim size va i, s.entryAt (s.wayAddr claim size va i)))

/-- First virtual address of an entry's page. -/
def entVa (e : Entry) : Nat := entTag e * 2 ^ 16

/-- The page-table entries of which some byte is listed: every other entry is 0, and so not valid. -/
def State.listedEntries (s : State) : List Nat :=
  let shards := ((List.range 320).map s.shardCore).eraseDups
  (s.mem.filterMap (fun p =>
    let c := p.1 / 2 ^ 20
    let o := p.1 % 2 ^ 20
    if 0xF8000 ≤ o ∧ shards.contains c then some (sram c (o / 16 * 16)) else none)).eraseDups

/-- Every valid entry of a claim in the page table. -/
def State.claimEntries (s : State) (claim : Nat) : List Entry :=
  (s.listedEntries.map s.entryAt).filter (fun e => entV e && entClaim e == claim)

/-- Two entries of one claim cover a common address. -/
def entOverlap (a b : Entry) : Bool :=
  decide (entVa a < entVa b + 2 ^ pageBits (entSize b)) && decide (entVa b < entVa a + 2 ^ pageBits (entSize a))

/-- An entry overlaps a valid entry of its claim other than the one it replaces. -/
def State.entClash (s : State) (e : Entry) : Bool :=
  (s.claimEntries (entClaim e)).any (fun x => entOverlap x e && !(entSize x == entSize e && entTag x == entTag e))

/-- The way an entry goes to: that of the same page, else a free one. -/
def State.entWay (s : State) (e : Entry) : Option Nat :=
  let ws := s.ways (entClaim e) (entSize e) (entVa e)
  match ws.find? (fun w => entMatches (entClaim e) (entSize e) (entVa e) w.2) with
  | some w => some w.1
  | none => (ws.find? (fun w => !entV w.2)).map (·.1)

/-- An entry written into the table. -/
def State.writeEntry (s : State) (a : Nat) (e : Entry) : State := (s.wakeAt a).writeBytes a (leBytes 16 e.toNat)

/-- An entry cleared. -/
def State.clearEntry (s : State) (a : Nat) : State := (s.wakeAt a).clearBytes a 16

/-- What reported a miss goes on. -/
def State.resume (s : State) (m : Miss) (refusedPage : Option Nat) : State :=
  let mark (l : List Nat) : List Nat := l ++ refusedPage.toList
  match m.who with
  | .slot c k => s.modSlot c k (fun t => match t.wait with | .page _ => { t with wait := .none } | _ => t)
  | .vector c k => s.modSlot c k (fun t => { t with vmiss := false })
  | .matrix c => s.modCore c (fun x => x.modRun (fun r => { r with missing := false, refused := mark r.refused }))
  | .copyCmd n => s.modCopy n (fun x => { x with missing := false, refused := mark x.refused })
  | .lexCmd n => s.modLex n (fun x => { x with missing := false, refused := mark x.refused })

/-- PAGE_FAULT_SERVICE: the service maps the page of miss `n` with the entry `p`, or refuses it: a slot's launch ends with a
translation fault, an engine's command fails with XLATE. -/
def State.pageService (s : State) (n : Nat) (p : Option Entry) : Option State :=
  match s.misses[n]? with
  | some m =>
    let s1 : State := { s with misses := dropAt s.misses n }
    if !s.ready.getLsbD 1 then none
    else
      match p with
      | some e =>
        if entMatches m.claim (entSize e) m.va e && entOk e then
          (if (s.walk m.claim m.va).isSome then some (s1.resume m none)
           else if s.entClash e then none
           else (s.entWay e).map (fun a => (s1.writeEntry a e).resume m none))
        else none
      | none =>
        match m.who with
        | .slot c k => some (s1.engineFault c k m.pc ⟨0x05, 0, word m.va⟩)
        | .vector c k => some (s1.engineFault c k m.pc ⟨0x05, 0, word m.va⟩)
        | .matrix _ => some (s1.resume m (some (m.va / 2 ^ 16)))
        | .copyCmd _ => some (s1.resume m (some (m.va / 2 ^ 16)))
        | .lexCmd _ => some (s1.resume m (some (m.va / 2 ^ 16)))
  | none => none

/-- PAGE_FAULT_SERVICE. -/
def execPageFaultService (n : Nat) (p : Option (BitVec 128)) (s : State) : Outcome := s.event (s.pageService n p)

end Sys2Proof.Machine
end

