-- ==== Sys2Proof/Machine/Committee.lean ====
section
/-! DEFINITION. Committees: descriptors and seats (10 R190-R192), q7 elements (R196), the instructions (R197), the gather
(R199, R200), draw and post (R201, R202), grammar (R203), admission and the batch table (R205). -/

namespace Sys2Proof.Machine

/-! ### Seats -/

/-- The root of a seat: its north-west core. -/
def Rect.root (r : Rect) : Nat := coreAt r.x r.y

/-- A core belongs to a seat of the committee. -/
def Committee.seats (y : Committee) (c : Nat) : Bool := y.aseat.has c || y.members.any (fun z => z.v && z.seat.has c)

/-- The committee of a core. -/
def State.committeeOf (s : State) (c : Nat) : Option Committee := s.committees.find? (fun y => y.seats c)

/-- The committee of a claim at an index. -/
def State.committee? (s : State) (id x : Nat) : Option Committee :=
  s.committees.find? (fun y => y.claim == id && y.index == x)

/-- The state with a committee updated. -/
def State.modCommittee (s : State) (id x : Nat) (f : Committee → Committee) : State :=
  { s with committees := replaceFirst (fun y => y.claim == id && y.index == x) f s.committees }

/-- The member whose root a core is. -/
def Committee.memberAt (y : Committee) (c : Nat) : Option Nat :=
  (List.range y.members.length).find? (fun m => (y.members[m]?).any (fun z => z.v && z.seat.root == c))

/-- Root of member `m`. -/
def Committee.rootOf (y : Committee) (m : Nat) : Nat := ((y.members[m]?).map (fun z => z.seat.root)).getD 0

/-- Member `m` has V = 1. -/
def Committee.valid (y : Committee) (m : Nat) : Bool := (y.members[m]?).any (·.v)

/-- The assay core that holds token `t`. -/
def Committee.assayCore (y : Committee) (t : Nat) : Nat := y.aseat.coreOf (t / 4096)

/-- Offset of the buffer of member `m` at position `i` (10 R192). -/
def Committee.memberBuf (y : Committee) (m i : Nat) : Nat := y.mbuf + 0x4000 * (i * y.members.length + m)

/-- Offset of the result buffer of position `i`. -/
def Committee.resultBuf (y : Committee) (i : Nat) : Nat := y.rbuf + 0x4000 * i

/-- The occupied batch slot `b`: `active`. An ENDED slot counts until a sequence takes it, as its entry stays (10 R205;
log 118, the model's choice). -/
def Committee.slot? (y : Committee) (b : Nat) : Option BatchSlot := find? b y.slots

/-! ### Installation (10 R190-R192) -/

/-- A field of the descriptor. -/
def descField (d : List Byte) (lo n : Nat) : Nat := leNat ((d.drop lo).take n)

/-- A seat of the descriptor, in physical coordinates of a claim; none where it leaves the claim. -/
def seatOf (r : Rect) (d : List Byte) (lo : Nat) : Option Rect :=
  let w := descField d (lo + 2) 1
  let h := descField d (lo + 3) 1
  let t : Rect := ⟨r.x + descField d lo 1, r.y + descField d (lo + 1) 1, w, h⟩
  if 1 ≤ w ∧ 1 ≤ h ∧ r.contains t then some t else none

/-- The forward map of a member: each of its entries is a canonical id below V, or 0xFFFF_FFFF (10 R192). -/
def State.forwardOk (s : State) (claim v : Nat) (p : Word) (vocab : Nat) : Bool :=
  match s.firmwareRead claim p.toNat (4 * vocab) with
  | some bs => (chunks 4 vocab bs).all (fun e => decide (leNat e < v) || leNat e == 0xFFFFFFFF)
  | none => false

/-- The reverse map of a member: V entries whose LEN is 1 to 4 and whose bytes 3:1 are zero (10 R192). -/
def State.reverseOk (s : State) (claim v : Nat) (p : Word) : Bool :=
  match s.firmwareRead claim p.toNat (16 * v) with
  | some bs =>
    (chunks 16 v bs).all (fun e => decide (1 ≤ descField e 0 1) && decide (descField e 0 1 ≤ 4) && descField e 1 3 == 0)
  | none => false

/-- A member descriptor; none where it breaks 10 R192. -/
def State.memberOf (s : State) (claim v : Nat) (r : Rect) (d : List Byte) : Option Member :=
  let flags := descField d 0 1
  if flags / 4 % 4 ≠ 0 then none
  else if flags % 2 = 0 then
    some ⟨false, flags / 2 % 2 == 1, flags / 16, descField d 1 3, BitVec.ofNat 32 (descField d 4 4), descField d 8 4,
      ⟨0, 0, 0, 0⟩, word (descField d 16 8), word (descField d 24 8), 0, false⟩
  else
    match seatOf r d 12 with
    | some seat =>
      let w := descField d 4 4
      if descField d 1 3 = 0 ∨ 255 ≤ w / 2 ^ 23 % 256 ∨ fLt w 0 ∨ descField d 36 28 ≠ 0 then none
      else if !s.forwardOk claim v (word (descField d 16 8)) (descField d 1 3) ||
          !s.reverseOk claim v (word (descField d 24 8)) then none
      else
        some ⟨true, flags / 2 % 2 == 1, flags / 16, descField d 1 3, BitVec.ofNat 32 w, descField d 8 4, seat,
          word (descField d 16 8), word (descField d 24 8), descField d 32 4, false⟩
    | none => none

/-- Two ranges of offsets share a byte. -/
def rangesMeet (a n b m : Nat) : Bool := decide (a < b + m) && decide (b < a + n)

/-- Some two rectangles of a list share a core. -/
def anyOverlap : List Rect → Bool
  | [] => false
  | r :: rs => rs.any r.overlaps || anyOverlap rs

/-- A committee from its 576-byte descriptor; none where the firmware rejects it. -/
def State.committeeFrom (s : State) (cl : Claim) (index : Nat) (d : List Byte) : Option Committee :=
  let nmem := descField d 0 1
  let q := descField d 1 1
  let flags := descField d 2 1
  let dmax := descField d 3 1
  let spec := flags / 2 % 2 == 1
  let v := descField d 8 4
  let mbuf := descField d 16 4
  let rbuf := descField d 20 4
  let chain := descField d 48 4
  let batch := descField d 52 4
  let n1 := 0x4000 * nmem * (dmax + 1)
  let n2 := 0x4000 * (dmax + 1)
  match seatOf cl.rect d 12, (List.range nmem).mapM (fun m => s.memberOf cl.id v cl.rect ((d.drop (64 + 64 * m)).take 64)) with
  | some aseat, some ms =>
    let seats := aseat :: (ms.filter (·.v)).map (·.seat)
    let nv := (ms.filter (·.v)).length
    if decide (1 ≤ nmem) && decide (nmem ≤ 8) && decide (1 ≤ nv) && decide (q ≤ nv) && decide (flags < 32) &&
        (if spec then decide (1 ≤ dmax) && decide (dmax ≤ 8) && decide (flags / 4 % 8 < nmem) else dmax == 0) &&
        decide (1 ≤ v) && decide (v ≤ 4096 * aseat.w * aseat.h) && mbuf % 0x4000 == 0 && rbuf % 0x4000 == 0 &&
        (flags % 2 == 1 || descField d 24 8 == 0) && chain % 64 == 0 && batch % 64 == 0 && descField d 56 8 == 0 &&
        descField d (64 + 64 * nmem) (512 - 64 * nmem) == 0 &&
        decide (mbuf + n1 ≤ 0xF0000) && decide (rbuf + n2 ≤ 0xF0000) && decide (chain + 0x2000 ≤ 0xF0000) &&
        decide (batch + 0x4000 ≤ 0xF0000) && !rangesMeet mbuf n1 chain 0x2000 && !rangesMeet mbuf n1 batch 0x4000 &&
        !rangesMeet rbuf n2 chain 0x2000 && !rangesMeet rbuf n2 batch 0x4000 &&
        !anyOverlap seats &&
        s.committees.all (fun y => !(seats.any (fun r => r.overlaps y.aseat ||
          y.members.any (fun z => z.v && r.overlaps z.seat)))) then
      some
        { claim := cl.id, index, quorum := if q = 0 then nv else q, table := flags % 2 == 1, spec
          draft := flags / 4 % 8, draftmax := dmax, deadline := descField d 4 4, vocab := v, aseat, mbuf, rbuf
          tablePtr := word (descField d 24 8), tableLen := descField d 32 8, grammar := word (descField d 40 8)
          chainOff := chain, batchOff := batch, members := ms, slots := [], vacated := [], waiting := []
          stopping := [], window := 0 }
    else none
  | _, _ => none

/-! ### The batch table (10 R205) -/

/-- SSTATE code of a step state. -/
def stepCode : StepState → Nat
  | .idle => 0 | .gather => 1 | .combine => 2 | .drawing => 3 | .drawn => 4 | .ended => 5

/-- Bytes 31:0 of an entry. -/
def BatchSlot.head (y : BatchSlot) : List Byte :=
  leBytes 8 y.seqid.toNat ++ leBytes 8 y.pos.toNat ++ leBytes 8 y.seed.toNat ++
  (List.range 8).map (fun m =>
    match y.members[m]? with
    | some (r, p) => BitVec.ofNat 8 (memberCode r + 4 * p)
    | none => 0)

/-- Bytes 63:36 of an entry. -/
def BatchSlot.tail (y : BatchSlot) : List Byte :=
  leBytes 1 (stepCode y.state) ++ leBytes 1 y.reason ++ List.replicate 26 0

/-- A batch slot set, and its entry written on the assay root. GSTATE is the program's, 0 when a sequence takes the slot
(log 22). A store of user code to the other bytes changes those bytes alone, and the next update writes over them (log 121,
the model's choice). -/
def State.setBatch (s : State) (id x b : Nat) (y : BatchSlot) (taken : Bool) : State :=
  match s.committee? id x with
  | some cm =>
    let a := sram cm.aseat.root (cm.batchOff + 64 * b)
    let s1 := s.modCommittee id x (fun cm => { cm with slots := insertKey b y cm.slots })
    let s2 := (s1.wakeAt a).writeBytes a y.head
    (if taken then s2.writeBytes (a + 32) [0, 0, 0, 0] else s2).writeBytes (a + 36) y.tail
  | none => s

/-! ### Members of a sequence -/

/-- State of member `m`. -/
def BatchSlot.run (y : BatchSlot) (m : Nat) : MemberRun := ((y.members[m]?).map (·.1)).getD .retired
/-- Pending posts of member `m`. -/
def BatchSlot.pending (y : BatchSlot) (m : Nat) : Nat := ((y.members[m]?).map (·.2)).getD 0
/-- The sequence with a member's state and pending posts set. -/
def BatchSlot.setMember (y : BatchSlot) (m : Nat) (r : MemberRun) (p : Nat) : BatchSlot :=
  { y with members := y.members.set m (r, p) }
/-- Member `m` is ACTIVE or LAGGING. -/
def BatchSlot.eligible (y : BatchSlot) (m : Nat) : Bool := y.run m == .active || y.run m == .lagging
/-- The eligible members. -/
def BatchSlot.electors (y : BatchSlot) : List Nat := (List.range y.members.length).filter y.eligible
/-- Members as a mask. -/
def maskOf (ms : List Nat) : Nat := ((List.range 8).map (fun m => if ms.contains m then 2 ^ m else 0)).sum

/-! ### Elements (10 R196) -/

/-- An element. -/
def q7Element (kind slot count reason : Nat) (dl short : Bool) (mask value : Nat) : Word :=
  fieldAt 62 kind ||| fieldAt 54 slot ||| fieldAt 50 count ||| fieldAt 45 reason ||| flagAt 44 dl ||| flagAt 43 short |||
    fieldAt 32 mask ||| word (value % 2 ^ 32)

/-- KIND. -/
def elKind (w : Word) : Nat := bits w 62 2
/-- SLOT. -/
def elSlot (w : Word) : Nat := bits w 54 8
/-- COUNT. -/
def elCount (w : Word) : Nat := bits w 50 4
/-- REASON. -/
def elReason (w : Word) : Nat := bits w 45 3
/-- MASK names member `m`. -/
def elMask (w : Word) (m : Nat) : Bool := bit w (32 + m)
/-- VALUE. -/
def elValue (w : Word) : Nat := bits w 0 32
/-- A post of batch slot `b`. -/
def isPost (b : Nat) (w : Word) : Bool := elKind w == 3 && elSlot w == b

/-- An element reaches q7 of a core, or waits there for room; in a deterministic launch it comes in at the end of the
quantum (12 R239). -/
def State.sendElement (s : State) (c : Nat) (w : Word) : State :=
  if s.isDet c then s.modCore c (fun x => { x with coming := x.coming ++ [w] })
  else s.modCore c (fun x => ({ x with backlog := x.backlog ++ [w] } : CoreState).fillQ7)

/-- An element to every assay core. -/
def State.sendAssay (s : State) (cm : Committee) (w : Word) : State :=
  cm.aseat.cores.foldl (fun t c => t.sendElement c w) s

/-! ### The end of a slot (10 R202, 12 R224) -/

/-- Stop packets complete when nothing of the committee runs or waits. -/
def State.checkStop (s : State) (id x : Nat) : State :=
  match s.committee? id x with
  | some cm =>
    if cm.waiting.isEmpty && cm.slots.all (fun p => p.2.state == .ended) && !cm.stopping.isEmpty then
      cm.stopping.foldl (fun t p => t.completePacket p.1 p.2) (s.modCommittee id x (fun cm => { cm with stopping := [] }))
    else s
  | none => s

/-- The slot becomes ENDED and completes its packet. -/
def State.endBatch (s : State) (id x b : Nat) (y : BatchSlot) : State :=
  let s1 := s.setBatch id x b { y with state := .ended } false
  (s1.completePacket y.packet.1 y.packet.2).checkStop id x

/-! ### Posts (10 R200, R202) -/

/-- A post for member `m`: the sequence and the state after it. A ninth pending post retires the member instead. -/
def postTo (cm : Committee) (b m : Nat) (w : Word) (p : BatchSlot × State) : BatchSlot × State :=
  let c := cm.rootOf m
  if 8 ≤ p.1.pending m then
    let w' := (w &&& ~~~(fieldAt 45 7)) ||| fieldAt 45 5
    let keep (v : Word) : Bool := !isPost b v
    let s1 := p.2.modCore c (fun x =>
      ({ x.setPort 7 ((x.port 7).filter keep) with
          backlog := x.backlog.filter keep, coming := x.coming.filter keep } : CoreState).fillQ7)
    (p.1.setMember m .retired 1, s1.sendElement c w')
  else (p.1.setMember m (p.1.run m) (p.1.pending m + 1), p.2.sendElement c w)

/-- Posts for a list of members. -/
def State.postAll (s : State) (cm : Committee) (b : Nat) (y : BatchSlot) (w : Word) (ms : List Nat) : BatchSlot × State :=
  ms.foldl (fun p m => postTo cm b m w p) (y, s)

/-! ### The gather (10 R199, R200) -/

/-- The gather is complete: a gather element goes to every assay core. -/
def State.combine (s : State) (cm : Committee) (b : Nat) (y : BatchSlot) (dl : Bool) : State :=
  let w := q7Element 1 b y.chain 0 dl y.short (maskOf y.present) (bits y.pos 0 32)
  (s.setBatch cm.claim cm.index b { y with state := .combine, dl, draws := [] } false).sendAssay cm w

/-- Too few members remain: ABORT to every assay core and to each member. -/
def State.abortBatch (s : State) (cm : Committee) (b : Nat) (y : BatchSlot) : State :=
  let mask := maskOf y.present
  let s1 := s.sendAssay cm (q7Element 1 b y.chain 1 false y.short mask (bits y.pos 0 32))
  let ms := (List.range cm.members.length).filter (fun m => cm.valid m && y.run m != .failed)
  let (z, s2) := s1.postAll cm b y (q7Element 3 b 0 1 false y.short mask 0xFFFFFFFF) ms
  s2.endBatch cm.claim cm.index b { z with reason := 1 }

/-- The deadline of a committee; none in a deterministic launch and where D is 0xFFFF_FFFF. -/
def State.deadlineOf (s : State) (cm : Committee) : Option Nat :=
  if cm.deadline = 0xFFFFFFFF || s.isDet cm.aseat.root then none else some cm.deadline

/-- The quorum is met and the deadline has passed. -/
def State.deadlinePassed (s : State) (cm : Committee) (y : BatchSlot) : Bool :=
  y.state == .gather && decide (cm.quorum ≤ y.present.length) &&
  (s.deadlineOf cm).any (fun d => decide (y.t0 + d ≤ s.time))

/-- What the gather logic does with a sequence that has changed. An arrival that is the last of the eligible ones and also
finds the deadline past completes the gather without DL (log 119, the model's choice). -/
def State.settleBatch (s : State) (id x b : Nat) (y : BatchSlot) : State :=
  match s.committee? id x with
  | some cm =>
    if y.state != .idle && y.state != .gather then s.setBatch id x b y false
    else if decide (y.electors.length < cm.quorum) then s.abortBatch cm b y
    else if y.state == .gather && y.electors.all y.arrived.contains then s.combine cm b y false
    else if s.deadlinePassed cm y then s.combine cm b y true
    else s.setBatch id x b y false
  | none => s

/-- A gather whose deadline has passed completes, before anything that comes later (10 R199). -/
def State.dueGather (s : State) (id x b : Nat) : State :=
  match s.committee? id x with
  | some cm =>
    match cm.slot? b with
    | some y => if s.deadlinePassed cm y then s.combine cm b y true else s
    | none => s
  | none => s

/-- A counted arrival: DELIVER marks the member present, WITHDRAW retires it. -/
def BatchSlot.count (y : BatchSlot) (m kind time : Nat) : BatchSlot :=
  let y := { y with
    state := .gather
    t0 := if y.arrived.isEmpty then time else y.t0
    arrived := if y.arrived.contains m then y.arrived else y.arrived ++ [m] }
  if kind = 0 then
    { y.setMember m .active (y.pending m) with present := if y.present.contains m then y.present else y.present ++ [m] }
  else { y.setMember m .retired (y.pending m) with present := y.present.filter (fun i => i != m) }

/-- A PROPOSE that opens the gather. -/
def State.propose (s : State) (cm : Committee) (b : Nat) (y : BatchSlot) (m len : Nat) : State :=
  let n := min len cm.draftmax
  let z : BatchSlot := { y with state := .gather, chain := n, short := decide (n < len) }
  let w := q7Element 0 b n 0 false z.short (maskOf y.present) 0
  let s1 := (y.electors.filter (fun i => i != m)).foldl (fun t i => t.sendElement (cm.rootOf i) w) s
  s1.settleBatch cm.claim cm.index b z

/-- The kind of an arrival as it counts: a member whose KV context cannot grow withdraws at its next step (10 R194; log
83, the model's choice). -/
def BatchSlot.arrivalKind (y : BatchSlot) (m kind : Nat) : Nat :=
  if kind = 0 ∧ (y.kv[m]?).any (·.withdraw) then 1 else kind

/-- An arrival reaches the gather logic. A PROPOSE opens the gather whatever posts pend for the draft, which is then LAGGING
(10 R199, R200). -/
def State.gatherOne (s : State) (g : GatherMsg) : State :=
  let s := s.dueGather g.claim g.index g.slot
  match s.committee? g.claim g.index with
  | none => s
  | some cm =>
    match cm.slot? g.slot with
    | none => s
    | some y =>
      let kind := y.arrivalKind g.member g.kind
      let free := y.eligible g.member && y.pending g.member == 0
      let late := y.setMember g.member .lagging (y.pending g.member)
      if kind = 2 ∧ y.eligible g.member ∧ y.state = .idle then
        s.propose cm g.slot (if free then y else late) g.member g.chain
      else if kind ≠ 2 ∧ free ∧ (y.state = .gather ∨ (y.state = .idle ∧ !cm.spec)) then
        s.settleBatch g.claim g.index g.slot (y.count g.member kind s.time)
      else if y.eligible g.member && (g.kind == 0 || y.pending g.member != 0) then
        s.setBatch g.claim g.index g.slot late false
      else s

/-- The root of the member of an arrival. -/
def State.arrivalRoot (s : State) (g : GatherMsg) : Option Nat := (s.committee? g.claim g.index).map (·.rootOf g.member)

/-- GATHER_ARRIVAL: arrivals of one member reach the gather logic in order; those of a deterministic launch do so at the
end of the quantum. -/
def State.gatherAt (s : State) (n : Nat) : Option State :=
  match s.arrivals[n]? with
  | some g =>
    if (s.arrivals.take n).any (fun h => h.claim == g.claim && h.index == g.index && h.member == g.member) then none
    else if (s.arrivalRoot g).any s.isDet then none
    else some ({ s with arrivals := dropAt s.arrivals n }.gatherOne g)
  | none => none

/-- GATHER_ARRIVAL. -/
def execGatherArrival (n : Nat) (s : State) : Outcome := s.event (s.gatherAt n)

/-- GATHER_DEADLINE: at least Q members are present and the deadline has passed. -/
def State.deadlineAt (s : State) (id x b : Nat) : Option State :=
  match s.committee? id x with
  | some cm =>
    match cm.slot? b with
    | some y => if s.deadlinePassed cm y then some (s.dueGather id x b) else none
    | none => none
  | none => none

/-- GATHER_DEADLINE. -/
def execGatherDeadline (id x b : Nat) (s : State) : Outcome := s.event (s.deadlineAt id x b)

/-- A sequence in the waiting table with member `m` FAILED. -/
def Waiting.strike (w : Waiting) (m : Nat) : Waiting :=
  { w with entry := w.entry.map (fun p => (p.1.setMember m .failed 0, p.2)) }

/-- MEMBER_FAILED: after a fatal fault of its seat the member leaves the eligible set of every sequence that has not
ended. -/
def State.failMember (s : State) (id x m : Nat) : Option State :=
  match s.committee? id x with
  | some cm =>
    if (cm.members[m]?).any (·.faulted) then
      let s1 := s.modCommittee id x (fun y =>
        { y with
          members := y.members.modify m (fun z => { z with faulted := false })
          waiting := y.waiting.map (fun w => w.strike m) })
      let s2 := cm.slots.foldl (fun t p => t.dueGather id x p.1) s1
      some (((s2.committee? id x).map (·.slots) |>.getD []).foldl
        (fun t p =>
          if p.2.state == .ended then t
          else t.settleBatch id x p.1 (p.2.setMember m .failed 0))
        s2)
    else none
  | none => none

/-- MEMBER_FAILED. -/
def execMemberFailed (id x m : Nat) (s : State) : Outcome := s.event (s.failMember id x m)

/-! ### The draw (10 R201, R202) -/

/-- Physical address of the value of token `t` in a buffer at offset `o` of the assay cores. -/
def Committee.tokenAddr (y : Committee) (o t : Nat) : Nat := sram (y.assayCore t) (o + 4 * (t % 4096))

/-- A value of token `t` in a buffer at offset `o` of the assay cores. -/
def State.tokenValue (s : State) (cm : Committee) (o t : Nat) : Nat := (s.readN (cm.tokenAddr o t) 4).toNat

/-- The sweep of position `i`. -/
def State.sweepAt (s : State) (cm : Committee) (y : BatchSlot) (i : Nat) : Option Sweep :=
  sweepOf y.params ((List.range cm.vocab).map (s.tokenValue cm (cm.resultBuf i)))

/-- `uniform(ctr, word)`; none: BADSOURCE. -/
def State.uniformAt (s : State) (cm : Committee) (y : BatchSlot) (ctr : Word) (word1 : Bool) : Option Nat :=
  if cm.table then
    if cm.tableLen ≤ ctr.toNat then none
    else
      match s.firmwareRead cm.claim (cm.tablePtr.toNat + 8 * ctr.toNat) 8 with
      | some bs =>
        let v := leNat ((bs.drop (if word1 then 4 else 0)).take 4)
        if fGe v 0 && fLt v 0x3F800000 then some v else none
      | none => none
  else some (uniformOf (philox y.seed ctr word1))

/-- What a draw returns: tokens accepted, the token and the reason. -/
abbrev Drawn := Nat × Nat × Nat

/-- A token that no draw gave. -/
def noToken : Nat := 0xFFFFFFFF

/-- The draw at a position from weights, after `n` accepted tokens. -/
def State.drawFrom (s : State) (cm : Committee) (y : BatchSlot) (n : Nat) (w : List Nat) (live : List Bool)
    (total : Nat) : Drawn :=
  match s.uniformAt cm y (y.pos + word n) true with
  | some u => (n, chooseOf w live total u, 0)
  | none => (n, noToken, 4)

/-- Physical address of chain token `i` (from 1). -/
def Committee.chainAddr (y : Committee) (b i : Nat) : Nat := sram y.aseat.root (y.chainOff + 32 * b + 4 * (i - 1))

/-- Chain token `i` (from 1). -/
def State.chainToken (s : State) (cm : Committee) (b i : Nat) : Nat := (s.readN (cm.chainAddr b i) 4).toNat

/-- The draft's probability of token `t` at position `i`. -/
def State.draftValue (s : State) (cm : Committee) (i t : Nat) : Nat := fExp (s.tokenValue cm (cm.memberBuf cm.draft i) t)

/-- The draw at a rejection, from the residual weights of position `i`. -/
def State.drawResidual (s : State) (cm : Committee) (y : BatchSlot) (i : Nat) (sw : Sweep) : Drawn :=
  let q := (sw.e.zip sw.live).map (fun p => if p.2 then fDiv p.1 sw.total else fNegZero)
  let r := (List.range q.length).map (fun t =>
    if sw.live[t]?.getD false then fMax 0 (fSub (q[t]?.getD 0) (s.draftValue cm i t)) else fNegZero)
  let zero := (List.range q.length).all (fun t => !(sw.live[t]?.getD false) || fZero (r[t]?.getD 0))
  let w := if zero then q else r
  s.drawFrom cm y i w sw.live (mass w)

/-- The draw from chain position `i` on, `left` chain tokens being left. -/
def State.drawChain (s : State) (cm : Committee) (b : Nat) (y : BatchSlot) : Nat → Nat → Drawn
  | 0, i =>
    match s.sweepAt cm y i with
    | some sw => s.drawFrom cm y i (masked sw.e sw.live) sw.live sw.total
    | none => (i, noToken, 2)
  | left + 1, i =>
    match s.sweepAt cm y i with
    | none => (i, noToken, 2)
    | some sw =>
      let t := s.chainToken cm b (i + 1)
      let q := if sw.live[t]?.getD false then fDiv (sw.e[t]?.getD 0) sw.total else 0
      match s.uniformAt cm y (y.pos + word i) false with
      | none => (i, noToken, 4)
      | some u =>
        if fLt (fMul u (s.draftValue cm i t)) q then s.drawChain cm b y left (i + 1)
        else s.drawResidual cm y i sw

/-- The words that a draw of result `d` has read of the assay cores: each position it swept, its chain tokens and the
draft's values of them and, after a rejection, of the survivors. -/
def State.drawReads (s : State) (cm : Committee) (b : Nat) (y : BatchSlot) (d : Drawn) : List Nat :=
  let tried := min (d.1 + 1) y.chain
  let draft (i t : Nat) : Nat := cm.tokenAddr (cm.memberBuf cm.draft i) t
  (List.range (d.1 + 1)).flatMap (fun i => (List.range cm.vocab).map (cm.tokenAddr (cm.resultBuf i))) ++
  (List.range tried).map (fun i => cm.chainAddr b (i + 1)) ++
  (List.range tried).map (fun i => draft i (s.chainToken cm b (i + 1))) ++
  (if d.1 < y.chain ∧ d.2.2 = 0 then
    match s.sweepAt cm y d.1 with
    | some sw => ((List.range cm.vocab).filter (fun t => sw.live[t]?.getD false)).map (draft d.1)
    | none => []
   else [])

/-- The first word that cannot be corrected among those a draw has read. -/
def State.drawEcc (s : State) (cm : Committee) (b : Nat) (y : BatchSlot) (d : Drawn) : Option Nat :=
  if s.poisoned.isEmpty then none else ((s.drawReads cm b y d).map wordAddr).find? s.poisoned.contains

/-- The draw ends: the engine's result goes to every assay core. A word that it cannot correct is a machine check of the
DRAW that started it, counted also where the launch of that DRAW has ended (13 R250, R263). -/
def State.drawNow (s : State) (cm : Committee) (b : Nat) (y : BatchSlot) : State :=
  let d := s.drawChain cm b y y.chain 0
  let s1 := s.setBatch cm.claim cm.index b { y with state := .drawn } false
  match s.drawEcc cm b y d with
  | some w =>
    if (s.residentOf y.drawer.1).map (·.id) == y.drawLaunch then
      s1.engineFault y.drawer.1 y.drawer.2.1 y.drawer.2.2 (machineTrap w)
    else { s1 with checks := s1.checks + 1 }
  | none => s1.sendAssay cm (q7Element 2 b d.1 d.2.2 y.dl y.short (maskOf y.present) d.2.1)

/-- DRAW_END: the draw of a batch slot ends; in a deterministic launch it does so at the end of the quantum. -/
def State.drawFinish (s : State) (id x b : Nat) : Option State :=
  match s.committee? id x with
  | some cm =>
    match cm.slot? b with
    | some y => if y.state = .drawing ∧ !s.isDet cm.aseat.root then some (s.drawNow cm b y) else none
    | none => none
  | none => none

/-- DRAW_END. -/
def execDrawEnd (id x b : Nat) (s : State) : Outcome := s.event (s.drawFinish id x b)

/-! ### Admission (10 R205) -/

/-- KV pages that a sequence of a committee holds. -/
def Committee.kvNeed (y : Committee) : Nat := (y.members.map (fun z => if z.v then z.kvres else 0)).sum

/-- KV pages reserved: a sequence holds its pages until it ends. -/
def State.kvHeld (s : State) : Nat :=
  (s.committees.map (fun y =>
    y.kvNeed * ((y.slots.filter (fun p => p.2.state != .ended)).length +
      (y.waiting.filter (fun w => w.entry.isSome)).length))).sum

/-- The lowest-numbered free batch slot. -/
def Committee.freeSlot (y : Committee) : Option Nat :=
  (List.range 256).find? (fun b =>
    match y.slot? b with
    | none => !y.vacated.contains b
    | some z => z.state == .ended && z.members.all (fun p => p.2 == 0))

/-- A sequence as it enters the batch table for the first time. -/
def Committee.fresh (y : Committee) (w : Waiting) : BatchSlot where
  seqid := w.seqid
  pos := 0
  seed := w.seed
  members := y.members.map (fun z => (if z.v then .active else .retired, 0))
  state := .idle
  reason := 0
  arrived := []
  present := []
  t0 := 0
  chain := 0
  short := false
  dl := false
  draws := []
  params := 0
  drawer := (0, 0, 0)
  drawLaunch := none
  packet := w.packet
  slotout := w.slotout
  kv := y.members.map (fun _ => ⟨0, [], false⟩)

/-- Sequence `w` takes slot `b`, with the state it had where it has been in the table before. -/
def State.enterBatch (s : State) (cm : Committee) (b : Nat) (w : Waiting) : State :=
  match w.entry with
  | none => s.setBatch cm.claim cm.index b (cm.fresh w) true
  | some (y, g) =>
    let a := sram cm.aseat.root (cm.batchOff + 64 * b + 32)
    ((s.setBatch cm.claim cm.index b y true).writeBytes a (leBytes 4 g.toNat)).settleBatch cm.claim cm.index b y

/-- SLOTOUT reports the slot of a sequence (12 R224). -/
def State.tellSlot (s : State) (id : Nat) (w : Waiting) (b : Nat) : State :=
  if w.slotout = 0 then s
  else
    match s.firmwareWrite id w.slotout.toNat (leBytes 8 b) with
    | some t => t
    | none => s.report .slotoutDropped

/-- Waiting sequences enter the batch table, oldest first, while there is a slot and the pages are or can be reserved. -/
def State.takeIn (s : State) (id x : Nat) : Nat → State
  | 0 => s
  | n + 1 =>
    match s.committee? id x with
    | some cm =>
      match cm.waiting, cm.freeSlot with
      | w :: ws, some b =>
        if w.entry.isSome ∨ s.kvHeld + cm.kvNeed ≤ Config.kvPages then
          (((s.modCommittee id x (fun y => { y with waiting := ws })).enterBatch cm b w).tellSlot id w b).takeIn id x n
        else s
      | _, _ => s
    | none => s

/-- Slots whose sequence the swapper may move back: IDLE, with no post pending and no arrival on its way. -/
def State.movable (s : State) (cm : Committee) : List Nat :=
  (cm.slots.filter (fun p =>
    p.2.state == .idle && p.2.members.all (fun q => q.2 == 0) &&
    !s.arrivals.any (fun g => g.claim == cm.claim && g.index == cm.index && g.slot == p.1))).map (·.1)

/-- The sequence of slot `b` goes back to the waiting table, ahead of those that came after it. -/
def State.moveOut (s : State) (cm : Committee) (b : Nat) : State :=
  match cm.slot? b with
  | some y =>
    let g := s.readN (sram cm.aseat.root (cm.batchOff + 64 * b + 32)) 4
    s.modCommittee cm.claim cm.index (fun z =>
      { z with
        slots := z.slots.filter (fun p => p.1 != b)
        vacated := b :: z.vacated
        waiting := ⟨y.seqid, y.seed, y.slotout, y.packet, some (y, g.setWidth 32)⟩ :: z.waiting })
  | none => s

/-- The swapper's choice: of the slots that it may move back, one or none, and none while no sequence waits for a slot (19
R285: the only sequence of a committee stays in slot 0; log 79). -/
def State.swapOut (s : State) (id x : Nat) (may : List Nat) : State :=
  match may with
  | [] => s
  | m :: ms =>
    match s.committee? id x, Config.swapsOut s.fresh with
    | some cm, some i =>
      if cm.waiting.isEmpty then { s with fresh := s.fresh + 1 }
      else { s.moveOut cm ((m :: ms).getD i m) with fresh := s.fresh + 1 }
    | _, _ => { s with fresh := s.fresh + 1 }

/-- BATCH_SWAP: at a release of the assay seat's DOM0 the swapper moves, of the sequences that wait at it, those it can,
and may move an IDLE one back. The release is over once the assay root has gone on. -/
def State.swapAt (s : State) (id x : Nat) : Option State :=
  match s.committee? id x with
  | some cm =>
    if cm.window != 0 && s.ready.getLsbD 2 then
      some (((s.modCommittee id x (fun y => { y with window := 0 })).takeIn id x
        (min (cm.window - 1) cm.waiting.length)).swapOut id x (s.movable cm))
    else none
  | none => none

/-- BATCH_SWAP. -/
def execBatchSwap (id x : Nat) (s : State) : Outcome := s.event (s.swapAt id x)

/-! ### What a slot's turn has popped from q7 (10 R199) -/

/-- The member of the root popped these elements: its pending counts fall. -/
def State.notePops (s : State) (c : Nat) (popped : List Word) : State :=
  popped.foldl
    (fun t w =>
      match t.committeeOf c with
      | some cm =>
        match cm.memberAt c, cm.slot? (elSlot w) with
        | some m, some y =>
          if elKind w == 3 && y.pending m != 0 then
            t.setBatch cm.claim cm.index (elSlot w) (y.setMember m (y.run m) (y.pending m - 1)) false
          else t
        | _, _ => t
      | none => t)
    s

/-- The elements that core `c` has popped of q7 leave the pending counts. -/
def State.settlePops (s : State) (c : Nat) : State :=
  match (s.coreOf c).pops with
  | [] => s
  | p :: ps =>
    (s.modCore c (fun x => { x with pops := [] })).notePops c (((p :: ps).filter (fun q => q.1 == 7)).map (·.2))

/-- The pops of a turn of core `c` settled; in a deterministic launch those of q7 wait for the end of the quantum. -/
def State.afterPops (s : State) (c : Nat) : State :=
  if (s.coreOf c).pops.isEmpty then s
  else if s.isDet c then s.modCore c (fun x => { x with pops := x.pops.filter (fun q => q.1 == 7) })
  else s.settlePops c

/-- A release of DOM0 is over for the committees whose assay root is core `c`, once a slot of it has issued. -/
def State.closeWindow (s : State) (c : Nat) : State :=
  if s.committees.any (fun y => y.window != 0 && y.aseat.root == c) then
    { s with committees := s.committees.map (fun y => if y.aseat.root = c then { y with window := 0 } else y) }
  else s

/-! ### The end of a quantum (12 R239) -/

/-- The arrivals of the members rooted at core `c` reach the gather logic, in program order. -/
def State.gatherFrom (s : State) (c : Nat) : State :=
  let mine (g : GatherMsg) : Bool := (s.arrivalRoot g).any (fun d => d == c)
  (s.arrivals.filter mine).foldl State.gatherOne { s with arrivals := s.arrivals.filter (fun g => !mine g) }

/-- Every draw of a committee whose assay root is core `c` ends. -/
def State.drawAll (s : State) (c : Nat) : State :=
  match s.committees.find? (fun y => y.aseat.root == c) with
  | some cm => (cm.slots.filter (fun p => p.2.state == .drawing)).foldl (fun t p => t.drawNow cm p.1 p.2) s
  | none => s

/-- What the committees of a deterministic launch have under way happens at the end of the quantum, in logical-core
order, and its elements come in. -/
def State.committeeBoundary (s : State) (cs : List Nat) : State :=
  let s1 := cs.foldl State.settlePops s
  let s2 := cs.foldl State.gatherFrom s1
  let s3 := cs.foldl State.drawAll s2
  cs.foldl
    (fun t c => t.modCore c (fun x => ({ x with backlog := x.backlog ++ x.coming, coming := [] } : CoreState).fillQ7)) s3

/-! ### ASSCFG and ASSAY (10 R197, R198) -/

/-- Bytes of the self window at a pointer, aligned to `n`. -/
def State.blockAt (s : State) (p : Word) (n : Nat) : Except Stop (List Byte) := do
  let adr ← selfBlock p n
  s.afterVectorAt adr n
  s.selfBytes adr n

/-- ASSCFG. -/
def execAsscfg (a b : GReg) (s : State) : Outcome :=
  s.finish (do
    s.ports [b] [a]
    let (p, s1) := s.readG b
    illegalIf (!(s.committeeOf s.cur.core).any (fun y => y.aseat.has s.cur.core)) 0
    let bs ← s.blockAt p 32
    match assayOps ((bs.take 16).map (·.toNat)) with
    | none => illegalOperand 0
    | some ops =>
      let cs := Vector.ofFn (fun i : Fin 4 => BitVec.ofNat 32 (leNat ((bs.drop (16 + 4 * i.val)).take 4)))
      (s1.modMyCore (fun x => { x with assay := some ⟨ops.map (BitVec.ofNat 8), cs⟩ })).writeG a (word ops.length))

/-- Renormalised weights of the present members (05 R114). -/
def Committee.weights (y : Committee) (present : List Nat) : List (Nat × Nat) :=
  let w (m : Nat) : Nat := ((y.members[m]?).map (fun z => z.weight.toNat)).getD 0
  let total := fFold (present.map w)
  present.map (fun m => (m, fDiv (w m) total))

/-- The slot may read 4 bytes of the self window at each of these addresses: their values. -/
def State.readEach (s : State) : List Nat → Except Stop (List Nat)
  | [] => .ok []
  | e :: es => do
    let a ← s.selfAccess e 4 true false 0
    let l ← s.readEach es
    .ok ((s.slotWord a 4).1.toNat :: l)

/-- The results of an ASSAY for the tokens of a list, in order, each allowed to be written. -/
def State.assayTokens (s : State) (cm : Committee) (x : Assay) (i first : Nat) (ws : List (Nat × Nat)) :
    List Nat → Except Stop (List Nat)
  | [] => .ok []
  | t :: ts => do
    let r ←
      if cm.vocab ≤ first + t then .ok fNegInf
      else do
        let lps ← s.readEach (ws.map (fun p => cm.memberBuf p.1 i + 4 * t))
        .ok (assayEval (fun n => (vget x.consts n 0).toNat)
          ((ws.zip lps).map (fun p => (p.1.1, p.2, p.1.2))) (x.ops.map (·.toNat)))
    let _ ← s.selfAccess (cm.resultBuf i + 4 * t) 4 false true 1
    let rs ← s.assayTokens cm x i first ws ts
    .ok (r :: rs)

/-- The accesses of an ASSAY come after the slot's earlier vector accesses to the same bytes (08 R158). -/
def State.assayOrder (s : State) (cm : Committee) (i : Nat) (ms : List Nat) : Except Stop Unit := do
  holdIf (ms.any (fun m => s.seqTouchesAt (cm.memberBuf m i) 0x4000))
  s.storeOrder

/-- ASSAY. -/
def execAssay (a b : GReg) (s : State) : Outcome :=
  let c := s.cur.core
  s.finish (do
    s.ports [b, a] []
    let (ge, s1) := s.readG b
    let (i, s2) := s1.readG a
    match s.committeeOf c, s.myCore.assay with
    | some cm, some x => do
      illegalIf (!cm.aseat.has c) 0
      illegalIf (elKind ge != 1 || (cm.slot? (elSlot ge)).isNone || decide (elCount ge < i.toNat)) 0
      illegalIf ((List.range 8).any (fun m => elMask ge m && !cm.valid m)) 0
      let ms := (List.range 8).filter (elMask ge)
      s.assayOrder cm i.toNat ms
      let rs ← s.assayTokens cm x i.toNat (4096 * cm.aseat.index c) (cm.weights ms) (List.range 4096)
      let s3 := ms.foldl (fun t m => (t.slotRead (sram c (cm.memberBuf m i.toNat)) 0x4000).2) s2
      .ok (s3.slotStores (sram c (cm.resultBuf i.toNat)) (rs.flatMap (leBytes 4)))
    | _, _ => illegalOperand 0)

/-! ### CARRIVE, CWAIT, DRAW and CPOST (10 R197) -/

/-- CARRIVE. -/
def execCarrive (a b : GReg) (s : State) : Outcome :=
  let c := s.cur.core
  s.finish (do
    s.ports [b, a] []
    let (b', s1) := s.readG b
    let (st, s2) := s1.readG a
    match s.committeeOf c with
    | none => illegalOperand 0
    | some cm =>
      match cm.memberAt c with
      | none => illegalOperand 0
      | some m => do
        let kind := bits st 0 2
        let len := bits st 4 4
        illegalIf ((cm.slot? b'.toNat).isNone || bits st 8 56 != 0 || bits st 2 2 != 0 || kind == 3) 0
        illegalIf (kind == 2 && (!cm.spec || m != cm.draft || len == 0 || decide (8 < len))) 0
        illegalIf (kind != 2 && len != 0) 0
        s.release
        .ok { s2 with arrivals := s2.arrivals ++ [⟨cm.claim, cm.index, m, b'.toNat, kind, len⟩] })

/-- CWAIT (20 R319): the head of q7. -/
def execCwait (a b : GReg) (s : State) : Outcome :=
  let c := s.cur.core
  s.finish (do
    s.ports [b] [a]
    let (sel, s1) := s.readG b
    match s.committeeOf c with
    | none => illegalOperand 0
    | some cm => do
      illegalIf (!cm.aseat.has c && (cm.memberAt c).isNone) 0
      illegalIf (bits sel 9 55 != 0 || (!bit sel 8 && (cm.slot? (bits sel 0 8)).isNone)) 0
      match s1.inPort 7 with
      | [] => .error .hold
      | w :: _ => do
        illegalIf (!bit sel 8 && elSlot w != bits sel 0 8) 0
        (s1.takeG 31).writeG a w)

/-- The fp32 value lies in (0, 1]. -/
def topPOk (p : Nat) : Bool := fLt 0 p && fGe 0x3F800000 p

/-- DRAW: counts the core's DRAW; the last assay core's starts the draw engine. -/
def execDraw (a b : GReg) (s : State) : Outcome :=
  let c := s.cur.core
  s.finish (do
    s.ports [b, a] []
    let (ge, s1) := s.readG b
    let (p, s2) := s1.readG a
    match s.committeeOf c with
    | none => illegalOperand 0
    | some cm =>
      match cm.slot? (elSlot ge) with
      | none => illegalOperand 0
      | some y => do
        illegalIf (!cm.aseat.has c || elKind ge != 1 || y.state != .combine) 0
        illegalIf (bits p 16 16 != 0 || !topPOk (bits p 32 32)) 0
        s.release
        let ds := if y.draws.contains c then y.draws else y.draws ++ [c]
        let z : BatchSlot :=
          { y with
            draws := ds
            params := if c = cm.aseat.root then p else y.params
            drawer := (c, s.cur.slot.val, s.me.pc)
            drawLaunch := (s.residentOf c).map (·.id)
            state := if ds.length = cm.aseat.w * cm.aseat.h then .drawing else y.state }
        .ok (s2.setBatch cm.claim cm.index (elSlot ge) z false))

/-! ### KV contexts (10 R194, 11 R216, R217; log 83) -/

/-- The pages for the tokens of a context, `per` to a page; a page taken later has a higher number. -/
def KvContext.grown (x : KvContext) (per : Nat) : KvContext :=
  let next := (x.pages.getLast?.map (· + 1)).getD 0
  { x with pages := x.pages ++ (List.range ((x.pos + per - 1) / per - x.pages.length)).map (next + ·) }

/-- SLIDE: the oldest pages past the first `sink` are evicted until `n` tokens fit below the limit, and counted; with no
such page left the member retires. -/
def KvContext.slide (per limit sink n : Nat) : Nat → KvContext → KvContext × Nat
  | 0, x => ({ x with withdraw := true }, 0)
  | f + 1, x =>
    if x.pos + n ≤ limit then (({ x with pos := x.pos + n } : KvContext).grown per, 0)
    else
      match x.pages.find? (fun p => decide (sink ≤ p)) with
      | none => ({ x with withdraw := true }, 0)
      | some p =>
        let (y, k) := KvContext.slide per limit sink n f
          { x with pos := x.pos - per, pages := x.pages.filter (fun q => q != p) }
        (y, k + 1)

/-- A member appends `n` tokens to a context: what it holds then, and the pages evicted. -/
def Member.append (m : Member) (per n : Nat) (x : KvContext) : KvContext × Nat :=
  if x.pos + n ≤ m.ctxlim then (({ x with pos := x.pos + n } : KvContext).grown per, 0)
  else if m.retire then ({ x with withdraw := true }, 0)
  else KvContext.slide per m.ctxlim m.sink n (x.pages.length + 1) x

/-- Member tokens of a canonical token: LEN of its entry of REV. -/
def State.reverseLen (s : State) (claim : Nat) (m : Member) (c : Nat) : Nat :=
  match s.firmwareRead claim (m.rev.toNat + 16 * c) 1 with
  | some bs => leNat bs
  | none => 0

/-- SLID of the streams that feed a member. -/
def State.addSlid (s : State) (cm : Committee) (m n : Nat) : State :=
  if n = 0 then s
  else
    { s with
      media := s.media.map (fun z =>
        if z.claim = cm.claim ∧ z.cmte = cm.index ∧ z.member = m then { z with slid := z.slid + word n } else z) }

/-- The members of a list append the posted tokens to their contexts of a sequence. -/
def State.appendTokens (s : State) (cm : Committee) (y : BatchSlot) (tokens : List Nat) (ms : List Nat) :
    BatchSlot × State :=
  ms.foldl
    (fun p m =>
      match cm.members[m]?, p.1.kv[m]? with
      | some z, some x =>
        let n := (tokens.map (s.reverseLen cm.claim z)).sum
        let (w, k) := z.append (max 1 (Config.kvTokens cm.claim cm.index m)) n x
        ({ p.1 with kv := p.1.kv.set m w }, p.2.addSlid cm m k)
      | _, _ => p)
    (y, s)

/-- The post of a draw element (10 R202). -/
def State.post (s : State) (cm : Committee) (b : Nat) (y : BatchSlot) (d : Word) (stop : Bool) : State :=
  let stop := stop || !cm.stopping.isEmpty
  let r := if stop then 3 else elReason d
  let ends := stop || elReason d == 2 || elReason d == 4
  let n := if ends && elValue d == noToken then elCount d else elCount d + 1
  let w := q7Element 3 b (elCount d) r y.dl y.short (maskOf y.present) (elValue d)
  let tokens := (List.range (elCount d)).map (fun i => s.chainToken cm b (i + 1)) ++
    (if elValue d = noToken then [] else [elValue d])
  let (y1, s1) := s.appendTokens cm { y with pos := y.pos + word n, reason := r } tokens y.electors
  let (z, s2) := s1.postAll cm b y1 w y.electors
  let z : BatchSlot := { z with arrived := [], present := [], t0 := 0, chain := 0, short := false, dl := false, draws := [] }
  if ends then s2.endBatch cm.claim cm.index b z
  else s2.settleBatch cm.claim cm.index b { z with state := .idle }

/-- CPOST: on the assay root. -/
def execCpost (a b : GReg) (s : State) : Outcome :=
  let c := s.cur.core
  s.finish (do
    s.ports [b, a] []
    let (f, s1) := s.readG b
    let (d, s2) := s1.readG a
    match s.committeeOf c with
    | none => illegalOperand 0
    | some cm =>
      match cm.slot? (elSlot d) with
      | none => illegalOperand 0
      | some y => do
        illegalIf (cm.aseat.root != c || elKind d != 2 || y.state != .drawn || bits f 1 63 != 0) 0
        s.release
        .ok (s2.post cm (elSlot d) y d (bit f 0)))

/-! ### Grammar (10 R203) -/

/-- A relaxed load of `n` bytes at an offset from a pointer of the grammar: the value and the state after it. A word of
another core of the claim is read at once. -/
def State.grammarLoad (s : State) (p : Word) (d : Nat) (n : Nat) : Except Stop (Nat × State) := do
  let e ← ea p d 0 0
  illegalIf (e % n != 0) (word e)
  s.afterVectorAt e n
  match rowFor e n with
  | .claim =>
    match s.sliceCore s.cur.core e with
    | none => protection 0 (word e)
    | some t =>
      if s.isDet s.cur.core then do
        let (v, s1) ← s.loadAt e n
        .ok (v.toNat, s1)
      else if !s.remoteOk (s.claimId s.cur.core) t (sliceOff e) (.load n) then .error (.fatal ⟨0x04, 0, word t⟩)
      else do
        let a := sram t (sliceOff e)
        holdIf (!s.forwards a n && (s.me.bufferMeets a n || s.ownRemote s.cur.core s.cur.slot.val a n))
        s.checkSeen a n
        .ok ((s.slotWord a n).1.toNat, (s.slotWord a n).2)
  | .unit => illegalOperand (word e)
  | _ => do
    let (v, s1) ← s.loadAt e n
    .ok (v.toNat, s1)

/-- The probes from a bucket on. -/
def State.grammarProbe (s : State) (table : Word) (size : Nat) (st tok : Nat) :
    Nat → Nat → Except Stop (Nat × State)
  | 0, _ => .ok (noToken, s)
  | n + 1, i => do
    let (x, s1) ← s.grammarLoad table (16 * i) 4
    if x = noToken then .ok (noToken, s1)
    else do
      let (y, s2) ← s1.grammarLoad table (16 * i + 4) 4
      if x = st ∧ y = tok then s2.grammarLoad table (16 * i + 8) 4
      else s2.grammarProbe table size st tok n ((i + 1) % size)

/-- `next(s, t)`. LOGB and the states are taken as they stand, and the reserved bytes of the header are not looked at
(log 120, the model's choice). -/
def State.grammarNext (s : State) (cm : Committee) (st tok : Word) : Except Stop (Nat × State) := do
  let (bitmap, s1) ← s.grammarLoad cm.grammar 0 8
  let (table, s2) ← s1.grammarLoad cm.grammar 8 8
  let (states, s3) ← s2.grammarLoad cm.grammar 16 4
  let (logb, s4) ← s3.grammarLoad cm.grammar 20 1
  if states ≤ st.toNat ∨ st.toNat = noToken ∨ cm.vocab ≤ tok.toNat then .ok (noToken, s4)
  else do
    let t := tok.toNat
    let row := st.toNat * ((cm.vocab + 4095) / 4096) * 512 + 512 * (t / 4096) + t % 4096 / 8
    let (m, s5) ← s4.grammarLoad (word bitmap) row 1
    if m / 2 ^ (t % 8) % 2 = 0 then .ok (noToken, s5)
    else
      s5.grammarProbe (word table) (2 ^ logb) st.toNat t (2 ^ logb)
        ((xs ((st <<< 32) ||| tok)).toNat % 2 ^ logb)

/-- GSTEP: a port in field A is an illegal operand. -/
def execGstep (a b : GReg) (s : State) : Outcome :=
  s.finish (do
    illegalIf (isPort a) 0
    s.ports [b] []
    let (tok, s1) := s.readG b
    match s1.committeeOf s.cur.core with
    | none => illegalOperand 0
    | some cm => do
      illegalIf (cm.grammar == 0) 0
      let (n, s2) ← s1.grammarNext cm (s1.peekG a) tok
      s2.writeG a (word n))

end Sys2Proof.Machine
end

