-- ==== Sys2Proof/Machine/Queues.lean ====
section
/-! DEFINITION. Queues and packets (12 R218-R224): QPUSH (R228), the queue doorbell (R231), and the packets other than
LAUNCH and TIMER. -/

namespace Sys2Proof.Machine

/-! ### Appending (12 R218, R219, R228) -/

/-- The queue has room for a packet. -/
def Queue.room (x : Queue) : Bool := decide (x.wr - x.rd < 2 ^ x.logsize)

/-- A packet appended to a queue: 64 bytes and WRIDX in one step; a queue that is not ACTIVE discards it at once. A ring
that cannot be written keeps its bytes (log 25). -/
def State.appendPacket (s : State) (q : Nat) (r : Rec) : State :=
  let x := s.queueOf q
  let s1 := match s.ringAddr q x.wr true with
    | some a => s.writeBytes a (leBytes 64 r.toNat)
    | none => s
  let s2 := s1.setQueue q { x with wr := x.wr + 1 }
  if x.state = .active then s2 else s2.discardAll q

/-- The scope named by a packet's FLAGS takes part in no rule of a memory in program order; QPUSH is a release (log 2). -/
def execQpush (a b : GReg) (s : State) : Outcome :=
  s.finish (do
    s.ports [b, a] []
    let (p, s1) := s.readG b
    let (h, s2) := s1.readG a
    let x := s.queueOf h.toNat
    illegalIf (decide (1023 < h.toNat) || x.state == .absent || x.claim != s.claimId s.cur.core) 0
    illegalIf (p.toNat % 64 != 0 || decide (0xFFFFF < p.toNat + 63)) p
    s.afterVectorAt p.toNat 64
    let bs ← s.selfBytes p.toNat 64
    s.release
    match s.residentOf s.cur.core with
    | some l =>
      if l.det then .ok (s2.addTask l (.qpush h.toNat (recOf bs)))
      else do
        holdIf (!x.room)
        .ok (s2.appendPacket h.toNat (recOf bs))
    | none => do
      holdIf (!x.room)
      .ok (s2.appendPacket h.toNat (recOf bs)))

/-- QUEUE_DOORBELL (12 R231). -/
def State.queueBell (s : State) (q : Nat) (w : Word) : Option State :=
  let x := s.queueOf q
  if q < 1024 ∧ x.state ≠ .absent then
    (if w.toNat < x.wr ∨ x.rd + 2 ^ x.logsize < w.toNat then some (s.report .doorbellIgnored)
     else
       let s1 := s.setQueue q { x with wr := w.toNat }
       some (if x.state = .active then s1 else s1.discardAll q))
  else none

/-- QUEUE_DOORBELL. -/
def execQueueDoorbell (q : Nat) (w : Word) (s : State) : Outcome := s.event (s.queueBell q w)

/-! ### Packets as they start (12 R220-R222) -/

/-- TYPE. -/
def packetType (r : Rec) : Nat := recField r 0 1
/-- CSIG. -/
def packetSignal (r : Rec) : Word := recWord r 8
/-- OP or MODE. -/
def packetOp (r : Rec) : Nat := recField r 16 1

/-- Some byte from `lo` up to `hi` is set. -/
def bytesSet (r : Rec) (lo hi : Nat) : Bool := recField r lo (hi - lo) != 0

/-- A reserved TYPE, or a zero field set. -/
def packetBad (r : Rec) : Bool :=
  decide (8 ≤ recField r 1 1) || bytesSet r 2 8 ||
  match packetType r with
  | 1 => bytesSet r 56 64
  | 2 => bytesSet r 40 64
  | 3 => bytesSet r 26 64
  | 4 => bytesSet r 18 24 || bytesSet r 50 56
  | 5 => bytesSet r 17 24 || bytesSet r 40 64
  | 6 => bytesSet r 18 24 || bytesSet r 56 64
  | 7 => bytesSet r 16 64
  | _ => true

/-- The packet of a queue that may start next, a command processor being ready; one that cannot be read is of a reserved
type. -/
def State.nextPacket (s : State) (q : Nat) : Option (Nat × Rec) :=
  let x := s.queueOf q
  if s.ready.getLsbD 0 && x.state == .active && decide (x.rd < x.wr) && x.placing.isNone then
    let r := (s.packetAt q x.rd).getD 0
    if recField r 1 1 % 2 = 1 ∧ x.running ≠ [] then none else some (x.rd, r)
  else none

/-- The LAUNCH packet at the head of a queue that may start, or waits for placement. -/
def State.launchHead (s : State) (q : Nat) : Option (Nat × Rec) :=
  let x := s.queueOf q
  match x.placing with
  | some p => some (p.number, p.packet)
  | none => (s.nextPacket q).filter (fun p => packetType p.2 == 1)

/-- A launch of the claim waits for placement. -/
def State.someWaits (s : State) (id : Nat) : Bool :=
  s.queues.any (fun p => p.2.claim == id && p.2.state == .active && (s.launchHead p.1).isSome)

/-- A packet starts: RDIDX passes it, and it runs. -/
def State.startPacket (s : State) (q n : Nat) (r : Rec) (b : Option (List Word)) : State :=
  let x := s.queueOf q
  s.setQueue q { x with rd := n + 1, running := x.running ++ [⟨n, packetSignal r, b⟩] }

/-- A packet completes with ABORT instead of starting. -/
def State.refusePacket (s : State) (q n : Nat) (r : Rec) : State :=
  let x := s.queueOf q
  (s.setSignal x.claim (packetSignal r) minusOne).setQueue q { x with rd := n + 1 }

/-- CSIG can be used. -/
def State.signalUsable (s : State) (q : Nat) (r : Rec) : Bool :=
  packetSignal r == 0 || (s.signalPlace (s.queueOf q).claim (packetSignal r)).isSome

/-- The next packet of a queue, if `p` holds of it, does `go` once it runs; a malformed packet, or one whose CSIG cannot be
used, completes with ABORT. -/
def State.packetRow (s : State) (q : Nat) (p : Rec → Bool) (go : Nat → Rec → State → State) : Option State :=
  match s.nextPacket q with
  | some (n, r) =>
    if !p r then none
    else if !s.signalUsable q r || packetBad r then some (s.refusePacket q n r)
    else some (go n r (s.startPacket q n r none))
  | none => none

/-- A packet that has run completes, normally or with ABORT. -/
def State.endPacket (s : State) (q n : Nat) (ok : Bool) : State :=
  if ok then s.completePacket q n else s.abortPacket q n

/-! ### NOP and SIGNAL (12 R224) -/

/-- NOP; a reserved TYPE aborts here too. -/
def execNop (q : Nat) (s : State) : Outcome :=
  s.event (s.packetRow q (fun r => packetType r == 7 || packetType r == 0 || decide (8 ≤ packetType r))
    (fun n _ t => t.completePacket q n))

/-- A SIGNAL packet's update of the signal's value; a value that has to be read and cannot makes it abort (13 R250). -/
def State.signalPacket (s : State) (q n : Nat) (r : Rec) (f : Word → Word → Word) : State :=
  match s.signalPlace (s.queueOf q).claim (recWord r 24) with
  | some a =>
    if packetOp r ≤ 2 ∧ (packetOp r = 0 ∨ !s.poisonedIn a 8) then (s.writeN a 8 (f (s.readN a 8) (recWord r 32))).completePacket q n else s.abortPacket q n
  | none => s.abortPacket q n

/-- SIGNAL_STORE; an OP outside the table aborts here. -/
def execSignalStore (q : Nat) (s : State) : Outcome :=
  s.event (s.packetRow q (fun r => packetType r == 5 && (packetOp r == 0 || decide (2 < packetOp r)))
    (fun n r t => t.signalPacket q n r (fun _ v => v)))
/-- SIGNAL_ADD. -/
def execSignalAdd (q : Nat) (s : State) : Outcome :=
  s.event (s.packetRow q (fun r => packetType r == 5 && packetOp r == 1)
    (fun n r t => t.signalPacket q n r (fun o v => o + v)))
/-- SIGNAL_DECREMENT. -/
def execSignalDecrement (q : Nat) (s : State) : Outcome :=
  s.event (s.packetRow q (fun r => packetType r == 5 && packetOp r == 2)
    (fun n r t => t.signalPacket q n r (fun o _ => o - 1)))

/-! ### BARRIER (12 R223) -/

/-- BARRIER: the packet starts and waits on its signals. -/
def State.barrierStart (s : State) (q : Nat) : Option State :=
  match s.nextPacket q with
  | some (n, r) =>
    if packetType r != 2 then none
    else if !s.signalUsable q r || packetBad r then some (s.refusePacket q n r)
    else some (s.startPacket q n r (some ([recWord r 16, recWord r 24, recWord r 32].filter (fun w => w != 0))))
  | none => none

/-- BARRIER. -/
def execBarrier (q : Nat) (s : State) : Outcome := s.event (s.barrierStart q)

/-- A signal's value; none where it cannot be used. -/
def State.signalValue (s : State) (claim : Nat) (p : Word) : Option Word :=
  match s.signalPlace claim p with
  | some a => if s.poisonedIn a 8 then none else some (s.readN a 8)
  | none => none

/-- BARRIER_COMPLETE: all signals read 0; or one is negative or cannot be used, and the queue enters ERROR. -/
def State.barrierEnd (s : State) (q n : Nat) : Option State :=
  match (s.queueOf q).running.find? (fun r => r.number == n) with
  | some r =>
    match r.barrier with
    | some l =>
      let vs := l.map (s.signalValue (s.queueOf q).claim)
      if !s.ready.getLsbD 0 then none
      else if vs.any (fun v => v.all (fun w => w.msb)) then some ((s.queueError q).abortPacket q n)
      else if vs.all (fun v => v == some 0) then some (s.completePacket q n)
      else none
    | none => none
  | none => none

/-- BARRIER_COMPLETE. -/
def execBarrierComplete (q n : Nat) (s : State) : Outcome := s.event (s.barrierEnd q n)

/-! ### COPY (12 R224) -/

/-- The cluster holds a core of the claim. -/
def State.clusterInClaim (s : State) (claim cl : Nat) : Bool :=
  decide (cl < 320) && (s.claim? claim).any (fun x => x.rect.cores.any (fun c => clusterOf c == cl))

/-- COPY_PACKET: the record goes to the cluster's engine; the checks of EPUSH on it, that of its pointer first, make the
packet abort (12 R224, 03 R70). -/
def State.copyPush (s : State) (q n : Nat) (r : Rec) : State :=
  let id := (s.queueOf q).claim
  let cl := recField r 24 2
  match s.firmwareRead id (recField r 16 8) 64, s.claim? id with
  | some bs, some x =>
    let c := recOf bs
    let seeds := Vector.ofFn (fun i : Fin 16 => seedOf x.seeds i.val)
    if recField r 16 8 % 64 == 0 && s.clusterInClaim id cl && !headerBad 1 c &&
        (match s.copyChecks id seeds c with | .ok _ => true | .error _ => false) then
      { s with
        fresh := s.fresh + 1
        copies := s.copies ++ [
          EngineCmd.pushed s.fresh cl (.packet q n) 0 id c seeds] }
    else s.abortPacket q n
  | _, _ => s.abortPacket q n

/-- COPY_PACKET. -/
def execCopyPacket (q : Nat) (s : State) : Outcome :=
  s.event (s.packetRow q (fun r => packetType r == 3) (fun n r t => t.copyPush q n r))

/-! ### COMMITTEE (12 R224) -/

/-- A start installs its committee. -/
def State.committeeInstall (s : State) (q n : Nat) (r : Rec) : State :=
  let id := (s.queueOf q).claim
  let x := recField r 17 1
  match s.firmwareRead id (recField r 24 8) 576, s.claim? id with
  | some d, some cl =>
    if packetOp r != 0 || decide (15 < x) || (s.committee? id x).isSome then s.abortPacket q n
    else
      match s.committeeFrom cl x d with
      | some cm => ({ s with committees := s.committees ++ [cm] } : State).completePacket q n
      | none => s.abortPacket q n
  | _, _ => s.abortPacket q n

/-- COMMITTEE_START; an OP outside the table aborts here. -/
def execCommitteeStart (q : Nat) (s : State) : Outcome :=
  s.event (s.packetRow q (fun r => packetType r == 6 && (packetOp r == 0 || decide (2 < packetOp r)))
    (fun n r t => t.committeeInstall q n r))

/-- A sequence waits for admission. -/
def State.committeeAdd (s : State) (q n : Nat) (r : Rec) : State :=
  let id := (s.queueOf q).claim
  let x := recField r 17 1
  match s.committee? id x with
  | some cm =>
    if cm.stopping.isEmpty then
      s.modCommittee id x (fun y =>
        { y with waiting := y.waiting ++ [⟨recWord r 32, recWord r 40, recWord r 48, (q, n), none⟩] })
    else s.abortPacket q n
  | none => s.abortPacket q n

/-- COMMITTEE_SEQUENCE. -/
def execCommitteeSequence (q : Nat) (s : State) : Outcome :=
  s.event (s.packetRow q (fun r => packetType r == 6 && packetOp r == 1) (fun n r t => t.committeeAdd q n r))

/-- A stop: waiting sequences complete, active ones end at their next post. -/
def State.committeeHalt (s : State) (q n : Nat) (r : Rec) : State :=
  let id := (s.queueOf q).claim
  let x := recField r 17 1
  match s.committee? id x with
  | some cm =>
    let s1 := s.modCommittee id x (fun y => { y with waiting := [], stopping := y.stopping ++ [(q, n)] })
    (cm.waiting.foldl (fun t w => t.completePacket w.packet.1 w.packet.2) s1).checkStop id x
  | none => s.abortPacket q n

/-- COMMITTEE_STOP. -/
def execCommitteeStop (q : Nat) (s : State) : Outcome :=
  s.event (s.packetRow q (fun r => packetType r == 6 && packetOp r == 2) (fun n r t => t.committeeHalt q n r))

end Sys2Proof.Machine
end

