-- ==== Sys2Proof/Machine/Clock.lean ====
section
/-! DEFINITION. Device time, the timer wheel and media streams (11 R206-R217), and the TIMER packet (12 R224). -/

namespace Sys2Proof.Machine

/-! ### Device time (11 R206) -/

/-- TIME_LOCK: at first lock device time steps forward to TAI, or holds. -/
def State.lockAt (s : State) (tai : Word) : Option State :=
  if s.timeMode = .free ∧ s.timeHold = none then
    some (if s.time ≤ tai.toNat then { s with time := tai.toNat, timeMode := .locked }
      else { s with timeHold := some tai.toNat })
  else none

/-- TIME_LOCK. -/
def execTimeLock (tai : Word) (s : State) : Outcome := s.event (s.lockAt tai)

/-- TIME_FOLLOW: held device time follows TAI once TAI has reached it. -/
def State.followAt (s : State) : Option State :=
  match s.timeHold with
  | some t => if s.time ≤ t then some { s with timeHold := none, timeMode := .locked } else none
  | none => none

/-- TIME_FOLLOW. -/
def execTimeFollow (s : State) : Outcome := s.event s.followAt

/-- TIME_HOLDOVER: the lock is lost. -/
def execTimeHoldover (s : State) : Outcome :=
  s.event (if s.timeMode = .locked then some { s with timeMode := .holdover } else none)

/-- LOCK_REGAINED. -/
def execLockRegained (s : State) : Outcome :=
  s.event (if s.timeMode = .holdover then some { s with timeMode := .locked } else none)

/-! ### The wheel (11 R208, R209) -/

/-- The first turn of the wheel at or after a device time. -/
def turnAt (t : Nat) : Nat := (t + 63) / 64 * 64

/-- The turn that releases a timer, seen at device time `now`. -/
def Timer.turn (t : Timer) (now : Nat) : Nat := turnAt (max (max t.due t.earliest) now)

/-- Placement rounds that a waiting launch makes due at a multiple of 10 µs (12 R233). -/
def State.roundTimes (s : State) : List Nat :=
  if s.ready.getLsbD 0 && s.pwr != 2 then
    (s.claims.filter (fun cl => s.someWaits cl.id)).map
      (fun cl => max s.time ((cl.rounds + 1) * 10000))
  else []

/-- Deadlines of the gathers that have their quorum (10 R199). -/
def State.deadlineTimes (s : State) : List Nat :=
  s.committees.flatMap (fun cm =>
    match s.deadlineOf cm with
    | some d =>
      (cm.slots.filter (fun p => p.2.state == .gather && decide (cm.quorum ≤ p.2.present.length))).map
        (fun p => max s.time (p.2.t0 + d))
    | none => [])

/-- Device time passes by at most `ns`, and not past a turn that has a timer to release, a placement round or a gather
that completes by its deadline; held, only TAI passes. -/
def State.passTime (s : State) (ns : Nat) : State :=
  match s.timeHold with
  | some t => { s with timeHold := some (min (t + ns) s.time) }
  | none =>
    { s with
      time := ((s.timers.filter (fun t => !t.spent)).map (fun t => t.turn s.time) ++ s.roundTimes ++ s.deadlineTimes).foldl
        min (s.time + ns) }

/-- First due time of a periodic timer at device time `now`. -/
def firstDue (phase period now : Nat) : Nat :=
  if now ≤ phase then phase else phase + (now - phase + period - 1) / period * period

/-- PERIOD is one that 11 R208 allows. -/
def periodOk (p : Nat) : Bool := decide (1024 ≤ p) && decide (p ≤ 2 ^ 40) && p % 64 == 0

/-- A timer id that no armed timer has, from a free value on: the spec names none (log 7). -/
def State.timerId (s : State) : Nat :=
  let n := (Config.freeWord s.free).toNat
  (((List.range 4096).map (fun i => (n + i) % 4096)).find? (fun i => !s.timers.any (fun t => t.id == i))).getD 0

/-- A timer armed on the wheel: its id and the state after it; none where the wheel is full. -/
def State.armTimer (s : State) (claim period due : Nat) (x : TimerTarget) : Option (Nat × State) :=
  if 4096 ≤ s.timers.length then none
  else
    let id := s.timerId
    some (id, { s with
      free := s.free + 1
      timers := s.timers ++ [⟨id, claim, period, due, if due < s.time then s.time + 1 else due, false, x⟩] })

/-- An element that a release sends to q4, or that waits there for room. -/
def CoreState.pushNote (x : CoreState) (w : Word) : CoreState :=
  if (x.port 4).length < portDepth 4 ∧ x.notes = [] then x.setPort 4 (x.port 4 ++ [w])
  else { x with notes := x.notes ++ [w] }

/-- A running launch of the claim occupies the core, and is not pre-empted (11 R210). -/
def State.runsFor (s : State) (claim c : Nat) : Bool :=
  (s.residentOf c).any (fun l => l.claim == claim) && !(s.coreOf c).stopped

/-- The element of a timer release (11 R210). -/
def timerElement (id skip now : Nat) : Word :=
  fieldAt 62 1 ||| fieldAt 48 id ||| fieldAt 32 (min skip 65535) ||| word (now % 2 ^ 32)

/-- A release reads its packet and sends it to a queue of its claim; none where it appends nothing. -/
def State.releasePacket (s : State) (claim : Nat) (p : Word) (q : Nat) : Option State :=
  let x := s.queueOf q
  match s.firmwareRead claim p.toNat 64 with
  | some bs =>
    if x.state = .absent ∨ x.claim ≠ claim then none
    else some { s with appends := s.appends ++ [⟨claim, q, recOf bs⟩] }
  | none => none

/-- The state with a media stream updated. -/
def State.modMedia (s : State) (id h : Nat) (f : Media → Media) : State :=
  { s with media := replaceFirst (fun m => m.claim == id && m.handle == h) f s.media }

/-- An installed media stream. -/
def State.media? (s : State) (id h : Nat) : Option Media := s.media.find? (fun m => m.claim == id && m.handle == h)

/-- What a release does; none where it appends or pushes nothing. -/
def State.fire (s : State) (t : Timer) (skip : Nat) : Option State :=
  match t.target with
  | .queue p q => s.releasePacket t.claim p q
  | .element c =>
    if s.runsFor t.claim c then some (s.modCore c (fun x => x.pushNote (timerElement t.id skip s.time))) else none
  | .media h => some (s.modMedia t.claim h (fun m => { m with ticks := m.ticks ++ [s.time] }))

/-- What is reported of a release that appends or pushes nothing. -/
def Timer.lost (t : Timer) : Report :=
  match t.target with
  | .element _ => .elementDropped
  | .queue _ _ => .releaseDropped
  | .media _ => .releaseDropped

/-- TIMER_RELEASE: at a turn of the wheel, armed timer `n` is released once if it is due. An absolute timer is then armed
no more, unless its release appended or pushed nothing. -/
def State.wheelRelease (s : State) (n : Nat) : Option State :=
  match s.timers[n]? with
  | some t =>
    if s.timeHold.isSome || s.time % 64 != 0 || decide (s.time < max t.due t.earliest) || t.spent then none
    else
      let skip := if t.period = 0 then 0 else (s.time - t.due) / t.period
      let next := t.due + (skip + 1) * t.period
      let kept : State := { s with timers := s.timers.set n { t with due := next, earliest := next, spent := t.period == 0 } }
      match (if t.period = 0 then ({ s with timers := dropAt s.timers n } : State) else kept).fire t skip with
      | some s1 => some s1
      | none => some (kept.report t.lost)
  | none => none

/-- TIMER_RELEASE. -/
def execTimerRelease (n : Nat) (s : State) : Outcome := s.event (s.wheelRelease n)

/-- TIMER_QUEUE_APPEND: a released packet enters its queue once there is room (12 R224). -/
def State.appendAt (s : State) (n : Nat) : Option State :=
  match s.appends[n]? with
  | some a =>
    let s1 : State := { s with appends := dropAt s.appends n }
    let x := s.queueOf a.queue
    if x.state = .absent ∨ x.claim ≠ a.claim then some (s1.report .releaseDropped)
    else if x.room then some (s1.appendPacket a.queue a.packet)
    else none
  | none => none

/-- TIMER_QUEUE_APPEND. -/
def execTimerQueueAppend (n : Nat) (s : State) : Outcome := s.event (s.appendAt n)

/-! ### The TIMER packet (12 R224) -/

/-- What a TIMER packet's releases reach; none where a field is outside its table. -/
def State.timerTarget (s : State) (id : Nat) (r : Rec) : Option TimerTarget :=
  match recField r 17 1, s.claim? id with
  | 0, some _ => if recField r 48 2 ≤ 1023 then some (.queue (recWord r 40) (recField r 48 2)) else none
  | 1, some x =>
    if recField r 40 8 < x.rect.w * x.rect.h then some (.element (x.rect.coreOf (recField r 40 8))) else none
  | _, _ => none

/-- A TIMER packet that arms: IDOUT must be writable, and the wheel have room. -/
def State.timerPacket (s : State) (q n : Nat) (r : Rec) : State :=
  let id := (s.queueOf q).claim
  let t := recField r 24 8
  let per := recField r 32 8
  let mode := packetOp r
  match s.timerTarget id r with
  | none => s.abortPacket q n
  | some x =>
    if decide (1 < mode) || (mode == 1 && !periodOk per) then s.abortPacket q n
    else
      match s.armTimer id (if mode = 1 then per else 0) (if mode = 1 then firstDue t per s.time else t) x with
      | none => s.abortPacket q n
      | some (i, s1) =>
        match s1.firmwareWrite id (recField r 56 8) (leBytes 8 i) with
        | some s2 => s2.completePacket q n
        | none => s.abortPacket q n

/-- TIMER_ARM_ABSOLUTE; a MODE outside the table aborts here. -/
def execTimerArmAbsolute (q : Nat) (s : State) : Outcome :=
  s.event (s.packetRow q (fun r => packetType r == 4 && (packetOp r == 0 || decide (2 < packetOp r)))
    (fun n r t => t.timerPacket q n r))
/-- TIMER_ARM_PERIODIC. -/
def execTimerArmPeriodic (q : Nat) (s : State) : Outcome :=
  s.event (s.packetRow q (fun r => packetType r == 4 && packetOp r == 1) (fun n r t => t.timerPacket q n r))

/-- A disarm: a timer of the queue's claim. -/
def State.timerStop (s : State) (q n : Nat) (r : Rec) : State :=
  let id := (s.queueOf q).claim
  let mine (t : Timer) : Bool := t.id == recField r 48 2 && t.claim == id
  if s.timers.any mine && decide (recField r 17 1 ≤ 1) then
    ({ s with timers := s.timers.filter (fun t => !mine t) } : State).completePacket q n
  else s.abortPacket q n

/-- TIMER_DISARM. -/
def execTimerDisarm (q : Nat) (s : State) : Outcome :=
  s.event (s.packetRow q (fun r => packetType r == 4 && packetOp r == 2) (fun n r t => t.timerStop q n r))

/-! ### Media streams (11 R211-R216) -/

/-- GAP. -/
def gapToken : Nat := 0xFFFFFFFE

/-- Physical address of position `p` of interval `k`. -/
def State.mediaPlace (s : State) (m : Media) (k p : Nat) : Nat :=
  let va := m.win + 4 * m.slots * (k % (m.depth + 1)) + 4 * p
  (s.firmwarePlace m.claim false false va).getD 0

/-- Filled positions of an interval. -/
def Media.filled (m : Media) (k : Nat) : Nat := lookupD 0 k m.fill

/-- The stream after interval `k` is sealed. -/
def Media.sealed (m : Media) (k : Nat) : Media :=
  { m with
    sealCount := m.sealCount + 1
    unread := if m.sealCount = 0 then m.unread else m.unread + word (m.current - m.readPos)
    current := m.filled k
    readPos := 0
    fill := eraseKey k m.fill
    unreported := m.unreported + 1 }

/-- One interval sealed: GAP in every empty position. -/
def State.sealInterval (s : State) (id h k : Nat) : State :=
  match s.media? id h with
  | some m =>
    let n := m.filled k
    let a := s.mediaPlace m k n
    ((s.wakeAt a).writeBytes a ((List.range (m.slots - n)).flatMap (fun _ => leBytes 4 gapToken))).modMedia id h
      (fun m => m.sealed k)
  | none => s

/-- MEDIA_TICK: a tick seals every open interval that has ended and releases TICK. -/
def State.tickAt (s : State) (id h : Nat) : Option State :=
  match s.media? id h with
  | some m =>
    match m.ticks with
    | t :: ts =>
      if !s.ready.getLsbD 3 then none
      else
        let ks := ((List.range m.depth).map (fun i => m.sealCount + i)).filter
          (fun k => decide (m.phase + (k + 1) * m.period ≤ t))
        let s1 := ks.foldl (fun u k => u.sealInterval id h k) (s.modMedia id h (fun m => { m with ticks := ts }))
        let s2 :=
          if m.tick = 0 then s1
          else
            match s1.releasePacket id m.tick m.queue with
            | some t => t
            | none => s1.report .releaseDropped
        some (if m.note / 2 ^ 15 % 2 = 1 then s2.modMedia id h (fun m => { m with pendingNote := true }) else s2)
    | [] => none
  | none => none

/-- MEDIA_TICK. -/
def execMediaTick (id h : Nat) (s : State) : Outcome := s.event (s.tickAt id h)

/-- The media-tick element (11 R215). -/
def Media.element (m : Media) : Word :=
  fieldAt 62 2 ||| fieldAt 56 m.handle ||| fieldAt 48 (min m.unreported 255) ||| word (m.sealCount % 2 ^ 32)

/-- MEDIA_TICK_ELEMENT: the waiting element enters q4, or is dropped where no launch of the claim runs; its count then
stays for the next one. -/
def State.tickElement (s : State) (id h : Nat) : Option State :=
  match s.media? id h, s.claim? id with
  | some m, some cl =>
    let c := cl.rect.coreOf (m.note % 2 ^ 13)
    let x := s.coreOf c
    if !m.pendingNote then none
    else if !s.runsFor id c then
      some ((s.modMedia id h (fun m => { m with pendingNote := false })).report .elementDropped)
    else if (x.port 4).length < portDepth 4 ∧ x.notes = [] then
      some ((s.modMedia id h (fun m => { m with pendingNote := false, unreported := 0 })).modCore c
        (fun x => x.pushNote m.element))
    else none
  | _, _ => none

/-- MEDIA_TICK_ELEMENT. -/
def execMediaTickElement (id h : Nat) (s : State) : Outcome := s.event (s.tickElement id h)

/-- Bytes of a media record. -/
def mediaField (r : BitVec 256) (lo n : Nat) : Nat := r.toNat / 2 ^ (8 * lo) % 2 ^ (8 * n)

/-- MEDIA_RECORD: a record is deposited, counted or dropped by the first case of 11 R212 that applies. -/
def State.deposit (s : State) (id : Nat) (r : BitVec 256) : Option State :=
  if !s.ready.getLsbD 3 then none
  else
    let h := mediaField r 8 1
    let n := mediaField r 9 1
    let ts := mediaField r 0 8
    let toks := (List.range n).map (fun i => mediaField r (16 + 4 * i) 4)
    match s.media? id h with
    | none => some (s.report .recordDropped)
    | some m =>
      if mediaField r 10 6 ≠ 0 ∨ n = 0 ∨ 4 < n ∨
          (List.range 4).any (fun i => decide (gapToken ≤ mediaField r (16 + 4 * i) 4)) then
        some (s.report .recordDropped)
      else
        let k := (ts - m.phase) / m.period
        if ts < m.phase ∨ k < m.sealCount then some (s.modMedia id h (fun m => { m with late := m.late + 1 }))
        else if m.sealCount + m.depth ≤ k then some (s.modMedia id h (fun m => { m with early := m.early + 1 }))
        else if m.slots < m.filled k + n then some (s.modMedia id h (fun m => { m with full := m.full + 1 }))
        else
          let a := s.mediaPlace m k (m.filled k)
          some (((s.wakeAt a).writeBytes a (toks.flatMap (leBytes 4))).modMedia id h
            (fun m => { m with fill := insertKey k (m.filled k + n) m.fill }))

/-- MEDIA_RECORD. -/
def execMediaRecord (id : Nat) (r : BitVec 256) (s : State) : Outcome := s.event (s.deposit id r)

/-- An MPOP result (11 R216). -/
def mpopWord (k : Nat) (ended : Bool) (t : Nat) : Word :=
  fieldAt 40 (k % 2 ^ 24) ||| flagAt 32 ended ||| word (t % 2 ^ 32)

/-- The next position of a stream read: the result, and the state after it. Before any seal the interval index is
SEALED - 1 too (log 26). -/
def State.mediaPop (s : State) (m : Media) : Except Stop (Word × State) :=
  let k := m.sealCount + 2 ^ 24 - 1
  if m.sealCount = 0 ∨ m.readPos = m.slots then .ok (mpopWord k true gapToken, s)
  else do
    let a := s.mediaPlace m (m.sealCount - 1) m.readPos
    s.checkEcc a 4
    .ok (mpopWord k false (s.readN a 4).toNat,
      s.modMedia m.claim m.handle (fun m => { m with readPos := m.readPos + 1 }))

/-- MPOP. -/
def execMpop (a b : GReg) (s : State) : Outcome :=
  s.finish (do
    s.ports [b] [a]
    let (h, s1) := s.readG b
    match s.media? (s.claimId s.cur.core) h.toNat with
    | none => illegalOperand 0
    | some m => do
      illegalIf (decide (63 < h.toNat)) 0
      match s.residentOf s.cur.core with
      | some l =>
        if l.det then do
          let (v, s2) ← s1.await (fun t => t.addTask l (.mpop h.toNat))
          s2.writeG a v
        else do
          let (v, s2) ← s1.mediaPop m
          s2.writeG a v
      | none => do
        let (v, s2) ← s1.mediaPop m
        s2.writeG a v)

/-- A counter of a stream by its number. -/
def Media.counter (m : Media) (n : Nat) : Word :=
  match n with
  | 0 => m.late | 1 => m.early | 2 => m.full | 3 => m.unread | 4 => word m.sink | _ => m.slid

/-- MSTAT. -/
def execMstat (a b : GReg) (s : State) : Outcome :=
  s.finish (do
    s.ports [b] [a]
    let (w, s1) := s.readG b
    illegalIf (bits w 11 53 != 0 || bits w 6 2 != 0 || decide (5 < bits w 8 3)) 0
    match s.media? (s.claimId s.cur.core) (bits w 0 6) with
    | none => illegalOperand 0
    | some m => s1.writeG a (m.counter (bits w 8 3)))

end Sys2Proof.Machine
end

