-- ==== Sys2Proof/Machine/CrewOps.lean ====
section
/-! DEFINITION. Crews: CREW, CREW_FORM and SPLIT (02 R25-R29). -/

namespace Sys2Proof.Machine

/-- Rectangle of a crew descriptor, relative to the launch rectangle. -/
def crewRect (w : Word) : Rect := ⟨bits w 0 8, bits w 8 8, bits w 16 5, bits w 24 3⟩

/-- The descriptor breaks 02 R25 at position (`x`, `y`) of a group of `gw` by `gh` cores. -/
def crewBad (w : Word) (x y gw gh : Nat) : Bool :=
  let r := crewRect w
  bits w 27 37 != 0 || bits w 21 3 != 0 || decide (r.w * r.h < 2) || decide (16 < r.w) || decide (4 < r.h) ||
  (decide (1 < r.h) && decide (4 < r.w)) || !(decide (r.x + r.w ≤ gw) && decide (r.y + r.h ≤ gh)) ||
  !(decide (r.x ≤ x) && decide (x < r.x + r.w) && decide (r.y ≤ y) && decide (y < r.y + r.h))

/-- The cores a descriptor names, leader first. -/
def State.crewCores (s : State) (c : Nat) (w : Word) : List Nat :=
  match s.groupRect c with
  | some g => let r := crewRect w; (Rect.mk (g.x + r.x) (g.y + r.y) r.w r.h).cores
  | none => []

/-- The slot of a core that waits in CREW with a descriptor. -/
def CoreState.waitsFor (x : CoreState) (w : Word) : Option Nat :=
  (List.range 4).find? (fun k => (x.slotOf k).wait == .crew w && (x.slotOf k).run == .running)

/-- Another named core waits with another descriptor that names this core too (02 R25). Slots of one core do not clash: each
may wait for a crew of its own. -/
def State.crewClash (s : State) (c : Nat) (w : Word) : Bool :=
  (s.crewCores c w).any (fun m => m != c && (s.coreOf m).slots.toList.any (fun t =>
    match t.wait with
    | .crew v => v != w && (s.crewCores m v).contains c
    | _ => false))

/-- Every slot of the group that waits in CREW and has met a different descriptor will trap there. -/
def State.markClashes (s : State) (c : Nat) : State :=
  match s.groupRect c with
  | some g =>
    g.cores.foldl
      (fun t m => t.modCore m (fun x => { x with slots := x.slots.map (fun y =>
        match y.wait with
        | .crew v => if s.crewClash m v then { y with wait := .clash } else y
        | _ => y) }))
      s
  | none => s

/-- Of the two outcomes of 02 R25 for different descriptors, the one of the launch: its members trap. -/
def State.crewTraps (s : State) (c : Nat) : Bool := Config.crewTraps (((s.coreOf c).resident.map (·.1)).getD 0)

/-- Another slot of the core is crewed. A slot that has ended while crewed still counts, since it has executed no SPLIT (log
112, the model's choice). -/
def State.otherCrewed (s : State) : Bool :=
  (List.range 4).any (fun k => k != s.cur.slot.val && (s.slotOf s.cur.core k).crew.isSome)

/-- CREW (02 R25): the slot waits until every named core has executed CREW with the same descriptor. -/
def execCrew (a b : GReg) (s : State) : Outcome :=
  let c := s.cur.core
  match s.me.wait, s.me.crew with
  | .formed i, _ =>
    s.finish (do
      s.ports [b] [a]
      let (_, s1) := s.readG b
      s1.writeG a (word i))
  | .clash, _ => s.finish (illegalOperand 0)
  | .crew w, _ =>
    if s.otherCrewed then s.finish (illegalOperand 0)
    else if s.crewClash c w && s.crewTraps c then (s.markClashes c).finish (illegalOperand 0)
    else s.finish (.error .hold)
  | _, some _ => s.illegalInCrew 0 s.baseAddr
  | _, none =>
    s.finish (do
      s.ports [b] [a]
      let (w, s1) := s.readG b
      match s.groupRect c with
      | none => illegalOperand 0
      | some g => do
        illegalIf (crewBad w (colOf c - g.x) (rowOf c - g.y) g.w g.h) 0
        illegalIf s.otherCrewed 0
        .error (.sent (s1.modMe (fun t => { t with wait := .crew w }))))

/-- The crew forms, where no slot of a named core is crewed yet: each member's index is written when its CREW
completes. -/
def State.formCrew (s : State) (c k : Nat) : Option State :=
  match (s.slotOf c k).wait with
  | .crew w =>
    let cs := s.crewCores c w
    if cs.all (fun m => ((s.coreOf m).waitsFor w).isSome && (s.coreOf m).slots.toList.all (fun t => t.crew.isNone)) then
      let r := crewRect w
      let ms := cs.map (fun m => (m, ((s.coreOf m).waitsFor w).getD 0))
      some ((List.range ms.length).foldl
        (fun t i =>
          match ms[i]? with
          | some m => t.modSlot m.1 m.2 (fun y =>
              { y with
                wait := .formed i
                crew := some ⟨w, i, r.w * r.h, 2 * (i % r.w + i / r.w), 0, ms, []⟩ })
          | none => t)
        s)
    else none
  | _ => none

/-- CREW_FORM (02 R25). -/
def execCrewForm (c : Nat) (k : Fin 4) (s : State) : Outcome := s.event (s.formCrew c k.val)

/-- SPLIT (02 R28): each member leaves the crew when it executes the word; no effect outside a crew. -/
def execSplit (s : State) : Outcome := s.finish (.ok (s.modMe (fun t => { t with crew := none, forced := none })))

end Sys2Proof.Machine
end

