-- ==== Sys2Proof/Machine/Domain.lean ====
section
/-! DEFINITION. Domains and supersteps: ARRIVE, WAITB, SYNC, the sweeps, the exchange phase and its conflicts in a
deterministic launch (02 R30-R39, 08 R165, 12 R241). -/

namespace Sys2Proof.Machine

/-! ### Members -/

/-- The cores of domain `d` as core `c` sees it. -/
def State.members (s : State) (c d : Nat) : List Nat :=
  match s.groupRect c with
  | some g =>
    let r := domRect ((s.coreOf c).dom d)
    (Rect.mk (g.x + r.x) (g.y + r.y) r.w r.h).cores
  | none => []

/-- Core `m`, resident with core `c` in one group, is a member of domain `d` with it as one of the two sees it: the
rectangle of `c` holds `m`, or the valid one of `m` holds `c` (02 R32). -/
def State.meets (s : State) (c d m : Nat) : Bool :=
  (s.coreOf m).resident == (s.coreOf c).resident &&
  ((s.members c d).contains m || (domValid ((s.coreOf m).dom d) && (s.members m d).contains c))

/-- Every core that is a member of the domain with `c` holds identical fields (02 R32). -/
def State.agree (s : State) (c d : Nat) : Bool :=
  match s.groupRect c with
  | some g => g.cores.all (fun m => !s.meets c d m || domSame ((s.coreOf m).dom d) ((s.coreOf c).dom d))
  | none => true

/-- A core has arrived: every slot of SLOTS has arrived or ended (02 R33). -/
def CoreState.arrivedAt (x : CoreState) (d : Nat) : Bool :=
  (List.range 4).all (fun k =>
    !((domSlots (x.dom d)).testBit k) || vget (x.slotOf k).arr d .idle == .arrived || (x.slotOf k).run == .ended)

/-- The launch stops new arrivals for a forced pre-emption (13 R251). -/
def State.arrivalsStopped (s : State) : Bool := (s.residentOf s.cur.core).any (fun l => l.preempt == .forced)

/-! ### ARRIVE, WAITB, SYNC (02 R34) -/

/-- `arrive(k)`. -/
def State.arriveAt (s : State) (d : Fin 8) : Res := do
  let w := s.myCore.dom d.val
  illegalIf (!domValid w || !((domSlots w).testBit s.cur.slot.val)) 0
  illegalIf (vget s.me.arr d.val .idle != .idle) 0
  holdIf s.arrivalsStopped
  s.release
  let s1 := s.modMe (fun t => { t with arr := vset t.arr d.val .arrived })
  .ok (s1.modMyCore (fun x =>
    let r := x.runOf d.val
    x.setRun d.val { r with executed := true, sent := r.sent || x.arrivedAt d.val }))

/-- The members of the domain as core `c` sees it are found to disagree: another core that is a member with it, and has
executed its arrival, holds other fields (02 R32). A core that has not executed its arrival may still write its register,
and is not judged. -/
def State.disagree (s : State) (c d : Nat) : Bool :=
  match s.groupRect c with
  | some g => g.cores.any (fun m =>
      s.meets c d m && ((s.coreOf m).runOf d).executed && !domSame ((s.coreOf m).dom d) ((s.coreOf c).dom d))
  | none => false

/-- The slots that SLOTS names, in every core that is a member of the domain with core `c`, will find the disagreement at
their next WAITB or SYNC, whatever the registers hold then: the outcome of 02 R32 is one for all of them. -/
def State.markMismatch (s : State) (c d : Nat) : State :=
  match s.groupRect c with
  | some g =>
    (g.cores.filter (s.meets c d)).foldl
      (fun t m => t.modCore m (fun x => { x with slots := Vector.ofFn (fun i : Fin 4 =>
        let y := x.slotOf i.val
        if (domSlots (x.dom d)).testBit i.val then { y with mismatch := y.mismatch ||| BitVec.ofNat 8 (2 ^ d) } else y) }))
      s
  | none => s

/-- A slot without its mark of a disagreement. -/
def Slot.unmark (t : Slot) (d : Nat) : Slot := { t with mismatch := t.mismatch &&& ~~~(BitVec.ofNat 8 (2 ^ d)) }

/-- `waitb(k)`, with the moment at which members are judged to disagree: the spec gives none, and the model judges at each
attempt of a WAITB or SYNC of an arrived slot, among the members that have executed their arrival (02 R32, log 111, the
model's choice). From then on every member slot traps, or all of them wait. -/
def State.waitAt (s : State) (d : Fin 8) : Res :=
  match vget s.me.arr d.val .idle with
  | .idle => illegalOperand 0
  | .released => .ok (s.modMe (fun t => { t with arr := vset t.arr d.val .idle }))
  | .arrived =>
    if s.me.mismatch.getLsbD d.val || s.disagree s.cur.core d.val then
      (if Config.domainTraps d.val then trapWith 0x0C 0 (word d.val) else .error .hold)
    else .error .hold

/-- The state in which a WAITB or SYNC of the slot is attempted: where the members are found to disagree, every member slot
is marked, and the slot's own trap spends its mark. -/
def State.judged (s : State) (d : Fin 8) : State :=
  if vget s.me.arr d.val .idle == .arrived && (s.me.mismatch.getLsbD d.val || s.disagree s.cur.core d.val) then
    let t := if s.me.mismatch.getLsbD d.val then s else s.markMismatch s.cur.core d.val
    if Config.domainTraps d.val then t.modMe (fun y => y.unmark d.val) else t
  else s

/-- The slot has not arrived after all: its SYNC traps, and a trap leaves no effect (13 R245); the corner no longer counts
the core. -/
def State.withdrawArrival (s : State) (d : Fin 8) : State :=
  (s.modMe (fun t => { t with arr := vset t.arr d.val .idle })).modMyCore (fun x =>
    let r := x.runOf d.val
    x.setRun d.val
      { r with
        executed := x.slots.toList.any (fun t => vget t.arr d.val .idle == .arrived)
        sent := r.sent && x.arrivedAt d.val
        counted := r.counted && x.arrivedAt d.val })

/-- ARRIVE. -/
def execArrive (d : Fin 8) (s : State) : Outcome := s.finish (s.arriveAt d)
/-- WAITB. -/
def execWaitb (d : Fin 8) (s : State) : Outcome := (s.judged d).finish (s.waitAt d)
/-- SYNC: one instruction that arrives once and then waits. -/
def execSync (d : Fin 8) (s : State) : Outcome :=
  match s.me.wait with
  | .request =>
    (match s.waitAt d with
     | .error (.trap x) => ((s.judged d).withdrawArrival d).finish (.error (.trap x))
     | r => (s.judged d).finish r)
  | _ =>
    s.finish (do
      let s1 ← s.arriveAt d
      .error (.sent (s1.modMe (fun t => { t with wait := .request }))))

/-! ### Exchange plans (02 R37) -/

/-- Entry `i` of the plan at offset `a` of a core: its bytes as a number. -/
def State.planEntry (s : State) (c a i : Nat) : Nat := leNat (s.readBytes (sram c (a + 8 + 16 * i)) 16)
/-- Entries of a plan. -/
def State.planCount (s : State) (c a : Nat) : Nat := leNat (s.readBytes (sram c a) 4)

/-- The entries of domain `d` due in superstep `n`, in plan order, destinations as physical cores. -/
def State.planDue (s : State) (c d n : Nat) : List PlanWrite :=
  match s.groupRect c with
  | some g =>
    let a := (s.coreOf c).planbase.toNat
    ((List.range (s.planCount c a)).map (s.planEntry c a)).filterMap (fun e =>
      let per := e / 2 ^ 120 % 256
      if per % 8 = d ∧ n % (per / 8 + 1) = e / 2 ^ 112 % 256 then
        some ⟨e % 2 ^ 20, g.coreOf (e / 2 ^ 32 % 2 ^ 13), e / 2 ^ 64 % 2 ^ 20, e / 2 ^ 96 % 2 ^ 16⟩
      else none)
  | none => []

/-- The first word of a core's plan that its exchange unit reads and that cannot be corrected (13 R250). -/
def State.planPoison (s : State) (c : Nat) : Option Nat :=
  let a := (s.coreOf c).planbase.toNat
  if s.poisonedIn (sram c a) 8 then some (wordAddr (sram c a))
  else (wordsOf (sram c (a + 8)) (16 * s.planCount c a)).find? (fun w => s.poisoned.contains w)

/-- The exchange unit of core `c` meets a word that cannot be read: a machine check, which has no instruction (13 R250,
log 107). -/
def State.planFault (s : State) (c a : Nat) : State :=
  match s.residentOf c with
  | some l =>
    ({ s with checks := s.checks + 1 } : State).faultLaunch l
      ⟨causeWord false 0 0x0F, 0, word (wordAddr a), s.logical c⟩
  | none => s

/-! ### Sweeps (02 R33-R36) and the link barrier messages of a claim of several devices (14 R258) -/

/-- The release of a domain starts on its way to the members that core `c` sees. -/
def State.startRelease (s : State) (c d : Nat) : State :=
  let x := s.coreOf c
  let s1 := (s.members c d).foldl
    (fun t m => t.modCore m (fun x => x.setRun d { x.runOf d with counted := false, releasing := true })) s
  if d = 0 && ((x.runOf d).exchange || !domExchange (x.dom d)) then
    (match x.resident with
     | some (l, g) => s1.modLaunch l (fun l => l.modPhase g (fun ph => { ph with openTime := s1.time }))
     | none => s1)
  else s1

/-- The barrier of domain `d` of the claim spans a device. -/
def State.spansOf (s : State) (id d : Nat) : List SpanBarrier := s.spans.filter (fun x => x.claim == id && x.domain == d)

/-- The spans of domain `d` of a claim updated. -/
def State.modSpans (s : State) (id d : Nat) (f : SpanBarrier → SpanBarrier) : State :=
  { s with spans := s.spans.map (fun x => if x.claim = id ∧ x.domain = d then f x else x) }

/-- A core of the claim whose barrier waits for other devices alone: its corner holds every arrival of this one. -/
def State.linkWaiter (s : State) (id d : Nat) : Option Nat :=
  (s.cores.map (·.1)).find? (fun c =>
    s.claimId c == id && ((s.coreOf c).runOf d).counted &&
    (s.members c d).all (fun m => ((s.coreOf m).runOf d).counted))

/-- A barrier that spans devices is released where this device's message has been sent and every other's has come: one
message over each port for each sweep (log 126). -/
def State.crossLinks (s : State) (id d : Nat) : State :=
  match s.linkWaiter id d with
  | some c =>
    if (s.spansOf id d).all (fun x => x.sent && x.come) then
      let s1 := s.startRelease c d
      s1.modSpans id d (fun x => { x with come := false, sent := (s1.linkWaiter id d).isSome })
    else s
  | none => s

/-- The barrier of domain `d` of a claim spans a port from now on, or no longer. -/
def State.spanAt (s : State) (id d p : Nat) (on : Bool) : State :=
  let l := s.spans.filter (fun x => !(x.claim == id && x.domain == d && x.port == p))
  ({ s with spans := if on then l ++ [⟨id, d, p, (s.linkWaiter id d).isSome, false⟩] else l } : State).crossLinks id d

/-- The link barrier message of the devices over a port comes for domain `d` of a claim; none over a failed link. -/
def State.linkAt (s : State) (id d p : Nat) : State :=
  if s.linksDown.contains p then s
  else (s.modSpans id d (fun x => if x.port = p then { x with come := true } else x)).crossLinks id d

/-- A running slot of the domain's members, as core `c` sees them, has still to find that they disagree. -/
def State.marked (s : State) (c d : Nat) : Bool :=
  (s.members c d).any (fun m => (s.coreOf m).slots.toList.any (fun t => t.run == .running && t.mismatch.getLsbD d))

/-- ARRIVAL_SWEEP: the arrival of a core reaches the corner; with the last member's, the release starts on its way, or the
device's message goes to the others that the barrier spans. A core whose slots have all ended counts once some member slot
has executed its arrival (02 R43). -/
def State.sweep (s : State) (c d : Nat) : Option State :=
  let x := s.coreOf c
  let r := x.runOf d
  let ms := s.members c d
  let ready :=
    if r.exchange then r.sent
    else x.arrivedAt d && ms.any (fun m => ((s.coreOf m).runOf d).executed)
  if domValid (x.dom d) && ready && !r.counted && !r.releasing && s.agree c d && !s.marked c d && ms.contains c then
    let s1 := s.modCore c (fun x => x.setRun d { x.runOf d with counted := true, sent := false })
    if ms.all (fun m => ((s1.coreOf m).runOf d).counted) then
      (if (s1.spansOf (s.claimId c) d).isEmpty then some (s1.startRelease c d)
       else some ((s1.modSpans (s.claimId c) d (fun y => { y with sent := true })).crossLinks (s.claimId c) d))
    else some s1
  else none

/-- ARRIVAL_SWEEP. -/
def execArrivalSweep (c : Nat) (d : Fin 8) (s : State) : Outcome := s.event (s.sweep c d.val)

/-- A slot at a release of domain `d` (02 R35): released if it had arrived, and the words fetched beyond the instruction
it is executing discarded, as by an IFENCE (08 R157). -/
def Slot.released (t : Slot) (d : Nat) : Slot :=
  { t with
    arr := if vget t.arr d .idle = .arrived then vset t.arr d .released else t.arr
    ahead := if t.held && t.ahead.1 == t.pc then (t.pc, t.ahead.2.take ((t.npc - t.pc).toNat / 2)) else (0, [])
    fencing := true }

/-- SSTEP of a domain register increased by 1, modulo 2^16 (02 R30, R35). -/
def stepUp (w : Word) : Word := (w &&& 0xFFFF0000FFFFFFFF) ||| fieldAt 32 ((domStep w + 1) % 2 ^ 16)

/-- The release of 02 R35 at a member core. -/
def CoreState.releaseDomain (x : CoreState) (d : Nat) : CoreState :=
  ({ x with
    slots := x.slots.map (fun (t : Slot) => t.released d)
    doms := vset x.doms d (stepUp (x.dom d)) }).setRun d DomRun.reset

/-- A clean pre-emption takes effect at the release of DOM0: the core stops (13 R251). -/
def State.cleanStop (s : State) (c d : Nat) : State :=
  if d = 0 && (s.residentOf c).any (fun l => l.preempt == .clean) then
    s.modCore c (fun x => { x with stopped := true })
  else s

/-- A release of an assay seat's DOM0, as its root sees it, lets the batch swapper move the entries that wait at it
(10 R205). -/
def State.openWindow (s : State) (c d : Nat) : State :=
  if d = 0 then
    { s with
      committees := s.committees.map (fun y => if coreAt y.aseat.x y.aseat.y = c then { y with window := y.waiting.length + 1 } else y) }
  else s

/-- DOMAIN_RELEASE: the release of a plain domain or of sweep two is that of R35; the release of sweep one closes compute
and starts the exchange unit (02 R36), which reads the plan. -/
def State.domainRelease (s : State) (c d : Nat) : Option State :=
  let x := s.coreOf c
  let r := x.runOf d
  if !r.releasing then none
  else if domExchange (x.dom d) && !r.exchange then
    match s.planPoison c with
    | some w => some (s.planFault c w)
    | none => some (s.modCore c (fun x => x.setRun d
      { r with
        executed := false, sent := false, releasing := false, exchange := true
        due := s.planDue c d (domStep (x.dom d))
        drainBelow := s.fresh }))
  else some (((s.modCore c (fun x => x.releaseDomain d)).cleanStop c d).openWindow c d)

/-- DOMAIN_RELEASE. -/
def execDomainRelease (c : Nat) (d : Fin 8) (s : State) : Outcome := s.event (s.domainRelease c d.val)

/-! ### The exchange phase (02 R36, R38) -/

/-- One plan write without its first word. -/
def PlanWrite.rest (p : PlanWrite) : Option PlanWrite :=
  if p.words ≤ 1 then none else some { p with src := p.src + 8, doff := p.doff + 8, words := p.words - 1 }

/-- EXCHANGE_WRITE: the next word of the `n`-th due entry of a core is written at its destination, if that lies in the
claim (01 R13). A deterministic launch performs the phase as a whole. -/
def State.exchangeWrite (s : State) (c d n : Nat) : Option State :=
  let r := (s.coreOf c).runOf d
  if s.isDet c then none
  else
    match r.due[n]? with
    | some p =>
      if s.poisonedIn (sram c p.src) 8 then some (s.planFault c (sram c p.src))
      else
        let s1 := s.planWord (s.claimId c) p.dst p.doff (sram c p.src)
        some (s1.modCore c (fun x => x.setRun d
          { r with due := (r.due.take n) ++ p.rest.toList ++ (r.due.drop (n + 1)) }))
    | none => none

/-- EXCHANGE_WRITE. -/
def execExchangeWrite (c : Nat) (d : Fin 8) (n : Nat) (s : State) : Outcome := s.event (s.exchangeWrite c d.val n)

/-- The words a plan entry writes: destination address and source address. -/
def PlanWrite.pairs (p : PlanWrite) (c : Nat) : List (Nat × Nat) :=
  (List.range p.words).map (fun i => (sram p.dst (p.doff + 8 * i), sram c (p.src + 8 * i)))

/-- The plan writes due in a domain: destination address and the value to write. -/
def State.planWrites (s : State) (ms : List Nat) (d : Nat) : List (Nat × Word) :=
  ms.flatMap (fun m => (((s.coreOf m).runOf d).due.flatMap (fun p => p.pairs m)).map (fun p => (p.1, s.readN p.2 8)))

/-- A word that occurs twice. -/
def twice : List Nat → Option Nat
  | [] => none
  | w :: ws => if ws.contains w then some w else twice ws

/-- A conflict of 08 R165 at the exchange of a phase: its word. -/
def conflict (plan : List Nat) (ph : Phase) : Option Nat :=
  let stores := (ph.buffered.filter (fun b => !b.isUpd)).flatMap (fun b => wordsOf b.addr b.n)
  let upds := (ph.buffered.filter (fun b => b.isUpd)).flatMap (fun b => wordsOf b.addr b.n)
  match twice (plan ++ stores) with
  | some w => some w
  | none =>
    match upds.find? (fun w => (plan ++ stores).contains w) with
    | some w => some w
    | none => ph.reads.find? (fun w => stores.contains w || ph.owned.contains w)

/-- Claim-window address of a byte of a core's SRAM, for TRAPVAL (12 R241). -/
def State.claimAddr (s : State) (claim a : Nat) : Word :=
  match s.claim? claim with
  | some x => word (0x100000000 + x.rect.index (a / 2 ^ 20) * 2 ^ 20 + a % 2 ^ 20)
  | none => 0

/-- A message of a deterministic launch enters its destination's q0, or stays on its way behind the earlier ones while it
does not fit (02 R39). -/
def State.deliver (s : State) (m : Message) : State :=
  if (s.coreOf m.dst).inUse 0 + m.elems.length ≤ portDepth 0 && !s.messages.any (fun x => x.dst == m.dst) then
    s.modCore m.dst (fun x => x.setPort 0 (x.port 0 ++ m.elems))
  else { s with messages := s.messages ++ [m] }

/-- The messages that wait for room in the q0 of these cores enter it in order, as far as they fit: those of a deterministic
launch do so at an exchange phase and at a quantum end, where alone a wait may end (12 R239). -/
def State.deliverWaiting (s : State) (cs : List Nat) : State :=
  if s.messages.any (fun m => cs.contains m.dst) then
    (s.messages.filter (fun m => cs.contains m.dst)).foldl State.deliver
      { s with messages := s.messages.filter (fun m => !cs.contains m.dst) }
  else s

/-- The words of a phase that the exchange of another domain than DOM0 writes: its members see them after its release (08
R159), and the rest of the group after that of DOM0 (log 104). -/
def Phase.noteMid (ph : Phase) (s : State) (ms : List Nat) (ws : List Nat) : Phase :=
  { ph with
    mids := ph.mids ++ ws.map (fun w =>
      ⟨ms, w, (find? w ph.olds).getD (if s.poisoned.contains w then none else some (s.readN w 8))⟩) }

/-- The first word that the exchange reads and cannot: of a plan entry's source, or of an update, whose instruction it
names. -/
def State.exchangeEcc (s : State) (ms : List Nat) (d : Nat) (ph : Phase) : Option (VAddr × Nat × Nat) :=
  match (ms.flatMap (fun m => (((s.coreOf m).runOf d).due.flatMap (fun p => p.pairs m)).map (fun p => (m, p.2)))).find?
      (fun p => s.poisonedIn p.2 8) with
  | some p => some (0, p.2, s.logical p.1)
  | none =>
    (ph.buffered.find? (fun b => b.isUpd && s.poisonedIn b.addr b.n)).map (fun b => (b.pc, b.addr, b.logical))

/-- The exchange of a group of a deterministic launch: the conflict's fault, or every plan write, buffered store, UPD and
message of the phase performed; its records start anew. What the exchange of another domain writes is noted in the phases of every group. A shared access that a slot makes between its arrival and its
WAITB belongs to the phase whose exchange has not yet run (log 104, the model's choice). -/
def State.detExchange (s : State) (l : Launch) (ms : List Nat) (d : Nat) : State :=
  let g := s.groupOf (ms.headD 0)
  let ph := if d = 0 then l.phaseOf g else Phase.start 0
  let plan := s.planWrites ms d
  match conflict (plan.map (·.1)) ph, s.exchangeEcc ms d ph with
  | some w, _ =>
    s.faultLaunch l ⟨causeWord false 0 0x0E, 0, s.claimAddr l.claim w, s.logical (ms.headD 0)⟩
  | none, some (pc, a, n) =>
    ({ s with checks := s.checks + 1 } : State).faultLaunch l
      ⟨causeWord false 0 0x0F, pc.setWidth 64, word (wordAddr a), n⟩
  | none, none =>
    let s0 := (s.modLaunch l.id (fun l => l.modOthers g (fun q =>
      (plan.map (fun p => ((p.1, 8) : Nat × Nat)) ++ ph.buffered.map (fun b => (b.addr, b.n))).foldl
        (fun (q : Phase) p => q.note s p.1 p.2) q))).modLaunch l.id (fun l =>
      if d = 0 then l else l.modPhase g (fun q => q.noteMid s ms (plan.map (·.1))))
    let s1 := plan.foldl
      (fun t p =>
        if s.routerBit (p.1 / 2 ^ 20) l.claim then (t.wakeAt p.1).writeN p.1 8 p.2 else t.report .messageDropped) s0
    let s2 := s1.performAll (l.w * l.h) ph.buffered
    let s3 := ms.foldl (fun t m => t.modCore m (fun x => x.setRun d { x.runOf d with due := [] })) s2
    if d = 0 then
      let order := ms.flatMap (fun m => ph.messages.filter (fun x => x.src == m))
      order.foldl State.deliver
        ((s3.modLaunch l.id (fun l => l.modPhase g (fun q => Phase.start q.openTime))).deliverWaiting ms)
    else s3

/-- EXCHANGE_DRAINED: with every plan write and drained store of the core written, it arrives again (02 R36). -/
def State.exchangeDrained (s : State) (c d : Nat) : Option State :=
  let r := (s.coreOf c).runOf d
  let ms := s.members c d
  if !r.exchange || r.sent || r.counted || r.releasing then none
  else
    match s.residentOf c with
    | none => none
    | some l =>
      let go (t : State) : Option State :=
        if ((t.coreOf c).runOf d).due.isEmpty &&
            !t.remotes.any (fun x => x.core == c && decide (x.number < r.drainBelow) && x.req.writes) &&
            !t.latches.any (fun x => (match x.2 with | .remote y => y.core == c | .unit _ => false | .host _ _ _ => false)) then
          some (t.modCore c (fun x => x.setRun d { x.runOf d with sent := true }))
        else none
      if l.det then
        if ms.all (fun m => ((s.coreOf m).runOf d).exchange) then
          let s1 := s.detExchange l ms d
          if (s1.coreOf c).resident = (s.coreOf c).resident then go s1 else some s1
        else none
      else go s

/-- EXCHANGE_DRAINED. -/
def execExchangeDrained (c : Nat) (d : Fin 8) (s : State) : Outcome := s.event (s.exchangeDrained c d.val)

/-- EXCHANGE_MESSAGE_ARRIVAL: a message enters q0 whole, after every earlier one between the same cores (02 R39). One for a
core of a deterministic launch waits for an exchange phase or a quantum end (12 R239). -/
def State.messageArrival (s : State) (n : Nat) : Option State :=
  match s.messages[n]? with
  | some m =>
    if (s.messages.take n).any (fun x => x.src == m.src && x.dst == m.dst) then none
    else if s.claimId m.src != s.claimId m.dst then
      some ({ s with messages := dropAt s.messages n }.report .messageDropped)
    else if s.away m.dst || s.isDet m.dst then none
    else if (s.coreOf m.dst).inUse 0 + m.elems.length ≤ portDepth 0 then
      some ({ s with messages := dropAt s.messages n }.modCore m.dst (fun x => x.setPort 0 (x.port 0 ++ m.elems)))
    else none
  | none => none

/-- EXCHANGE_MESSAGE_ARRIVAL. -/
def execExchangeMessageArrival (n : Nat) (s : State) : Outcome := s.event (s.messageArrival n)

end Sys2Proof.Machine
end

