-- ==== Sys2Proof/Decode.lean ====
section
/-! DEFINITION. Chains of 16-bit words (spec/03): the decoder, total on every list of words and rejecting by name, and
after it the encoder. -/

namespace Sys2Proof

/-! ### Words and chains -/

/-- The words of a byte list, low byte first (03 R44); an odd last byte is no word. -/
def halvesOf : List Byte → List Half
  | lo :: hi :: rest => (hi ++ lo) :: halvesOf rest
  | _ => []

/-- The two bytes of a word, low byte first (03 R44). -/
def bytesOfHalf (w : Half) : List Byte := [w.setWidth 8, (w >>> 8).setWidth 8]

/-- A chain: the prefix payloads present and the base word (03 R44, R50). -/
structure Chain where
  page : Option Nat
  qual : Option Nat
  opb : Option Nat
  imms : List Nat
  base : Nat
  deriving DecidableEq, Repr

/-- Why a list of words is no instruction, with the index of the word that carries the fault (03 R53). -/
inductive Reject where
  /-- A breach of R50 or a PAGE naming page 6-255, at that word: DETAIL 1. -/
  | chain (n : Nat)
  /-- The word cannot be fetched: DETAIL 2 after the first word; the first word's own fault where n is 0. -/
  | unfetched (n : Nat)
  /-- A prefix the form does not accept, or an undefined code in its payload: DETAIL 1. -/
  | prefixWord (n : Nat)
  /-- The base word: DETAIL 0. -/
  | baseWord (n : Nat)
  deriving DecidableEq, Repr

/-- Index of the word a rejected chain reports in TRAPVAL. -/
def Reject.index : Reject → Nat
  | .chain n => n | .unfetched n => n | .prefixWord n => n | .baseWord n => n

/-- TRAPCAUSE.DETAIL of a rejected chain (03 R53, 13 R245). -/
def Reject.detail : Reject → Fin 3
  | .chain _ => 1 | .unfetched _ => 2 | .prefixWord _ => 1 | .baseWord _ => 0

/-- What decoding answers: an instruction and its number of words, or why there is none. -/
inductive Decoded where
  | ok (i : Instr) (n : Nat)
  | bad (r : Reject)
  deriving DecidableEq, Repr

/-- Op field of a base word. -/
def opOf (w : Nat) : Nat := w / 1024 % 64
/-- Field A. -/
def fieldA (w : Nat) : Nat := w / 32 % 32
/-- Field B. -/
def fieldB (w : Nat) : Nat := w % 32

/-- The payload of a prefix word of the given kind (03 R45): IMM 0, OPB 1, PAGE 2, QUAL 3. -/
def payloadOf (kind : Nat) (w : Half) : Option Nat :=
  if w.toNat / 256 = 252 + kind then some (w.toNat % 256) else none

/-- A prefix word of one kind at the head of the list, if one stands there. -/
def takeKind (kind : Nat) : List Half → Option Nat × List Half
  | [] => (none, [])
  | w :: ws =>
    match payloadOf kind w with
    | some p => (some p, ws)
    | none => (none, w :: ws)

/-- At most `fuel` IMM prefixes at the head of the list. -/
def takeImms : Nat → List Half → List Nat × List Half
  | 0, ws => ([], ws)
  | _ + 1, [] => ([], [])
  | fuel + 1, w :: ws =>
    match payloadOf 0 w with
    | some p => (p :: (takeImms fuel ws).1, (takeImms fuel ws).2)
    | none => ([], w :: ws)

/-- 1 where the prefix is present. -/
def present (p : Option Nat) : Nat := if p.isSome then 1 else 0

/-- Reads one chain in the order PAGE, QUAL, OPB, IMM, base (03 R50), reporting the first fault (R53 steps 1 and 2). -/
def parseChain (ws : List Half) : Except Reject Chain :=
  let (page, ws1) := takeKind 2 ws
  if page.any (fun p => 5 < p) then .error (.chain 0) else
  let (qual, ws2) := takeKind 3 ws1
  let (opb, ws3) := takeKind 1 ws2
  let n := present page + present qual + present opb
  let (imms, ws4) := takeImms (4 - n) ws3
  match ws4 with
  | [] => .error (.unfetched (n + imms.length))
  | w :: _ =>
    if 64512 ≤ w.toNat then .error (.chain (n + imms.length))
    else .ok ⟨page, qual, opb, imms, w.toNat⟩

/-- Index of the QUAL prefix. -/
def Chain.qualAt (c : Chain) : Nat := present c.page
/-- Index of the OPB prefix. -/
def Chain.opbAt (c : Chain) : Nat := present c.page + present c.qual
/-- Index of the first IMM prefix. -/
def Chain.immAt (c : Chain) : Nat := present c.page + present c.qual + present c.opb
/-- Index of the base word. -/
def Chain.baseAt (c : Chain) : Nat := c.immAt + c.imms.length

/-- QUAL payload, 0 without QUAL (03 R49). -/
def Chain.q (c : Chain) : Nat := c.qual.getD 0
/-- Scope code of a QUAL payload. -/
def scopeCode (q : Nat) : Nat := q / 64 % 4
/-- Order code of a QUAL payload. -/
def orderCode (q : Nat) : Nat := q / 16 % 4
/-- Type code of a QUAL payload. -/
def typeCode (q : Nat) : Nat := q % 16
/-- Register C of an OPB payload. -/
def opbC (p : Nat) : Nat := p / 8 % 32
/-- Sub-op x of an OPB payload. -/
def opbX (p : Nat) : Nat := p % 8

/-- 03 R58. -/
def scopeOf : Nat → Scope
  | 0 => .co | 1 => .cl | 2 => .dv | _ => .sy
/-- 03 R58. -/
def orderOf : Nat → Order
  | 0 => .rlx | 1 => .acq | 2 => .rel | _ => .ar
/-- 03 R60. -/
def scalarTypeOf : Nat → Option ScalarType
  | 0 => some .d | 1 => some .w | 2 => some .h | 3 => some .b
  | 4 => some .dz | 5 => some .wz | 6 => some .hz | 7 => some .bz | _ => none
/-- 03 R61. -/
def laneTypeOf : Nat → Option LaneType
  | 0 => some .fp32 | 1 => some .bf16 | 2 => some .fp16 | 3 => some .i32
  | 4 => some .i16 | 5 => some .i8 | 6 => some .fp64 | 7 => some .i64 | _ => none

/-- A register field. -/
def gField (n : Nat) : GReg := Fin.ofNat 32 n
/-- A mask or tile field below 8 (03 R57). -/
def field8 (n : Nat) : Option (Fin 8) := if h : n < 8 then some ⟨n, h⟩ else none

/-! ### Immediates (03 R51) -/

/-- Payloads read as one big-endian number. -/
def immValue (imms : List Nat) : Nat := imms.foldl (fun v p => v * 256 + p % 256) 0

/-- Sign extension of a `bits`-bit number. -/
def sextNat (bits v : Nat) : Int := if 2 * v < 2 ^ bits then (v : Int) else (v : Int) - 2 ^ bits

/-- imm5 forms. -/
def Chain.imm5 (c : Chain) : Int := sextNat (8 * c.imms.length + 5) (immValue c.imms * 32 + fieldB c.base)
/-- J and JAL, in halfwords. -/
def Chain.imm10 (c : Chain) : Int :=
  sextNat (8 * c.imms.length + 10) (immValue c.imms * 1024 + fieldA c.base * 32 + fieldB c.base)
/-- Forms whose B is a register. -/
def Chain.disp (c : Chain) : Int := if c.imms = [] then 0 else sextNat (8 * c.imms.length) (immValue c.imms)

/-! ### Forms (03 R62, R63) -/

/-- A chain under its form: the prefixes in address order first, then the base word (03 R53 steps 3 and 4). -/
def Chain.form (c : Chain) (qualOk opbOk : Nat → Bool) (immOk : Bool) (r : Option Instr) : Decoded :=
  if c.qual.any (fun q => !qualOk q) then .bad (.prefixWord c.qualAt)
  else if c.opb.any (fun p => !opbOk p) then .bad (.prefixWord c.opbAt)
  else if !immOk && c.imms != [] then .bad (.prefixWord c.immAt)
  else
    match r with
    | some i => .ok i (c.baseAt + 1)
    | none => .bad (.baseWord c.baseAt)

/-- No payload of this kind is accepted. -/
def never : Nat → Bool := fun _ => false

/-- `some i` where the condition holds. -/
def onlyIf (b : Bool) (i : Instr) : Option Instr := if b then some i else none

/-- QUAL of AL, UN, AI: `.co`, `.rlx`, type 0-7 (03 R59, R60). -/
def qualScalar (q : Nat) : Bool := scopeCode q == 0 && orderCode q == 0 && typeCode q < 8
/-- QUAL of LD (03 R59, R60). -/
def qualLoad (q : Nat) : Bool := orderCode q < 2 && typeCode q < 8
/-- QUAL of ST (03 R59, R60). -/
def qualStore (q : Nat) : Bool := (orderCode q == 0 || orderCode q == 2) && typeCode q < 4
/-- QUAL of AT and AC (03 R59, R60). -/
def qualAtomic (q : Nat) : Bool :=
  typeCode q == 0 || typeCode q == 1 || typeCode q == 4 || typeCode q == 5
/-- QUAL of UP (03 R59, R60). -/
def qualUpd (q : Nat) : Bool :=
  scopeCode q != 3 && (orderCode q == 0 || orderCode q == 2) && typeCode q < 2
/-- QUAL of FE (03 R59, R60). -/
def qualFence (q : Nat) : Bool := orderCode q != 0 && typeCode q == 0
/-- QUAL of the vector forms for the lane types `ok` (03 R59, R61). -/
def qualLane (ok : LaneType → Bool) (q : Nat) : Bool :=
  scopeCode q == 0 && orderCode q == 0 && (laneTypeOf (typeCode q)).any ok
/-- QUAL of VLDC, which also takes `.raw` (03 R61). -/
def qualRaw (q : Nat) : Bool := scopeCode q == 0 && orderCode q == 0 && typeCode q < 9

/-- OPB with x = 0 (03 R47). -/
def opbPlain (p : Nat) : Bool := opbX p == 0
/-- OPB of ME: scale shift 0-3. -/
def opbShift (p : Nat) : Bool := opbX p < 4
/-- OPB with any C and x. -/
def opbAny : Nat → Bool := fun _ => true
/-- OPB of KAND and KOR. -/
def opbK (p : Nat) : Bool := opbC p < 8 && opbX p == 0
/-- OPB of KMOV. -/
def opbKmov (p : Nat) : Bool := opbX p < 3
/-- OPB of VCVT: a source lane type and a mask. -/
def opbCvt (p : Nat) : Bool := opbC p < 8

/-- Field A as a register. -/
def Chain.a (c : Chain) : Fin 32 := gField (fieldA c.base)
/-- Field B as a register. -/
def Chain.b (c : Chain) : Fin 32 := gField (fieldB c.base)
/-- OPB's C as a register. -/
def Chain.c (c : Chain) : Option (Fin 32) := c.opb.map (fun p => gField (opbC p))
/-- OPB's x as a mask, k0 without OPB (every lane). -/
def Chain.mask (c : Chain) : KReg := Fin.ofNat 8 (opbX (c.opb.getD 0))
/-- The scalar type in force. -/
def Chain.sty (c : Chain) : Option ScalarType := scalarTypeOf (typeCode c.q)
/-- The scope in force. -/
def Chain.scope (c : Chain) : Scope := scopeOf (scopeCode c.q)
/-- The order in force. -/
def Chain.order (c : Chain) : Order := orderOf (orderCode c.q)
/-- The lane type in force, among the types `ok`. -/
def Chain.lane (c : Chain) (ok : LaneType → Bool) : Option LaneType := (laneTypeOf (typeCode c.q)).filter ok
/-- The third vector operand. -/
def Chain.third (c : Chain) : Option Third := c.opb.map (fun p => ⟨gField (opbC p), Fin.ofNat 8 (opbX p)⟩)
/-- The index operand. -/
def Chain.index (c : Chain) : Option Index := c.opb.map (fun p => ⟨gField (opbC p), Fin.ofNat 4 (opbX p)⟩)

/-- Any lane type. -/
def anyLane : LaneType → Bool := fun _ => true
/-- Integer lane types. -/
def intLane (t : LaneType) : Bool := !t.isFloat
/-- The types VHAD and VIHAD take (06 R124). -/
def hadLane (t : LaneType) : Bool := t != .fp64 && t != .i64

/-- Form N. -/
def formN (c : Chain) (i : Instr) : Decoded := c.form never never false (onlyIf (c.a == 0 && c.b == 0) i)
/-- Form K with k 0-7. -/
def formK (c : Chain) (f : Fin 8 → Instr) : Decoded :=
  c.form never never false (if c.a = 0 then (field8 (fieldB c.base)).map f else none)
/-- Form KI. -/
def formKI (c : Chain) (f : Int → Instr) : Decoded := c.form never never true (onlyIf (c.a == 0) (f c.imm5))
/-- Form D. -/
def formD (c : Chain) (f : GReg → Instr) : Decoded := c.form never never false (onlyIf (c.b == 0) (f c.a))
/-- Forms LI and BR. -/
def formLI (c : Chain) (f : GReg → Int → Instr) : Decoded := c.form never never true (some (f c.a c.imm5))
/-- Form AL. -/
def formAL (c : Chain) (f : GReg → GReg → Option GReg → ScalarType → Instr) : Decoded :=
  c.form qualScalar opbPlain false (c.sty.map (f c.a c.b c.c))
/-- Form UN. -/
def formUN (c : Chain) (f : GReg → GReg → ScalarType → Instr) : Decoded :=
  c.form qualScalar never false (c.sty.map (f c.a c.b))
/-- Form AI. -/
def formAI (c : Chain) (f : GReg → Int → ScalarType → Instr) : Decoded :=
  c.form qualScalar never true (c.sty.map (f c.a c.imm5))
/-- Forms PG, PR, JR: two registers and no prefix. -/
def formPR (c : Chain) (f : GReg → GReg → Instr) : Decoded := c.form never never false (some (f c.a c.b))
/-- Form PA. -/
def formPA (c : Chain) (f : GReg → GReg → Int → Instr) : Decoded := c.form never never true (some (f c.a c.b c.disp))
/-- Form BF: the field code in the IMM prefixes (20 R301). -/
def formBF (c : Chain) (f : GReg → GReg → Nat → Nat → Instr) : Decoded :=
  c.form never never true
    (let e := c.disp
     let pos := e.toNat % 64
     let len := e.toNat / 64
     onlyIf (c.imms != [] && 0 ≤ e && e ≤ 0x1FFF && fieldOk pos len) (f c.a c.b pos len))
/-- LD. -/
def formLD (c : Chain) : Decoded :=
  c.form qualLoad opbShift true (c.sty.map (fun y => .ld c.a c.b c.index c.disp y c.scope c.order))
/-- ST. -/
def formST (c : Chain) : Decoded :=
  c.form qualStore opbShift true (c.sty.map (fun y => .st c.a c.b c.index c.disp y c.scope c.order))
/-- Form JP. -/
def formJP (c : Chain) (f : Int → Instr) : Decoded := c.form never never true (some (f c.imm10))
/-- Form CS. -/
def formCS (c : Chain) (f : GReg → Nat → Instr) : Decoded :=
  c.form never never true (onlyIf (0 ≤ c.imm5 && csrListed c.imm5.toNat) (f c.a c.imm5.toNat))
/-- Form FE; QUAL is required. -/
def formFE (c : Chain) : Decoded :=
  c.form qualFence never false
    (onlyIf (c.qual.isSome && c.a == 0 && c.b == 0) (.fence c.scope c.order))
/-- Form EP. -/
def formEP (c : Chain) : Decoded :=
  c.form never never false
    (if h : fieldA c.base < 3 then some (.epush ⟨fieldA c.base, h⟩ c.b) else none)
/-- Form AT. -/
def formAT (c : Chain) (f : GReg → GReg → Option GReg → ScalarType → Scope → Order → Instr) : Decoded :=
  c.form qualAtomic opbPlain false (c.sty.map (fun y => f c.a c.b c.c y c.scope c.order))
/-- Form AC; OPB is required. -/
def formAC (c : Chain) : Decoded :=
  c.form qualAtomic opbPlain false
    (match c.c, c.sty with
     | some r, some y => some (.acas c.a c.b r y c.scope c.order)
     | _, _ => none)
/-- Form UP. -/
def formUP (c : Chain) : Decoded :=
  c.form qualUpd never false (c.sty.map (fun y => .upd c.a c.b y c.scope c.order))
/-- SCFG: a stream slot 0-3. -/
def formSCFG (c : Chain) : Decoded :=
  c.form never never false (if h : fieldA c.base < 4 then some (.scfg ⟨fieldA c.base, h⟩ c.b) else none)
/-- SEN: a stream slot 0-3 and imm5 0 or 1. -/
def formSEN (c : Chain) : Decoded :=
  c.form never never false
    (if h : fieldA c.base < 4 then
      (match fieldB c.base with
       | 0 => some (.senDisable ⟨fieldA c.base, h⟩)
       | 1 => some (.senEnable ⟨fieldA c.base, h⟩)
       | _ => none)
     else none)
/-- Form PF. -/
def formPF (c : Chain) : Decoded :=
  c.form never never true
    (if h : fieldA c.base < 2 then some (.pref ⟨fieldA c.base, h⟩ c.b c.disp) else none)
/-- A form whose C must be 0 where OPB stands. C is a field and no code, so a nonzero one is a fault of the base word
(03 R53 step 4). -/
def Chain.formC0 (c : Chain) (qualOk opbOk : Nat → Bool) (immOk : Bool) (r : Option Instr) : Decoded :=
  c.form qualOk opbOk immOk (if c.opb.all (fun p => opbC p == 0) then r else none)

/-- Form VM. -/
def formVM (c : Chain) (f : VReg → GReg → Int → KReg → LaneType → Instr) : Decoded :=
  c.formC0 (qualLane anyLane) opbAny true ((c.lane anyLane).map (f c.a c.b c.disp c.mask))
/-- VLDC: form VM with `.raw`. -/
def formVLDC (c : Chain) : Decoded :=
  c.formC0 qualRaw opbAny true
    (if typeCode c.q = 8 then some (.vldc c.a c.b c.disp c.mask none)
     else (c.lane anyLane).map (fun t => .vldc c.a c.b c.disp c.mask (some t)))
/-- Form V1 for the lane types `ok`. -/
def formV1 (c : Chain) (ok : LaneType → Bool) (f : VReg → VReg → KReg → LaneType → Instr) : Decoded :=
  c.formC0 (qualLane ok) opbAny false ((c.lane ok).map (f c.a c.b c.mask))
/-- VHAD and VIHAD: exactly one IMM prefix (06 R124). -/
def formHad (c : Chain) (f : VReg → VReg → Nat → Fin 16 → KReg → LaneType → Instr) : Decoded :=
  c.formC0 (qualLane hadLane) opbAny true
    (match c.imms, c.lane hadLane with
     | [p], some t =>
       if p < 128 ∧ 1 ≤ p % 8 ∧ p % 8 ≤ t.maxBlk then
         some (f c.a c.b (p % 8) (Fin.ofNat 16 (p / 8)) c.mask t)
       else none
     | _, _ => none)
/-- Form V2 for the lane types `ok`. -/
def formV2 (c : Chain) (ok : LaneType → Bool) (f : VReg → VReg → Option Third → LaneType → Instr) : Decoded :=
  c.form (qualLane ok) opbAny false ((c.lane ok).map (f c.a c.b c.third))
/-- Form VK; OPB is required. -/
def formVK (c : Chain) (f : KReg → VReg → VReg → KReg → LaneType → Instr) : Decoded :=
  c.form (qualLane anyLane) opbAny false
    (match field8 (fieldA c.base), c.c, c.lane anyLane with
     | some k, some r, some t => some (f k c.b r c.mask t)
     | _, _, _ => none)
/-- Form VF; OPB is required. -/
def formVF (c : Chain) (f : Fin 32 → Fin 32 → Fin 32 → KReg → LaneType → Instr) : Decoded :=
  c.form (qualLane anyLane) opbAny false
    (match c.c, c.lane anyLane with
     | some r, some t => some (f c.a c.b r c.mask t)
     | _, _ => none)
/-- Form VQ. -/
def formVQ (c : Chain) (f : VReg → KReg → LaneType → Instr) : Decoded :=
  c.formC0 (qualLane anyLane) opbAny false
    (if c.a = 0 then (c.lane anyLane).map (f c.b c.mask) else none)
/-- VBCAST. -/
def formVX0 (c : Chain) (f : VReg → GReg → LaneType → Instr) : Decoded :=
  c.form (qualLane anyLane) never false ((c.lane anyLane).map (f c.a c.b))
/-- VMOVG and VMOVV: the lane index in IMM is required (22 R393). -/
def formVX1 (c : Chain) (f : Fin 32 → Fin 32 → Nat → LaneType → Instr) : Decoded :=
  c.form (qualLane anyLane) never true
    (match c.lane anyLane with
     | some t => onlyIf (c.imms != [] && 0 ≤ c.disp && c.disp.toNat < t.lanes) (f c.a c.b c.disp.toNat t)
     | none => none)
/-- Form VC; OPB is required. -/
def formVC (c : Chain) : Decoded :=
  c.form (qualLane anyLane) opbCvt false
    (match c.opb, c.lane anyLane with
     | some p, some t => (laneTypeOf (opbC p)).map (fun ts => .vcvt c.a c.b ts c.mask t)
     | _, _ => none)
/-- Form VL: count 1-16. -/
def formVL (c : Chain) : Decoded :=
  c.form never never false
    (onlyIf (1 ≤ fieldA c.base && fieldA c.base ≤ 16) (.vloop (fieldA c.base) c.b))
/-- KAND and KOR. -/
def formKM2 (c : Chain) (f : KReg → KReg → Option KReg → Instr) : Decoded :=
  c.form never opbK false
    (match field8 (fieldA c.base), field8 (fieldB c.base) with
     | some k, some l => some (f k l (c.opb.map (fun p => Fin.ofNat 8 (opbC p))))
     | _, _ => none)
/-- KNOT takes no OPB (20 R332). -/
def formKNOT (c : Chain) : Decoded :=
  c.form never never false
    (match field8 (fieldA c.base), field8 (fieldB c.base) with
     | some k, some l => some (.knot k l)
     | _, _ => none)
/-- KMOV: x selects the direction (03 R63). -/
def formKMOV (c : Chain) : Decoded :=
  c.formC0 never opbKmov false
    (match opbX (c.opb.getD 0) with
     | 0 => (field8 (fieldA c.base)).map (fun k => .kmovKFromG k c.b)
     | 1 => (field8 (fieldB c.base)).map (fun k => .kmovGFromK c.a k)
     | _ =>
       match field8 (fieldA c.base), field8 (fieldB c.base) with
       | some k, some l => some (.kmovKFromK k l)
       | _, _ => none)
/-- Form TA. -/
def formTA (c : Chain) (f : TReg → Instr) : Decoded :=
  c.form never never false (if c.a = 0 then (field8 (fieldB c.base)).map f else none)
/-- Form TM. -/
def formTM (c : Chain) (f : TReg → GReg → Int → Instr) : Decoded :=
  c.form never never true ((field8 (fieldA c.base)).map (fun t => f t c.b c.disp))
/-- Form TG. -/
def formTG (c : Chain) : Decoded :=
  c.form never never false ((field8 (fieldB c.base)).map (fun t => .tstat c.a t))
/-- ILL accepts no prefix but PAGE 0 (20 R329). -/
def formILL (c : Chain) : Decoded := c.form never never false (some (.ill c.a c.b))
/-- An op marked Illegal on its page (03 R66). -/
def noOp (c : Chain) : Decoded := .bad (.baseWord c.baseAt)

/-! ### Opcode pages (03 R65) -/

/-- Page 0. -/
def decodePage0 (c : Chain) : Decoded :=
  match opOf c.base with
  | 0 => formILL c
  | 1 => formUN c .mov
  | 2 => formLI c .li
  | 3 => formAL c .add
  | 4 => formAL c .sub
  | 5 => formAL c .and
  | 6 => formAL c .or
  | 7 => formAL c .xor
  | 8 => formAL c .shl
  | 9 => formAL c .shr
  | 10 => formAL c .sra
  | 11 => formAI c .addi
  | 12 => formAL c .mul
  | 13 => formAL c .mulh
  | 14 => formAL c .div
  | 15 => formAL c .rem
  | 16 => formAL c .slt
  | 17 => formUN c .clz
  | 18 => formUN c .popc
  | 19 => formAL c .clmul
  | 20 => formAL c .clmulh
  | 21 => formPA c .padd
  | 22 => formPR c .pset
  | 23 => formPR c .pget
  | 24 => formLD c
  | 25 => formST c
  | 26 => formLI c .bz
  | 27 => formLI c .bnz
  | 28 => formLI c .bltz
  | 29 => formLI c .bgez
  | 30 => formJP c .j
  | 31 => formJP c .jal
  | 32 => formPR c .jr
  | 33 => formKI c .pause
  | 34 => formFE c
  | 35 => formN c .ifence
  | 36 => formCS c .csrr
  | 37 => formCS c .csrw
  | 38 => formK c .sync
  | 39 => formK c .arrive
  | 40 => formK c .waitb
  | 41 => formKI c .trap
  | 42 => formAL c .min
  | 43 => formAL c .max
  | 44 => formEP c
  | 45 => formPR c .qpush
  | 46 => formD c .clkr
  | 47 => formBF c .bfx
  | 48 => formBF c .bfi
  | _ => noOp c

/-- Page 1. -/
def decodePage1 (c : Chain) : Decoded :=
  match opOf c.base with
  | 0 => formAT c .aadd
  | 1 => formAT c .aand
  | 2 => formAT c .aor
  | 3 => formAT c .axor
  | 4 => formAT c .amin
  | 5 => formAT c .amax
  | 6 => formAT c .aswp
  | 7 => formAC c
  | 8 => formUP c
  | 9 => formPR c .updcfg
  | 10 => formSCFG c
  | 11 => formSEN c
  | 12 => formPF c
  | _ => noOp c

/-- Page 2. -/
def decodePage2 (c : Chain) : Decoded :=
  match opOf c.base with
  | 0 => formVM c .vld
  | 1 => formVM c .vst
  | 2 => formVLDC c
  | 3 => formVM c .vstc
  | 4 => formV2 c anyLane .vadd
  | 5 => formV2 c anyLane .vsub
  | 6 => formV2 c anyLane .vmul
  | 7 => formVF c .vfma
  | 8 => formV2 c anyLane .vmin
  | 9 => formV2 c anyLane .vmax
  | 10 => formV1 c anyLane .vabs
  | 11 => formV1 c anyLane .vneg
  | 12 => formV1 c LaneType.isFloat .vexp
  | 13 => formV1 c LaneType.isFloat .vln
  | 14 => formV1 c LaneType.isFloat .vrcp
  | 15 => formV1 c LaneType.isFloat .vrsq
  | 16 => formVK c .vclt
  | 17 => formVK c .vcle
  | 18 => formVK c .vceq
  | 19 => formVF c .vsel
  | 20 => formVX0 c .vbcast
  | 21 => formVX1 c .vmovg
  | 22 => formVX1 c .vmovv
  | 23 => formVF c .vgath
  | 24 => formVF c .vscat
  | 25 => formV1 c anyLane .vpack
  | 26 => formV1 c anyLane .vcmpk
  | 27 => formVQ c .vrsum
  | 28 => formVQ c .vrmax
  | 29 => formVQ c .vargmx
  | 30 => formVC c
  | 31 => formHad c .vhad
  | 32 => formHad c .vihad
  | 33 => formVL c
  | 34 => formV2 c anyLane .vand
  | 35 => formV2 c anyLane .vor
  | 36 => formV2 c anyLane .vxor
  | 37 => formV2 c intLane .vshl
  | 38 => formV2 c intLane .vshr
  | 39 => formKM2 c .kand
  | 40 => formKM2 c .kor
  | 41 => formKNOT c
  | 42 => formKMOV c
  | _ => noOp c

/-- Page 3. -/
def decodePage3 (c : Chain) : Decoded :=
  match opOf c.base with
  | 0 => formTA c .tzero
  | 1 => formTM c .tload
  | 2 => formTM c .tsave
  | 3 => formTG c
  | 4 => formTA c .twait
  | 5 => formTA c .tdrop
  | _ => noOp c

/-- Page 4. -/
def decodePage4 (c : Chain) : Decoded :=
  match opOf c.base with
  | 0 => formPR c .asscfg
  | 1 => formPR c .assay
  | 2 => formPR c .draw
  | 3 => formPR c .carrive
  | 4 => formPR c .cwait
  | 5 => formPR c .cpost
  | 6 => formPR c .gmask
  | 7 => formPR c .gstep
  | 8 => formPR c .mpop
  | 9 => formPR c .mstat
  | _ => noOp c

/-- Page 5. -/
def decodePage5 (c : Chain) : Decoded :=
  match opOf c.base with
  | 0 => formPR c .crew
  | 1 => formN c .split
  | 2 => formN c .retx
  | 3 => formPR c .ctxs
  | 4 => formPR c .ctxl
  | 5 => formPR c .tlbi
  | 6 => formPR c .protw
  | 7 => formN c .halt
  | _ => noOp c

/-- The instruction of a chain. -/
def decodeChain (c : Chain) : Decoded :=
  match c.page.getD 0 with
  | 0 => decodePage0 c
  | 1 => decodePage1 c
  | 2 => decodePage2 c
  | 3 => decodePage3 c
  | 4 => decodePage4 c
  | _ => decodePage5 c

/-- The decoder (03 R50-R66): the words that can be fetched from an address on, at most five of which count. -/
def decode (ws : List Half) : Decoded :=
  match parseChain ws with
  | .error r => .bad r
  | .ok c => decodeChain c

/-- The decoder on bytes as memory holds them. -/
def decodeBytes (bs : List Byte) : Decoded := decode (halvesOf bs)

/-- The words of a table row's bits: the table writes a chain's prefix word in the upper half, so where the upper half
is a prefix word it is the first word; otherwise the lower half is (log 8). -/
def tableWords (nbits w : Nat) : List Half :=
  let lo := BitVec.ofNat 16 w
  let hi := BitVec.ofNat 16 (w / 65536)
  if nbits ≤ 16 then [lo, 0, 0, 0, 0]
  else if 64512 ≤ hi.toNat then [hi, lo, 0, 0, 0]
  else [lo, hi, 0, 0, 0]

/-- The instruction the decoder reads from a row's bits, laid out in memory as the hardware stores its words. -/
def decodeTableWord (nbits w : Nat) : Option Instr :=
  match decodeBytes ((tableWords nbits w).flatMap bytesOfHalf) with
  | .ok i _ => some i
  | .bad _ => none

/-! ### The encoder -/

/-- `n` big-endian payloads of the low 8n bits of a number. -/
def immBytes : Nat → Nat → List Nat
  | 0, _ => []
  | n + 1, v => immBytes n (v / 256) ++ [v % 256]

/-- Fewest IMM prefixes that hold `v` over `w` bits of the base word (04 R86: the shortest encoding). -/
def immLen (w : Nat) (v : Int) : Nat :=
  if immFits w 0 v then 0 else if immFits w 1 v then 1 else if immFits w 2 v then 2
  else if immFits w 3 v then 3 else 4

/-- The low `bits` bits of an integer. -/
def lowBits (bits : Nat) (v : Int) : Nat := (v % (2 ^ bits : Int)).toNat

/-- IMM payloads of `v` over `w` bits of the base word. -/
def immPayloads (w : Nat) (v : Int) : List Nat :=
  immBytes (immLen w v) (lowBits (w + 8 * immLen w v) v / 2 ^ w)

/-- A base word. -/
def baseWord (op a b : Nat) : Nat := op * 1024 + a % 32 * 32 + b % 32

/-- A prefix word of one kind. -/
def prefixOf (kind p : Nat) : Half := BitVec.ofNat 16 ((252 + kind) * 256 + p % 256)

/-- The words of a chain, in the order of R50. -/
def Chain.words (c : Chain) : List Half :=
  (c.page.map (prefixOf 2)).toList ++ (c.qual.map (prefixOf 3)).toList ++ (c.opb.map (prefixOf 1)).toList ++
    c.imms.map (prefixOf 0) ++ [BitVec.ofNat 16 c.base]

/-- The code of a scope. -/
def Scope.code : Scope → Nat
  | .co => 0 | .cl => 1 | .dv => 2 | .sy => 3
/-- The code of an order. -/
def Order.code : Order → Nat
  | .rlx => 0 | .acq => 1 | .rel => 2 | .ar => 3
/-- The code of a scalar type. -/
def ScalarType.code : ScalarType → Nat
  | .d => 0 | .w => 1 | .h => 2 | .b => 3 | .dz => 4 | .wz => 5 | .hz => 6 | .bz => 7
/-- The code of a lane type. -/
def LaneType.code : LaneType → Nat
  | .fp32 => 0 | .bf16 => 1 | .fp16 => 2 | .i32 => 3 | .i16 => 4 | .i8 => 5 | .fp64 => 6 | .i64 => 7

/-- A QUAL payload where one is needed. -/
def qualOf (p : Nat) : Option Nat := if p = 0 then none else some p
/-- An OPB payload that carries only a mask, where one is needed. -/
def maskOf (x : KReg) : Option Nat := if x = 0 then none else some x.val
/-- An OPB payload of register C and sub-op x. -/
def opbOf (c x : Nat) : Nat := c * 8 + x

/-- A chain without QUAL or OPB. -/
def plainChain (page : Option Nat) (op a b : Nat) : Chain := ⟨page, none, none, [], baseWord op a b⟩
/-- A page-0 chain of an imm5 form. -/
def imm5Chain (qual : Nat) (op a : Nat) (e : Int) : Chain :=
  ⟨none, qualOf qual, none, immPayloads 5 e, baseWord op a (lowBits 5 e)⟩
/-- A page-0 chain of form JP. -/
def imm10Chain (op : Nat) (e : Int) : Chain :=
  ⟨none, none, none, immPayloads 10 e, baseWord op (lowBits 10 e / 32) (lowBits 5 e)⟩
/-- A page-0 chain of form AL. -/
def alChain (op : Nat) (a b : GReg) (c : Option GReg) (y : ScalarType) : Chain :=
  ⟨none, qualOf y.code, c.map (fun r => opbOf r.val 0), [], baseWord op a.val b.val⟩
/-- A page-0 chain of form UN. -/
def unChain (op : Nat) (a b : GReg) (y : ScalarType) : Chain :=
  ⟨none, qualOf y.code, none, [], baseWord op a.val b.val⟩
/-- The QUAL payload of a scope, an order and a type code. -/
def qualPayload (sc : Scope) (o : Order) (y : Nat) : Nat := sc.code * 64 + o.code * 16 + y
/-- A page-0 chain of form ME. -/
def meChain (op : Nat) (a b : GReg) (x : Option Index) (e : Int) (y : ScalarType) (sc : Scope) (o : Order) : Chain :=
  ⟨none, qualOf (qualPayload sc o y.code), x.map (fun j => opbOf j.reg.val j.shift.val), immPayloads 0 e,
    baseWord op a.val b.val⟩
/-- A page-1 chain of form AT. -/
def atChain (op : Nat) (a b : GReg) (c : Option GReg) (y : ScalarType) (sc : Scope) (o : Order) : Chain :=
  ⟨some 1, qualOf (qualPayload sc o y.code), c.map (fun r => opbOf r.val 0), [], baseWord op a.val b.val⟩
/-- A page-2 chain of form VM. -/
def vmChain (op : Nat) (v b : Fin 32) (e : Int) (x : KReg) (t : Nat) : Chain :=
  ⟨some 2, qualOf t, maskOf x, immPayloads 0 e, baseWord op v.val b.val⟩
/-- A page-2 chain of form V1 or VQ. -/
def v1Chain (op a b : Nat) (x : KReg) (t : LaneType) : Chain :=
  ⟨some 2, qualOf t.code, maskOf x, [], baseWord op a b⟩
/-- A page-2 chain of form V2. -/
def v2Chain (op : Nat) (a b : VReg) (c : Option Third) (t : LaneType) : Chain :=
  ⟨some 2, qualOf t.code, c.map (fun r => opbOf r.reg.val r.mask.val), [], baseWord op a.val b.val⟩
/-- A page-2 chain of form VK, VF or VC. -/
def v3Chain (op a b c : Nat) (x : KReg) (t : LaneType) : Chain :=
  ⟨some 2, qualOf t.code, some (opbOf c x.val), [], baseWord op a b⟩
/-- The lane index of VMOVG and VMOVV, which fits one prefix. -/
def laneChain (op : Nat) (a b : Fin 32) (n : Nat) (t : LaneType) : Chain :=
  ⟨some 2, qualOf t.code, none, [n], baseWord op a.val b.val⟩
/-- VHAD and VIHAD. -/
def hadChain (op : Nat) (a b : VReg) (blk : Nat) (seed : Fin 16) (x : KReg) (t : LaneType) : Chain :=
  ⟨some 2, qualOf t.code, maskOf x, [seed.val * 8 + blk], baseWord op a.val b.val⟩
/-- BFX and BFI: one prefix holds at most 127 (20 R301). -/
def bfChain (op : Nat) (a b : GReg) (pos len : Nat) : Chain :=
  ⟨none, none, none, immBytes (if len * 64 + pos < 128 then 1 else 2) (len * 64 + pos), baseWord op a.val b.val⟩

/-- The chain of a well-formed instruction, in its shortest form; none for a row that no chain encodes. -/
def chainOf : Instr → Option Chain
  | .ill a b => some (plainChain none 0 a.val b.val)
  | .mov a b y => some (unChain 1 a b y)
  | .li a e => some (imm5Chain 0 2 a.val e)
  | .add a b c y => some (alChain 3 a b c y)
  | .sub a b c y => some (alChain 4 a b c y)
  | .and a b c y => some (alChain 5 a b c y)
  | .or a b c y => some (alChain 6 a b c y)
  | .xor a b c y => some (alChain 7 a b c y)
  | .shl a b c y => some (alChain 8 a b c y)
  | .shr a b c y => some (alChain 9 a b c y)
  | .sra a b c y => some (alChain 10 a b c y)
  | .addi a e y => some (imm5Chain y.code 11 a.val e)
  | .mul a b c y => some (alChain 12 a b c y)
  | .mulh a b c y => some (alChain 13 a b c y)
  | .div a b c y => some (alChain 14 a b c y)
  | .rem a b c y => some (alChain 15 a b c y)
  | .slt a b c y => some (alChain 16 a b c y)
  | .clz a b y => some (unChain 17 a b y)
  | .popc a b y => some (unChain 18 a b y)
  | .clmul a b c y => some (alChain 19 a b c y)
  | .clmulh a b c y => some (alChain 20 a b c y)
  | .padd a b e => some ⟨none, none, none, immPayloads 0 e, baseWord 21 a.val b.val⟩
  | .pset a b => some (plainChain none 22 a.val b.val)
  | .pget a b => some (plainChain none 23 a.val b.val)
  | .ld a b x e y sc o => some (meChain 24 a b x e y sc o)
  | .st a b x e y sc o => some (meChain 25 a b x e y sc o)
  | .bz a e => some (imm5Chain 0 26 a.val e)
  | .bnz a e => some (imm5Chain 0 27 a.val e)
  | .bltz a e => some (imm5Chain 0 28 a.val e)
  | .bgez a e => some (imm5Chain 0 29 a.val e)
  | .j e => some (imm10Chain 30 e)
  | .jal e => some (imm10Chain 31 e)
  | .jr a b => some (plainChain none 32 a.val b.val)
  | .pause e => some (imm5Chain 0 33 0 e)
  | .fence sc o => some ⟨none, some (qualPayload sc o 0), none, [], baseWord 34 0 0⟩
  | .ifence => some (plainChain none 35 0 0)
  | .csrr a n => some (imm5Chain 0 36 a.val n)
  | .csrw a n => some (imm5Chain 0 37 a.val n)
  | .sync d => some (plainChain none 38 0 d.val)
  | .arrive d => some (plainChain none 39 0 d.val)
  | .waitb d => some (plainChain none 40 0 d.val)
  | .trap e => some (imm5Chain 0 41 0 e)
  | .min a b c y => some (alChain 42 a b c y)
  | .max a b c y => some (alChain 43 a b c y)
  | .epush n b => some (plainChain none 44 n.val b.val)
  | .qpush a b => some (plainChain none 45 a.val b.val)
  | .clkr a => some (plainChain none 46 a.val 0)
  | .bfx a b pos len => some (bfChain 47 a b pos len)
  | .bfi a b pos len => some (bfChain 48 a b pos len)
  | .aadd a b c y sc o => some (atChain 0 a b c y sc o)
  | .aand a b c y sc o => some (atChain 1 a b c y sc o)
  | .aor a b c y sc o => some (atChain 2 a b c y sc o)
  | .axor a b c y sc o => some (atChain 3 a b c y sc o)
  | .amin a b c y sc o => some (atChain 4 a b c y sc o)
  | .amax a b c y sc o => some (atChain 5 a b c y sc o)
  | .aswp a b c y sc o => some (atChain 6 a b c y sc o)
  | .acas a b c y sc o => some (atChain 7 a b (some c) y sc o)
  | .upd a b y sc o => some (atChain 8 a b none y sc o)
  | .updcfg a b => some (plainChain (some 1) 9 a.val b.val)
  | .scfg n b => some (plainChain (some 1) 10 n.val b.val)
  | .senEnable n => some (plainChain (some 1) 11 n.val 1)
  | .senDisable n => some (plainChain (some 1) 11 n.val 0)
  | .pref h b e => some ⟨some 1, none, none, immPayloads 0 e, baseWord 12 h.val b.val⟩
  | .vld v b e x t => some (vmChain 0 v b e x t.code)
  | .vst v b e x t => some (vmChain 1 v b e x t.code)
  | .vldc v b e x t => some (vmChain 2 v b e x (match t with | some t => t.code | none => 8))
  | .vstc v b e x t => some (vmChain 3 v b e x t.code)
  | .vadd a b c t => some (v2Chain 4 a b c t)
  | .vsub a b c t => some (v2Chain 5 a b c t)
  | .vmul a b c t => some (v2Chain 6 a b c t)
  | .vfma a b c x t => some (v3Chain 7 a.val b.val c.val x t)
  | .vmin a b c t => some (v2Chain 8 a b c t)
  | .vmax a b c t => some (v2Chain 9 a b c t)
  | .vabs a b x t => some (v1Chain 10 a.val b.val x t)
  | .vneg a b x t => some (v1Chain 11 a.val b.val x t)
  | .vexp a b x t => some (v1Chain 12 a.val b.val x t)
  | .vln a b x t => some (v1Chain 13 a.val b.val x t)
  | .vrcp a b x t => some (v1Chain 14 a.val b.val x t)
  | .vrsq a b x t => some (v1Chain 15 a.val b.val x t)
  | .vclt a b c x t => some (v3Chain 16 a.val b.val c.val x t)
  | .vcle a b c x t => some (v3Chain 17 a.val b.val c.val x t)
  | .vceq a b c x t => some (v3Chain 18 a.val b.val c.val x t)
  | .vsel a b c x t => some (v3Chain 19 a.val b.val c.val x t)
  | .vbcast a b t => some (v1Chain 20 a.val b.val 0 t)
  | .vmovg a b n t => some (laneChain 21 a b n t)
  | .vmovv a b n t => some (laneChain 22 a b n t)
  | .vgath a b c x t => some (v3Chain 23 a.val b.val c.val x t)
  | .vscat a b c x t => some (v3Chain 24 a.val b.val c.val x t)
  | .vpack a b x t => some (v1Chain 25 a.val b.val x t)
  | .vcmpk a b x t => some (v1Chain 26 a.val b.val x t)
  | .vrsum b x t => some (v1Chain 27 0 b.val x t)
  | .vrmax b x t => some (v1Chain 28 0 b.val x t)
  | .vargmx b x t => some (v1Chain 29 0 b.val x t)
  | .vcvt a b ts x t => some (v3Chain 30 a.val b.val ts.code x t)
  | .vhad a b blk seed x t => some (hadChain 31 a b blk seed x t)
  | .vihad a b blk seed x t => some (hadChain 32 a b blk seed x t)
  | .vloop n b => some (plainChain (some 2) 33 n b.val)
  | .vand a b c t => some (v2Chain 34 a b c t)
  | .vor a b c t => some (v2Chain 35 a b c t)
  | .vxor a b c t => some (v2Chain 36 a b c t)
  | .vshl a b c t => some (v2Chain 37 a b c t)
  | .vshr a b c t => some (v2Chain 38 a b c t)
  | .kand a b c => some ⟨some 2, none, c.map (fun k => opbOf k.val 0), [], baseWord 39 a.val b.val⟩
  | .kor a b c => some ⟨some 2, none, c.map (fun k => opbOf k.val 0), [], baseWord 40 a.val b.val⟩
  | .knot a b => some (plainChain (some 2) 41 a.val b.val)
  | .kmovKFromG a b => some (plainChain (some 2) 42 a.val b.val)
  | .kmovGFromK a b => some ⟨some 2, none, some 1, [], baseWord 42 a.val b.val⟩
  | .kmovKFromK a b => some ⟨some 2, none, some 2, [], baseWord 42 a.val b.val⟩
  | .tzero t => some (plainChain (some 3) 0 0 t.val)
  | .tload t b e => some ⟨some 3, none, none, immPayloads 0 e, baseWord 1 t.val b.val⟩
  | .tsave t b e => some ⟨some 3, none, none, immPayloads 0 e, baseWord 2 t.val b.val⟩
  | .tstat a t => some (plainChain (some 3) 3 a.val t.val)
  | .twait t => some (plainChain (some 3) 4 0 t.val)
  | .tdrop t => some (plainChain (some 3) 5 0 t.val)
  | .asscfg a b => some (plainChain (some 4) 0 a.val b.val)
  | .assay a b => some (plainChain (some 4) 1 a.val b.val)
  | .draw a b => some (plainChain (some 4) 2 a.val b.val)
  | .carrive a b => some (plainChain (some 4) 3 a.val b.val)
  | .cwait a b => some (plainChain (some 4) 4 a.val b.val)
  | .cpost a b => some (plainChain (some 4) 5 a.val b.val)
  | .gmask v b => some (plainChain (some 4) 6 v.val b.val)
  | .gstep a b => some (plainChain (some 4) 7 a.val b.val)
  | .mpop a b => some (plainChain (some 4) 8 a.val b.val)
  | .mstat a b => some (plainChain (some 4) 9 a.val b.val)
  | .crew a b => some (plainChain (some 5) 0 a.val b.val)
  | .split => some (plainChain (some 5) 1 0 0)
  | .retx => some (plainChain (some 5) 2 0 0)
  | .ctxs a b => some (plainChain (some 5) 3 a.val b.val)
  | .ctxl a b => some (plainChain (some 5) 4 a.val b.val)
  | .tlbi a b => some (plainChain (some 5) 5 a.val b.val)
  | .protw a b => some (plainChain (some 5) 6 a.val b.val)
  | .halt => some (plainChain (some 5) 7 0 0)
  | .pauseEnd _ _ => none
  | .crewForm _ _ => none
  | .eventLineSet _ _ => none
  | .eventLineWait _ _ => none
  | .eventLineClear _ _ => none
  | .eventLineTest _ _ => none
  | .mutexTake _ _ => none
  | .mutexFree _ _ => none
  | .clusterBarrierCount _ _ => none
  | .clusterBarrierArrive _ _ => none
  | .clusterPowerUp _ => none
  | .arrivalSweep _ _ => none
  | .domainRelease _ _ => none
  | .exchangeWrite _ _ _ => none
  | .exchangeDrained _ _ => none
  | .exchangeMessageArrival _ => none
  | .remoteAccess _ => none
  | .pageFaultService _ _ => none
  | .deferredTrap _ _ => none
  | .mma _ => none
  | .mmas _ => none
  | .mmad _ => none
  | .mmai _ => none
  | .matrixCompletion _ => none
  | .copy _ => none
  | .copyh _ => none
  | .copyCompletion _ => none
  | .hemTileArrival _ => none
  | .lexe _ => none
  | .lexd _ => none
  | .lexiconCompletion _ => none
  | .gatherArrival _ => none
  | .gatherDeadline _ _ _ => none
  | .memberFailed _ _ _ => none
  | .drawEnd _ _ _ => none
  | .batchSwap _ _ => none
  | .timerRelease _ => none
  | .timerQueueAppend _ => none
  | .mediaTick _ _ => none
  | .mediaTickElement _ _ => none
  | .mediaRecord _ _ => none
  | .timeLock _ => none
  | .timeFollow => none
  | .timeHoldover => none
  | .commandDoorbell _ => none
  | .queueDoorbell _ _ => none
  | .claim _ => none
  | .unclaim _ => none
  | .qcreate _ => none
  | .qreset _ => none
  | .qdestroy _ => none
  | .seed _ => none
  | .vocab _ => none
  | .media _ => none
  | .map _ => none
  | .attest _ => none
  | .placementRound _ => none
  | .entryRelease _ _ => none
  | .launchEnd _ => none
  | .barrier _ => none
  | .barrierComplete _ _ => none
  | .copyPacket _ => none
  | .timerArmAbsolute _ => none
  | .timerArmPeriodic _ => none
  | .timerDisarm _ => none
  | .signalStore _ => none
  | .signalAdd _ => none
  | .signalDecrement _ => none
  | .committeeStart _ => none
  | .committeeSequence _ => none
  | .committeeStop _ => none
  | .nop _ => none
  | .quantumEnd _ => none
  | .preemptRequest _ => none
  | .forcedPreempt _ => none
  | .powerGood _ _ _ => none
  | .functionReady _ => none
  | .linkFailure _ => none
  | .throttleBubble _ => none
  | .powerCapWrite _ => none
  | .deviceStatusRead => none
  | .illegalInstruction _ _ => none
  | .fetchFault => none
  | .lockRegained => none
  | .powerGate _ => none
  | .hostStore _ _ _ => none
  | .peerAccess _ _ _ _ _ => none

/-- The words of a well-formed instruction; the empty list for a row that no chain encodes. -/
def encode (i : Instr) : List Half :=
  match chainOf i with
  | some c => c.words
  | none => []

end Sys2Proof
end

