-- ==== Sys2Proof/Machine/Fetch.lean ====
section
/-! DEFINITION. Instruction fetch (03 R52, 07 R132, R137, R146, 08 R157) and FETCH_FAULT. -/

namespace Sys2Proof.Machine

/-- What a fetch of one word finds. -/
inductive Fetched where
  | word (w : Half) (s : State)
  /-- No translation: the page-fault service is asked for the first word of an instruction only. -/
  | miss
  | trap (x : Trap)
  deriving DecidableEq, Repr

/-- One word at a physical address, if its bytes can be read (13 R250). -/
def State.halfAt (s t : State) (a : Nat) : Fetched :=
  match s.checkEcc a 2 with
  | .ok _ => .word (BitVec.ofNat 16 (leNat (s.readBytes a 2))) t
  | .error (.trap x) => .trap x
  | .error _ => .miss

/-- One word fetched by the slot of the step: from its self window, where a region grants it, or from a translated page
with X; from anywhere else a fetch takes a protection trap, at firmware privilege too (07 R132). -/
def State.fetchHalf (s : State) (a : Nat) : Fetched :=
  let c := s.cur.core
  let bad : Fetched := .trap ⟨0x04, 2, Machine.word a⟩
  match rowFor a 2 with
  | .self => if s.isFw c || s.myCore.grants [100] a 2 then s.halfAt s (sram c a) else bad
  | .page =>
    match s.translate c (s.claimId c) a with
    | (none, _) =>
      match s.walkPoison (s.claimId c) a with
      | some w => .trap (machineTrap w)
      | none => .miss
    | (some en, s1) =>
      if !entOk en || s1.peerDown en then .trap ⟨0x05, 0, Machine.word a⟩
      else if !entX en then bad
      else s.halfAt s1 (entPhys en a)
  | .firmware => bad
  | .claim => bad
  | .unit => bad
  | .engine => bad
  | .device => bad
  | .unmapped => bad

/-- The words of the chain at an address: those buffered first, then fetched ones, up to the base word or the first
word that cannot be fetched. -/
def State.fetchChain (s : State) : Nat → Nat → List Half → List Half × State
  | 0, _, _ => ([], s)
  | fuel + 1, a, w :: ws =>
    if w.toNat < 64512 then ([w], s)
    else
      let r := s.fetchChain fuel (a + 2) ws
      (w :: r.1, r.2)
  | fuel + 1, a, [] =>
    match s.fetchHalf a with
    | .word w t =>
      if w.toNat < 64512 then ([w], t)
      else
        let r := t.fetchChain fuel (a + 2) []
        (w :: r.1, r.2)
    | .miss => ([], s)
    | .trap _ => ([], s)

/-- Words the slot has buffered from its pc on. -/
def Slot.buffered (t : Slot) : List Half :=
  let n := (t.pc.toNat - t.ahead.1.toNat) / 2
  if t.ahead.1.toNat ≤ t.pc.toNat then t.ahead.2.drop n else []

/-- The HBM accesses of a fetch of `n` words at an address, one for each 64 bytes of translated space (07 R149). -/
def State.countFetch (s : State) (a n : Nat) : State :=
  if n = 0 then s
  else
    (List.range ((a + 2 * n - 1) / 64 + 1 - a / 64)).foldl
      (fun t i =>
        let q := 64 * (a / 64 + i)
        if rowAt q = .page then
          (match t.translate t.cur.core (t.claimId t.cur.core) q with
           | (some en, _) => t.countAccess en q false
           | (none, _) => t)
        else t)
      s

/-- The chain at the slot's pc, kept in its buffer, so that an instruction that is held does not change under it. -/
def State.fetchNext (s : State) : List Half × State :=
  let b := s.me.buffered
  let r := s.fetchChain 5 s.me.pc.toNat b
  (r.1, (r.2.countFetch (s.me.pc.toNat + 2 * b.length) (r.1.length - b.length)).modMe (fun t =>
    { t with ahead := (t.pc, r.1 ++ b.drop r.1.length) }))

/-- The slot fetches ahead, at most 32 bytes (08 R157). -/
def State.fetchAhead (s : State) : Nat → Nat → List Half
  | 0, _ => []
  | n + 1, a =>
    match s.fetchHalf a with
    | .word w t => w :: t.fetchAhead n (a + 2)
    | .miss => []
    | .trap _ => []

/-- A turn in which the slot fetches ahead `n` words. -/
def State.fillBuffer (s : State) (n : Nat) : State :=
  let b := s.me.buffered
  let more := s.fetchAhead (min n 16 - b.length) (s.me.pc.toNat + 2 * b.length)
  (s.countFetch (s.me.pc.toNat + 2 * b.length) more.length).modMe (fun t => { t with ahead := (t.pc, b ++ more) })

/-- What keeps the slot from fetching the word after those of `ws`, if anything. -/
def State.fetchStop (s : State) (ws : List Half) : Fetched := s.fetchHalf (s.me.pc.toNat + 2 * ws.length)

/-- The fetch fault of a chain of which the words `ws` could be fetched: any for its first word; for a later one only a
word that cannot be corrected (03 R52, 13 R250). -/
def Fetched.faults (ws : List Half) : Fetched → Bool
  | .word _ _ => false
  | .miss => ws.isEmpty
  | .trap x => ws.isEmpty || x.code == 0x0F

/-- The slot waits for the page-fault service at its pc (07 R146); what it waits for else stays. -/
def State.fetchMiss (s : State) : State :=
  let c := s.cur.core
  let k := s.cur.slot.val
  let miss (who : MissOf) : State := { s with misses := s.misses ++ [⟨who, s.claimId c, s.me.pc.toNat, false, s.me.pc⟩] }
  if s.me.wait = .none then
    (miss (.slot c k)).modMe (fun t => { t with wait := .page t.pc.toNat, held := true })
  else (miss (.vector c k)).modMe (fun t => { t with vmiss := true, held := true })

/-- FETCH_FAULT (03 R52): a word of the instruction cannot be fetched. A missing translation of the first is reported
once, and the slot waits for the service. -/
def execFetchFault (s : State) : Outcome :=
  let ws := s.fetchNext.1
  let f := s.fetchStop ws
  if f.faults ws then
    (match f with
     | .word _ _ => .next s
     | .trap x => s.finish (.error (.trap x))
     | .miss => .next s.fetchMiss)
  else .next s

end Sys2Proof.Machine
end

