-- ==== Sys2Proof/Machine/Crypto.lean ====
section
/-! DEFINITION. SHA-384 and ECDSA on P-384 (14 R262), which the spec names and the published standards define (FIPS 180-4,
FIPS 186-4; log 109). Byte strings are in their order, and numbers stand in them with the most significant byte first. -/

namespace Sys2Proof.Machine

/-! ### SHA-384 -/

/-- The round constants. -/
def shaConstants : List Nat :=
  [0x428A2F98D728AE22, 0x7137449123EF65CD, 0xB5C0FBCFEC4D3B2F, 0xE9B5DBA58189DBBC,
   0x3956C25BF348B538, 0x59F111F1B605D019, 0x923F82A4AF194F9B, 0xAB1C5ED5DA6D8118,
   0xD807AA98A3030242, 0x12835B0145706FBE, 0x243185BE4EE4B28C, 0x550C7DC3D5FFB4E2,
   0x72BE5D74F27B896F, 0x80DEB1FE3B1696B1, 0x9BDC06A725C71235, 0xC19BF174CF692694] ++
  [0xE49B69C19EF14AD2, 0xEFBE4786384F25E3, 0x0FC19DC68B8CD5B5, 0x240CA1CC77AC9C65,
   0x2DE92C6F592B0275, 0x4A7484AA6EA6E483, 0x5CB0A9DCBD41FBD4, 0x76F988DA831153B5,
   0x983E5152EE66DFAB, 0xA831C66D2DB43210, 0xB00327C898FB213F, 0xBF597FC7BEEF0EE4,
   0xC6E00BF33DA88FC2, 0xD5A79147930AA725, 0x06CA6351E003826F, 0x142929670A0E6E70] ++
  [0x27B70A8546D22FFC, 0x2E1B21385C26C926, 0x4D2C6DFC5AC42AED, 0x53380D139D95B3DF,
   0x650A73548BAF63DE, 0x766A0ABB3C77B2A8, 0x81C2C92E47EDAEE6, 0x92722C851482353B,
   0xA2BFE8A14CF10364, 0xA81A664BBC423001, 0xC24B8B70D0F89791, 0xC76C51A30654BE30,
   0xD192E819D6EF5218, 0xD69906245565A910, 0xF40E35855771202A, 0x106AA07032BBD1B8] ++
  [0x19A4C116B8D2D0C8, 0x1E376C085141AB53, 0x2748774CDF8EEB99, 0x34B0BCB5E19B48A8,
   0x391C0CB3C5C95A63, 0x4ED8AA4AE3418ACB, 0x5B9CCA4F7763E373, 0x682E6FF3D6B2B8A3,
   0x748F82EE5DEFB2FC, 0x78A5636F43172F60, 0x84C87814A1F0AB72, 0x8CC702081A6439EC,
   0x90BEFFFA23631E28, 0xA4506CEBDE82BDE9, 0xBEF9A3F7B2C67915, 0xC67178F2E372532B] ++
  [0xCA273ECEEA26619C, 0xD186B8C721C0C207, 0xEADA7DD6CDE0EB1E, 0xF57D4F7FEE6ED178,
   0x06F067AA72176FBA, 0x0A637DC5A2C898A6, 0x113F9804BEF90DAE, 0x1B710B35131C471B,
   0x28DB77F523047D84, 0x32CAAB7B40C72493, 0x3C9EBE0A15C9BEBC, 0x431D67C49C100D4C,
   0x4CC5D4BECB3E42B6, 0x597F299CFC657E2A, 0x5FCB6FAB3AD6FAEC, 0x6C44198C4A475817]

/-- The initial hash value. -/
def shaInitial : List Nat :=
  [0xCBBB9D5DC1059ED8, 0x629A292A367CD507, 0x9159015A3070DD17, 0x152FECD8F70E5939,
   0x67332667FFC00B31, 0x8EB44A8768581511, 0xDB0C2E0D64F98FA7, 0x47B5481DBEFA4FA4]

/-- The number of a byte string, its first byte the most significant. -/
def beNat (l : List Byte) : Nat := l.foldl (fun n b => 256 * n + b.toNat) 0
/-- A number as a byte string of length `n`. -/
def beBytes (n x : Nat) : List Byte := (leBytes n x).reverse

/-- Rotation of a 64-bit number to the right. -/
def shaRotate (x n : Nat) : Nat := x / 2 ^ n + x % 2 ^ n * 2 ^ (64 - n)

/-- Three numbers added bit by bit without carries. -/
def xor3 (x y z : Nat) : Nat := Nat.xor (Nat.xor x y) z

/-- The next `n` words of a message schedule, of which the last sixteen are given, the oldest first. -/
def shaSchedule : Nat → List Nat → List Nat
  | 0, _ => []
  | n + 1, w =>
    let a := w.getD 1 0
    let b := w.getD 14 0
    let x := (w.getD 0 0 + xor3 (shaRotate a 1) (shaRotate a 8) (a / 2 ^ 7) + w.getD 9 0 +
      xor3 (shaRotate b 19) (shaRotate b 61) (b / 2 ^ 6)) % 2 ^ 64
    x :: shaSchedule n (w.drop 1 ++ [x])

/-- One round on the eight working words. -/
def shaRound (v : List Nat) (kw : Nat) : List Nat :=
  match v with
  | [a, b, c, d, e, f, g, h] =>
    let t := (h + xor3 (shaRotate e 14) (shaRotate e 18) (shaRotate e 41) +
      Nat.xor (Nat.land e f) (Nat.land (2 ^ 64 - 1 - e) g) + kw) % 2 ^ 64
    let u := xor3 (shaRotate a 28) (shaRotate a 34) (shaRotate a 39) + xor3 (Nat.land a b) (Nat.land a c) (Nat.land b c)
    [(t + u) % 2 ^ 64, a, b, c, (d + t) % 2 ^ 64, e, f, g]
  | v => v

/-- The hash value after one block of 128 bytes. -/
def shaBlock (h : List Nat) (block : List Byte) : List Nat :=
  let w := (chunks 8 16 block).map beNat
  let v := (shaConstants.zip (w ++ shaSchedule 64 w)).foldl (fun v p => shaRound v (p.1 + p.2)) h
  (h.zip v).map (fun p => (p.1 + p.2) % 2 ^ 64)

/-- A message with its padding. -/
def shaPadded (m : List Byte) : List Byte :=
  m ++ 0x80 :: List.replicate ((239 - m.length % 128) % 128) 0 ++ beBytes 16 (8 * m.length)

/-- SHA-384. -/
def sha384 (m : List Byte) : List Byte :=
  let p := shaPadded m
  (((chunks 128 (p.length / 128) p).foldl shaBlock shaInitial).take 6).flatMap (beBytes 8)

/-! ### P-384 -/

/-- The prime of the field. -/
def curvePrime : Nat := 2 ^ 384 - 2 ^ 128 - 2 ^ 96 + 2 ^ 32 - 1
/-- The order of the base point. -/
def curveOrder : Nat :=
  0xFFFFFFFFFFFFFFFFFFFFFFFFFFFFFFFFFFFFFFFFFFFFFFFFC7634D81F4372DDF581A0DB248B0A77AECEC196ACCC52973
/-- The base point's coordinates. -/
def curveBase : Nat × Nat :=
  (0xAA87CA22BE8B05378EB1C71EF320AD746E1D3B628BA79B9859F741E082542A385502F25DBF55296C3A545E3872760AB7,
   0x3617DE4A96262C6F5D9E98BF9292DC29F8F41DBD289A147CE9DA3113B5F0B8C00A60B1CE1D7E819D7A431D7C90EA0E5F)

/-- `x` to the power of the number of these bits, the least first, modulo `m`. -/
def powerMod (m : Nat) : List Bool → Nat → Nat
  | [], _ => 1 % m
  | b :: bs, x => let r := powerMod m bs (x * x % m); if b then x * r % m else r

/-- The 384 bits of a number, the least first. -/
def bits384 (x : Nat) : List Bool := (List.range 384).map x.testBit

/-- The inverse modulo a prime. -/
def inverseMod (m x : Nat) : Nat := powerMod m (bits384 (m - 2)) x

/-- A point in projective form: X, Y and Z for X/Z^2 and Y/Z^3; Z = 0 is the point at infinity. -/
abbrev CurvePoint := Nat × Nat × Nat

/-- Twice a point. -/
def curveDouble (p : CurvePoint) : CurvePoint :=
  let q := curvePrime
  let (x, y, z) := p
  let d := z * z % q
  let g := y * y % q
  let b := x * g % q
  let a := 3 * ((x + (q - d)) * (x + d)) % q
  let x' := (a * a + 8 * (q - b)) % q
  (x', (a * (4 * b + (q - x')) + 8 * (q * q - g * g)) % q, 2 * y * z % q)

/-- A point plus the base point. -/
def curveAddBase (p : CurvePoint) : CurvePoint :=
  let q := curvePrime
  let (x, y, z) := p
  if z = 0 then (curveBase.1, curveBase.2, 1)
  else
    let d := z * z % q
    let h := (curveBase.1 * d + (q - x)) % q
    let r := (curveBase.2 * z % q * d + (q - y)) % q
    if h = 0 then (if r = 0 then curveDouble p else (1, 1, 0))
    else
      let h2 := h * h % q
      let h3 := h * h2 % q
      let v := x * h2 % q
      let x' := (r * r + (q - h3) + 2 * (q - v)) % q
      (x', (r * (v + (q - x')) + (q - y) * h3) % q, h * z % q)

/-- A multiple of the base point, by its bits, the least first. -/
def curveMultiple : List Bool → CurvePoint
  | [] => (1, 1, 0)
  | b :: bs => let p := curveDouble (curveMultiple bs); if b then curveAddBase p else p

/-- The affine x coordinate. -/
def curveX (p : CurvePoint) : Nat := p.1 * inverseMod curvePrime (p.2.2 * p.2.2 % curvePrime) % curvePrime

/-- An ECDSA signature by key `d` of a message, with the secret number `k`: r and s; none where one of them is 0. -/
def ecdsaWith (d k : Nat) (m : List Byte) : Option (Nat × Nat) :=
  let r := curveX (curveMultiple (bits384 k)) % curveOrder
  let s := inverseMod curveOrder k * (beNat (sha384 m) + r * d) % curveOrder
  if r = 0 ∨ s = 0 then none else some (r, s)

/-- The signature r ‖ s of the device's identity key over a message. Which of the valid signatures it is, the secret number
of each attempt decides, which is a free value. -/
def identitySignature (m : List Byte) : List Byte :=
  let k (i : Nat) : Nat := 1 + Config.signNonce (beNat m) i % (curveOrder - 1)
  match (List.range 16).findSome? (fun i => ecdsaWith (1 + Config.identityKey % (curveOrder - 1)) (k i) m) with
  | some (r, s) => beBytes 48 r ++ beBytes 48 s
  | none => List.replicate 96 0

end Sys2Proof.Machine
end

