-- ==== Sys2Proof/Machine/System.lean ====
section
/-! DEFINITION. The firmware's instructions TLBI, PROTW, CTXS and CTXL (21 R362, R377, 13 R253-R256) and forced
pre-emption (13 R251, R252). -/

namespace Sys2Proof.Machine

/-- A firmware instruction in user mode is an illegal instruction (03 R67). -/
def State.firmwareOnly (s : State) : Except Stop Unit := if s.isFw s.cur.core then .ok () else s.illegalHere

/-! ### TLBI (21 R377) -/

/-- A core without its translations of a claim: all, or those of one page. -/
def CoreState.dropPages (x : CoreState) (id : Nat) (all : Bool) (size va : Nat) : CoreState :=
  { x with
    tlb := x.tlb.filter (fun e =>
      !(entClaim e == id && (all || (entSize e == size && entTag e == pageTag size va)))) }

/-- Every core's translations of a claim dropped. -/
def State.dropPages (s : State) (id : Nat) (all : Bool) (size va : Nat) : State :=
  { s with cores := s.cores.map (fun p => (p.1, p.2.dropPages id all size va)) }

/-- TLBI. -/
def execTlbi (a b : GReg) (s : State) : Outcome :=
  s.finish (do
    s.firmwareOnly
    s.ports [b, a] []
    let (v, s1) := s.readG b
    let (w, s2) := s1.readG a
    let z := bits w 9 2
    let all := bit w 8
    illegalIf (bits w 11 53 != 0 || z == 3 || bits v 48 16 != 0) 0
    illegalIf (!all && v.toNat % 2 ^ pageBits z != 0) 0
    .ok (s2.dropPages (bits w 0 8) all z v.toNat))

/-! ### PROTW (21 R362) -/

/-- A region breaks 21 R362. -/
def regionBad (d : BitVec 128) : Bool :=
  regField d 104 24 != 0 || regField d 84 14 != 0 || regField d 20 44 != 0 ||
  (regField d 103 1 == 1 &&
    (regField d 0 20 % 64 != 0 || regField d 64 20 % 64 != 63 || decide (regField d 64 20 < regField d 0 20)))

/-- The 16 bytes of a region read by the slot; to the event unit (02 R22) and the engine window (09 R189) no access of 16
bytes is made. -/
def State.regionAt (s : State) (e : Nat) : Except Stop (BitVec 128 × State) :=
  match rowFor e 16 with
  | .unit => illegalOperand (word e)
  | .engine => protection 0 (word e)
  | .unmapped => protection 0 (word e)
  | _ => do
    let (lo, s1) ← s.loadAt e 8
    let (hi, s2) ← s1.loadAt (e + 8) 8
    .ok (hi ++ lo, s2)

/-- PROTW. -/
def execProtw (a b : GReg) (s : State) : Outcome :=
  s.finish (do
    s.firmwareOnly
    s.ports [b, a] []
    let (p, s1) := s.readG b
    let (w, s2) := s1.readG a
    let c := bits w 0 13
    illegalIf (bits w 19 45 != 0 || bits w 13 3 != 0 || decide (numCores ≤ c) || s.absent.contains c ||
      p.toNat % 16 != 0) 0
    let e ← ea p 0 0 0
    s.afterVectorAt e 16
    let (d, s4) ← s2.regionAt e
    illegalIf (regionBad d) 0
    .ok (s4.modCore c (fun x => { x with regions := vset x.regions (bits w 16 3) d })))

/-! ### The save area (13 R253, R254) -/

/-- Bytes of words. -/
def wordBytes (l : List Word) : List Byte := l.flatMap (fun w => leBytes 8 w.toNat)

/-- Bytes of a port in the core region. -/
def portBytes (p : Nat) : Nat := 8 * portDepth p

/-- A list of bytes padded with zeros to `n`. -/
def padTo (n : Nat) (l : List Byte) : List Byte := l ++ List.replicate (n - l.length) 0

/-- The sequencer, or an interrupted body, holds work. -/
def Slot.opaqueWork (t : Slot) : Bool :=
  !t.seq.isEmpty || t.collect.isSome || t.shelved.isSome || t.deferred.isSome || !t.replay.isEmpty

/-- An opaque region of the core holds state. -/
def CoreState.opaqueState (x : CoreState) : Bool :=
  x.slots.toList.any Slot.opaqueWork || x.mxRun.isSome || !x.mxQueue.isEmpty || !x.hem.isEmpty ||
  (List.range 8).any (fun i => (x.tileOf i).valid)

/-- Offset of the opaque vector state of slot `k`, and of the opaque matrix state. -/
def opaqueSlot (k : Nat) : Nat := 0x400 + 0xE00 * k + 0xB00
def opaqueMatrix : Nat := 0x13C00

/-- The core region. -/
def CoreState.coreBytes (x : CoreState) (forced : Bool) : List Byte :=
  let started := ((List.range 4).map (fun k => if (x.slotOf k).run == .idle then 0 else 2 ^ k)).sum
  [Config.step, BitVec.ofNat 8 started,
    BitVec.ofNat 8 ((if forced then 1 else 0) + (if forced && x.opaqueState then 2 else 0)), 0] ++
  (List.range 8).map (fun p => BitVec.ofNat 8 (x.port p).length) ++ [0, 0, 0, 0] ++
  wordBytes [x.cycles, x.retired] ++
  (List.range 8).flatMap (fun p => padTo (portBytes p) (wordBytes (x.port p)))

/-- Arrival state code. -/
def arrivalCode : Arrival → Nat
  | .idle => 0 | .arrived => 1 | .released => 2

/-- A stream's descriptor with its position and status. -/
def Stream.saved (x : Stream) : List Byte :=
  let b0 := recField x.desc 8 4
  let b1 := recField x.desc 12 4
  let d := leBytes 64 x.desc.toNat
  let i := if b0 = 0 ∨ b1 = 0 then [0, 0, 0] else [x.pos % b0, x.pos / b0 % b1, x.pos / b0 / b1]
  d.take 34 ++ [BitVec.ofNat 8 x.status, 0] ++ i.flatMap (leBytes 4) ++ List.replicate 16 0

/-- The program counter as the area holds it: a slot that has ended stands at the exit address, where one that is
restarted ends (02 R43; log 13). -/
def Slot.savedPc (t : Slot) : Word := if t.run = .ended then word exitAddress else t.pc.setWidth 64

/-- The architectural part of a slot area, before its opaque state. -/
def CoreState.slotBytes (x : CoreState) (k : Nat) : List Byte :=
  let t := x.slotOf k
  wordBytes (t.savedPc :: t.g.toList.drop 1) ++
  t.v.toList.flatMap (fun v => leBytes 64 v.toNat) ++
  wordBytes t.k.toList ++
  wordBytes [statusWord false t, t.trapvec.setWidth 64, causeWord t.trapdef t.trapdetail.toNat t.trapcode.toNat,
    t.trappc.setWidth 64, t.trapval, t.scratch, prioWord t, fmodeWord t, word t.fflags.toNat] ++
  t.arr.toList.map (fun a => BitVec.ofNat 8 (arrivalCode a)) ++
  t.streams.toList.flatMap Stream.saved ++
  (if k = 0 then wordBytes x.doms.toList ++ leBytes 32 x.update.toNat else List.replicate 96 0) ++
  List.replicate 80 0

/-- The 8 KiB of a tile. -/
def Tile.saved (t : Tile) : List Byte :=
  let w := if t.kind = .fp64 then 8 else 4
  (List.range (8192 / w)).flatMap (fun i => leBytes w (t.elem i))

/-- A core's context written into a save area at a physical address. Each opaque region of a forced save holds a handle of
the state it stands for; those of a clean save are empty (13 R251, log 13). -/
def State.saveContext (s : State) (c a : Nat) (forced : Bool) : State :=
  let x := s.coreOf c
  let h := if forced then s.fresh + 1 else 0
  let s1 := s.writeBytes a (x.coreBytes forced)
  let s2 := (List.range 4).foldl
    (fun t k => (t.writeBytes (a + 0x400 + 0xE00 * k) (x.slotBytes k)).writeBytes (a + opaqueSlot k) (leBytes 8 h)) s1
  let s3 := (List.range 8).foldl
    (fun t i =>
      if (x.tileOf i).valid || x.inFlight i then t.writeBytes (a + 0x3C00 + 0x2000 * i) (x.tileOf i).saved else t) s2
  let s4 := s3.writeBytes (a + opaqueMatrix) (leBytes 8 h)
  { s4 with
    fresh := s4.fresh + 1
    contexts := if forced then insertKey h x s4.contexts else s4.contexts
    kept := insertKey a ⟨c, x⟩ s4.kept }

/-- Word `i` of a range of memory. -/
def State.savedWord (s : State) (a i : Nat) : Word := s.readN (a + 8 * i) 8

/-- A stream restored: its descriptor, position and status. -/
def State.savedStream (s : State) (a : Nat) (x : Stream) : Stream :=
  let b := s.readBytes a 64
  let n (i : Nat) : Nat := leNat ((b.drop i).take 4)
  let d := recOf (b.take 34)
  let st := ((b.drop 34).headD 0).toNat
  { x with
    desc := d
    en := st / 128 % 2 == 1
    ovr := st / 16 % 2 == 1
    pos := n 36 + recField d 8 4 * (n 40 + recField d 12 4 * n 44) }

/-- A slot restored from its area over what the opaque state kept of it. -/
def State.savedSlot (s : State) (a : Nat) (t : Slot) : Slot :=
  let w (o i : Nat) : Word := s.savedWord (a + o) i
  let st := w 0x900 0
  let cause := w 0x900 2
  { t with
    pc := (w 0 0).setWidth 48
    npc := (w 0 0).setWidth 48
    g := Vector.ofFn (fun i : Fin 24 => if i.val = 0 then 0 else w 0 i.val)
    v := Vector.ofFn (fun i : Fin 32 => BitVec.ofNat 512 (leNat (s.readBytes (a + 0xC0 + 64 * i.val) 64)))
    k := Vector.ofFn (fun i : Fin 8 => w 0x8C0 i.val)
    inh := bit st 0
    eerr := bit st 1
    vskip := bit st 8
    trapvec := (w 0x900 1).setWidth 48
    trapdef := bit cause 63
    trapdetail := BitVec.ofNat 8 (bits cause 8 8)
    trapcode := BitVec.ofNat 8 (bits cause 0 8)
    trappc := (w 0x900 3).setWidth 48
    trapval := w 0x900 4
    scratch := w 0x900 5
    prem := BitVec.ofNat 16 (bits (w 0x900 6) 8 16)
    level := (w 0x900 6).setWidth 3
    fen := BitVec.ofNat 5 (bits (w 0x900 7) 8 5)
    rm := (w 0x900 7).setWidth 2
    fflags := (w 0x900 8).setWidth 5
    arr := Vector.ofFn (fun i : Fin 8 =>
      match (readCell s.mem (a + 0x948 + i.val)).toNat with
      | 1 => .arrived
      | 2 => .released
      | _ => .idle)
    streams := Vector.ofFn (fun i : Fin 4 => s.savedStream (a + 0x950 + 64 * i.val) (vget t.streams i.val Stream.reset))
    held := false }

/-- A tile's elements restored. -/
def State.savedTile (s : State) (a : Nat) (t : Tile) : Tile :=
  let w := if t.kind = .fp64 then 8 else 4
  { t with data := tileCells ((List.range (8192 / w)).map (fun i => leNat (s.readBytes (a + w * i) w))) }

/-- Offset of a port in the core region. -/
def portOffset (p : Nat) : Nat := 32 + ((List.range p).map portBytes).sum

/-- The state that an opaque region of an area stands for. -/
def State.opaqueAt (s : State) (a : Nat) : Option CoreState := find? (s.savedWord a 0).toNat s.contexts

/-- What an area at `a` restores beside its architectural part: the opaque state its regions stand for, over what the
launch of that area has kept on the core (an area that has moved: what some suspended launch has). -/
def State.contextBase (s : State) (c a : Nat) : CoreState :=
  let mine := s.kept.filter (fun p => p.2.core == c)
  let kept := ((((mine.find? (fun p => p.1 == a)).orElse (fun _ => mine.head?)).map (fun p => p.2.state))).getD
    CoreState.reset
  let x := (s.opaqueAt (a + opaqueMatrix)).getD kept
  { x with
    slots := Vector.ofFn (fun k : Fin 4 => ((s.opaqueAt (a + opaqueSlot k.val)).getD kept).slotOf k.val) }

/-- The suspended launch that left a core, with the group whose rectangle holds it (13 R256). -/
def State.suspendedOn (s : State) (c : Nat) : Option (Nat × Nat) :=
  s.launches.findSome? (fun l =>
    if l.preempt = .none then none
    else ((List.range l.groups.length).find? (fun g => (l.groups[g]?).any (fun z => z.rect.has c))).map (fun g => (l.id, g)))

/-- A core restored from its area over what the opaque regions kept of it; every started slot that has not ended goes
on. -/
def State.savedCore (s : State) (a : Nat) (x : CoreState) : CoreState :=
  let started := (readCell s.mem (a + 1)).toNat
  { x with
    slots := Vector.ofFn (fun k : Fin 4 =>
      let t := s.savedSlot (a + 0x400 + 0xE00 * k.val) (x.slotOf k.val)
      { t with
        run := if !started.testBit k.val then .idle else if t.pc.toNat = exitAddress then .ended else .running })
    ports := Vector.ofFn (fun p : Fin 8 =>
      (List.range (min (portDepth p.val) (readCell s.mem (a + 4 + p.val)).toNat)).map
        (s.savedWord (a + portOffset p.val)))
    cycles := s.savedWord (a + 16) 0
    retired := s.savedWord (a + 24) 0
    doms := Vector.ofFn (fun i : Fin 8 => s.savedWord (a + 0x400 + 0xA50) i.val)
    update := BitVec.ofNat 256 (leNat (s.readBytes (a + 0x400 + 0xA90) 32))
    tiles := Vector.ofFn (fun i : Fin 8 =>
      let t := x.tileOf i.val
      if t.valid || x.inFlight i.val then s.savedTile (a + 0x3C00 + 0x2000 * i.val) t else t)
    stopped := false }

/-- Arrivals made before the save are signalled again (13 R251). -/
def CoreState.resignal (x : CoreState) : CoreState :=
  (List.range 8).foldl
    (fun y d =>
      y.setRun d { DomRun.reset with
        executed := y.slots.toList.any (fun t => vget t.arr d .idle == .arrived)
        sent := domValid (y.dom d) && y.arrivedAt d && y.slots.toList.any (fun t => vget t.arr d .idle == .arrived) })
    x

/-- The checks on the operands of CTXS and CTXL: the area's address and the target. -/
def contextChecks (w p : Word) : Except Stop Unit := do
  illegalIf (bits w 13 51 != 0 || decide (numCores ≤ w.toNat)) 0
  illegalIf (p.toNat % 256 != 0 || decide (p.toNat < 0x800000000000) || decide (2 ^ 48 < p.toNat + 0x14000)) p

/-- The engines still hold commands of a core. -/
def State.engineBusy (s : State) (c : Nat) : Bool :=
  s.copies.any (fun x => x.ofCore c) || s.lexicons.any (fun x => x.ofCore c)

/-- The core's matrix unit still holds commands. -/
def CoreState.matrixBusy (x : CoreState) : Bool := x.mxRun.isSome || !x.mxQueue.isEmpty

/-! ### Pre-emption (13 R251, R252) -/

/-- A core's part of DOM0 lets a request be clean: it has arrived, or is in the exchange phase. -/
def CoreState.atRelease (x : CoreState) : Bool :=
  let r := x.runOf 0
  r.exchange || r.releasing || r.counted || r.sent || (domValid (x.dom 0) && x.arrivedAt 0)

/-- A release of DOM0 is on its way in a group, or its exchange phase runs: every member has arrived, one of them by an
instruction (02 R43). -/
def State.groupAtRelease (s : State) (r : Rect) : Bool :=
  r.cores.all (fun c => (s.coreOf c).atRelease) && r.cores.any (fun c =>
    ((s.coreOf c).runOf 0).executed || ((s.coreOf c).runOf 0).exchange || ((s.coreOf c).runOf 0).releasing)

/-- PREEMPT_REQUEST: the firmware classes the request by what it finds, clean where it holds of every group. -/
def State.preemptAt (s : State) (id : Nat) : Option State :=
  match s.launch? id with
  | some l =>
    if l.preempt != .none || l.groups.any (fun g => !g.entered) then none
    else
      some (s.modLaunch id (fun l =>
        { l with preempt := if l.groups.all (fun g => s.groupAtRelease g.rect) then .clean else .forced }))
  | none => none

/-- PREEMPT_REQUEST. -/
def execPreemptRequest (l : Nat) (s : State) : Outcome := s.event (s.preemptAt l)

/-- Nothing of the launch travels that a forced pre-emption waits for. What a quantum end of a deterministic launch has
served and not delivered stays in its task queue (12 R239). -/
def State.drained (s : State) (l : Launch) : Bool :=
  let cs := l.cores
  cs.all (fun c =>
    let x := s.coreOf c
    (List.range 8).all (fun d => let r := x.runOf d; !r.sent && !r.releasing && (d == 0 || !r.exchange)) &&
    x.owner.isNone &&
    (l.det || (!s.engineBusy c &&
      x.slots.toList.all (fun t => (match t.wait with | .reply _ => false | _ => true) && t.vwait.pending == 0)))) &&
  !s.remotes.any (fun r => cs.contains r.core) &&
  !s.unitReqs.any (fun r => cs.contains r.core && r.data.isSome) &&
  !s.latches.any (fun p => p.2.of cs) &&
  (l.det || !s.messages.any (fun m => cs.contains m.src || cs.contains m.dst))

/-- A slot as a pre-emption leaves it: an event-unit load, a crew that has not formed or a page that it waited for is
abandoned, and the instruction issues again (02 R23, 13 R252). A CREW whose crew has formed completes on its own
(log 52). -/
def Slot.abandon (t : Slot) (loads : Bool) : Slot :=
  let t := t.leaveCrew
  { t with
    held := false
    early := []
    saw := []
    fences := []
    mismatch := 0
    vmiss := false
    mine := if loads then [] else t.mine
    wait := match t.wait with
      | .request => if loads then .none else .request
      | .none => .none
      | .reply v => .reply v
      | .page _ => .none
      | .crew _ => .none
      | .formed i => .formed i
      | .clash => .none
    ahead := (0, [])
    fencing := false }

/-- A load of the task queue that has not been satisfied. -/
def Task.blocked (x : Task) : Bool :=
  match x.req with
  | .unit r => r.data.isNone && x.served.isNone
  | .epush _ _ => false
  | .qpush _ _ => false
  | .mpop _ => false

/-- The slot's load is on its way to an event unit, or blocked there. -/
def State.unitPending (s : State) (l : Launch) (c k : Nat) : Bool :=
  s.unitReqs.any (fun r => r.core == c && r.slot == k) ||
  s.units.any (fun u => u.barriers.toList.any (fun b => b.waiters.contains (c, k))) ||
  l.tasks.any (fun x => x.core == c && x.slot == k && x.blocked)

/-- Slot `k` of a core as a pre-emption leaves it; what the abandoned instruction popped stands in its ports again. -/
def CoreState.abandonSlot (x : CoreState) (k : Nat) (loads : Bool) : CoreState :=
  let keeps := match (x.slotOf k).wait with
    | .request => !loads
    | .reply _ => true
    | .formed _ => true
    | _ => false
  let y := if keeps then x else x.giveBack k
  y.setSlot k ((y.slotOf k).abandon loads)

/-- A store of a slot that is saved, performed: one that vector work comes before in program order stays listed, and that
work still finds the bytes it has replaced. -/
def State.saveStore (s : State) (c k : Nat) (p : Pend) : State :=
  if p.done then s
  else
    let s1 := s.writeCells p.cells
    if p.after = 0 then s1.modSlot c k (fun t => { t with buffer := dropFirst (fun q => q == p) t.buffer })
    else
      s1.modSlot c k (fun t =>
        { t with
          passed := t.passed ++ p.cells.map (fun x => ⟨x.1, readCell s.mem x.1, p.after⟩)
          buffer := replaceFirst (fun q => q == p) (fun q => { q with done := true }) t.buffer })

/-- Every store of a core's slots performed, oldest first. -/
def State.saveStores (s : State) (c : Nat) : State :=
  (List.range 4).foldl (fun t k => (t.slotOf c k).buffer.foldl (fun t p => t.saveStore c k p) t) s

/-- A core whose launch leaves it: its stores are performed (08 R164), and its slots' loads withdrawn from the event unit
and the task queue. -/
def State.leaveCore (s : State) (l : Launch) (c : Nat) : State :=
  let s1 := (s.saveStores c).modCore c (fun x =>
    ((List.range 4).foldl (fun (y : CoreState) k => y.abandonSlot k (s.unitPending l c k)) { x with stopped := true }).modRun
      (fun m => { m with missing := false }))
  let s2 : State :=
    { s1 with
      unitReqs := s1.unitReqs.filter (fun r => r.core != c)
      units := s1.units.map (fun u =>
        { u with barriers := u.barriers.map (fun (b : ClusterBarrier) =>
            { b with waiters := b.waiters.filter (fun w => w.1 != c) }) })
      misses := s1.misses.filter (fun m =>
        match m.who with
        | .slot d _ => d != c
        | .vector d _ => d != c
        | .matrix d => d != c
        | .copyCmd _ => true
        | .lexCmd _ => true) }
  s2.modLaunch l.id (fun l => { l with tasks := l.tasks.filter (fun x => !(x.core == c && x.blocked)) })

/-- The launch stopped by a forced pre-emption. -/
def State.forcedStop (s : State) (l : Launch) : State :=
  (l.cores.foldl (fun t c => t.leaveCore l c) s).modLaunch l.id (fun l => { l with preempt := .saved })

/-- FORCED_PREEMPT; that of a deterministic launch takes effect at its quantum end (12 R239). -/
def State.forcedPreemptAt (s : State) (id : Nat) : Option State :=
  match s.launch? id with
  | some l => if l.preempt == .forced && !l.det && s.drained l then some (s.forcedStop l) else none
  | none => none

/-- FORCED_PREEMPT. -/
def execForcedPreempt (l : Nat) (s : State) : Outcome := s.event (s.forcedPreemptAt l)

/-! ### CTXS and CTXL (13 R255) -/

/-- The task queue of a deterministic launch holds an engine command that has not completed. -/
def Launch.commandsDue (l : Launch) : Bool :=
  l.tasks.any (fun t =>
    match t.req with
    | .epush _ _ => true
    | .qpush _ _ => false
    | .mpop _ => false
    | .unit _ => false)

/-- A clean save waits for what the launch's commands, requests and vector work still have to do on the core (13 R251). -/
def State.saveHeld (s : State) (c : Nat) : Bool :=
  let x := s.coreOf c
  s.engineBusy c || x.matrixBusy || (s.residentOf c).any Launch.commandsDue ||
  s.remotes.any (fun r => r.core == c) || s.unitReqs.any (fun r => r.core == c && r.data.isSome) ||
  s.latches.any (fun p => p.2.of [c]) ||
  ([0, 1, 2, 3] : List (Fin 4)).any (fun k =>
    (x.slotOf k.val).vwait.pending != 0 ||
    (!(x.slotOf k.val).seq.isEmpty && !({ s with cur := ⟨c, k⟩ } : State).seqStuck))

/-- CTXS: the stopped core's state goes into the area, and the core is idle again. -/
def execCtxs (a b : GReg) (s : State) : Outcome :=
  s.finish (do
    s.firmwareOnly
    s.ports [b, a] []
    let (p, s1) := s.readG b
    let (w, s2) := s1.readG a
    contextChecks w p
    let c := w.toNat
    match s.residentOf c with
    | none => illegalOperand 0
    | some l => do
      illegalIf (!(s.coreOf c).stopped) 0
      holdIf (l.preempt == .clean && s.saveHeld c)
      let s3 := if l.preempt = .clean then s2.leaveCore l c else s2
      .ok ((s3.saveContext c (firmwareBase + p.toNat) (l.preempt != .clean)).modCore c CoreState.cleared))

/-- CTXL: the state is restored, and the started slots go on. The protection regions are the core's own (07 R137), and
what arrived while its launch was away stands behind what was saved. -/
def execCtxl (a b : GReg) (s : State) : Outcome :=
  s.finish (do
    s.firmwareOnly
    s.ports [b, a] []
    let (p, s1) := s.readG b
    let (w, s2) := s1.readG a
    contextChecks w p
    let c := w.toNat
    let m := firmwareBase + p.toNat
    illegalIf (((s.coreOf c).resident.isSome) || s.isFw c || s.absent.contains c) 0
    illegalIf (readCell s.mem (m + 2) &&& 2 != 0 && readCell s.mem m != Config.step) 0
    let x := (s.savedCore m (s.contextBase c m)).resignal
    let y := s.coreOf c
    let own := match x.resident with
      | some (l, g) => if (s.launch? l).isSome then some (l, g) else s.suspendedOn c
      | none => s.suspendedOn c
    let s3 := ((s2.powerUpAt (clusterOf c)).getD s2).setCore c
      ({ x with
        resident := own
        regions := y.regions
        tlb := []
        backlog := x.backlog ++ y.port 7 ++ y.backlog
        coming := x.coming ++ y.coming } : CoreState).fillQ7
    match own with
    | some (l, _) =>
      .ok (s3.modLaunch l (fun y =>
        if y.cores.all (fun d => (s3.coreOf d).resident.any (fun r => r.1 == l)) then { y with preempt := .none }
        else { y with preempt := .saved }))
    | none => .ok s3)

end Sys2Proof.Machine
end

