-- ==== Sys2Proof/Machine/Host.lean ====
section
/-! DEFINITION. The host: the command doorbell (12 R231), host commands (12 R229-R232), attestation (14 R262), host stores
(08 R162) and accesses from peer devices (07 R142, 14 R258). -/

namespace Sys2Proof.Machine

/-! ### Records (12 R231, R232) -/

/-- COMMAND_DOORBELL: the doorbell holds 64 addresses that no command processor has taken; an address that is no multiple
of 64 is ignored and reported (log 28). -/
def State.commandBell (s : State) (p : Nat) : Option State :=
  if p % 64 ≠ 0 then some (s.report .doorbellIgnored)
  else if s.ready.getLsbD 0 || decide (s.commands.length < 64) then some { s with commands := s.commands ++ [p] }
  else none

/-- COMMAND_DOORBELL. -/
def execCommandDoorbell (p : Nat) (s : State) : Outcome := s.event (s.commandBell p)

/-- The record at a host physical address. -/
def State.recordAt (s : State) (p : Nat) : Rec := recOf (s.readBytes (hostBase + p) 64)

/-- A command completes: its signal, in host memory, is decremented, or set to -1 where it is refused. -/
def State.endCommand (s : State) (p : Nat) (r : Rec) (ok : Option State) : State :=
  let t := ok.getD s
  let t1 : State := { t with commands := t.commands.erase p }
  let c := recField r 8 8
  if c = 0 then t1
  else if ok.isSome then t1.writeN (hostBase + c) 8 (t1.readN (hostBase + c) 8 - 1)
  else t1.writeN (hostBase + c) 8 minusOne

/-- Some byte of a record is set that has to be zero: one of bytes 7:1, or one that `lo` does not name. -/
def recordBad (lo : List (Nat × Nat)) (r : Rec) : Bool :=
  let named (b : Nat) : Bool := lo.any (fun x => decide (x.1 ≤ b) && decide (b < x.2))
  bytesSet r 1 8 || (List.range 48).any (fun i => !named (16 + i) && recField r (16 + i) 1 != 0)

/-- A command of the given code that has been submitted takes place; `go` answers none where it is refused. -/
def State.commandRow (s : State) (p code : Nat) (lo : List (Nat × Nat)) (go : Rec → Option State) : Option State :=
  if s.commands.contains p && s.ready.getLsbD 0 then
    let r := s.recordAt p
    if packetType r = code then some (s.endCommand p r (if recordBad lo r then none else go r))
    else none
  else none

/-! ### CLAIM and UNCLAIM (12 R229) -/

/-- The rectangle lies in the mesh and holds no firmware-column core and no absent core. -/
def State.grantable (s : State) (r : Rect) : Bool :=
  decide (1 ≤ r.w) && decide (r.w ≤ 64) && decide (1 ≤ r.h) && decide (r.h ≤ 80) && decide (r.x + r.w ≤ 64) &&
  decide (r.y + r.h ≤ 80) && decide ((if s.wide then 2 else 1) ≤ r.x) && !s.absent.any r.has &&
  !s.claims.any (fun x => x.rect.overlaps r)

/-- A claim granted. -/
def State.grant (s : State) (r : Rec) : Option State :=
  let id := recField r 16 1
  let x : Rect := ⟨recField r 17 1, recField r 18 1, recField r 19 1, recField r 20 1⟩
  let caps := recField r 21 1
  if (s.claim? id).isNone && decide (caps ≤ 1) && s.grantable x then
    some { s with claims := s.claims ++ [⟨id, x, caps == 1, Vector.replicate 16 0, [], false, 0⟩] }
  else none

/-- A command that names a claim takes place once that claim is granted: the host may submit the commands in any order
(18 R276; log 110). One that breaks the table of 12 R232 otherwise, where `form` fails, is refused at once. `n` is the byte
that names the claim. -/
def State.claimRow (s : State) (p code n : Nat) (lo : List (Nat × Nat)) (form : Rec → Bool) (go : Rec → Option State) :
    Option State :=
  let r := s.recordAt p
  if (s.claim? (recField r n 1)).isNone && !recordBad lo r && form r then none
  else s.commandRow p code lo (fun r => if form r then go r else none)

/-- CLAIM; a record whose CODE is no command is refused here too. -/
def execClaim (p : Nat) (s : State) : Outcome :=
  s.event (
    match s.commandRow p 1 [(16, 22)] s.grant with
    | some t => some t
    | none =>
      let r := s.recordAt p
      if s.commands.contains p && s.ready.getLsbD 0 && (packetType r == 0 || decide (10 < packetType r)) then
        some (s.endCommand p r none)
      else none)

/-- Every packet of a queue that has not completed has its signal set to -1, and the queue is gone. -/
def State.dropQueue (s : State) (q : Nat) : State :=
  let s1 := s.discardAll q
  let x := s1.queueOf q
  let s2 := x.running.foldl (fun t r => t.setSignal x.claim r.csig minusOne) s1
  { s2 with queues := eraseKey q s2.queues }

/-- The valid entries of a claim removed from the page table, and every cached translation of it. -/
def State.clearEntries (s : State) (id : Nat) : State :=
  (s.listedEntries.foldl
    (fun t a => if entV (t.entryAt a) && entClaim (t.entryAt a) == id then t.clearEntry a else t) s).dropPages id true 0 0

/-- Every launch of a claim killed (12 R229). -/
def State.killClaim (s : State) (id : Nat) : State :=
  (s.launches.filter (fun l => l.claim == id)).foldl State.killLaunch s

/-- A claim whose launches are gone released: its packets discarded, and everything it holds cleared. -/
def State.release_ (s : State) (id : Nat) : State :=
  let qs := (s.queues.filter (fun p => p.2.claim == id && p.2.state != .absent)).map (·.1)
  let s2 := qs.foldl State.dropQueue s
  let s3 := s2.clearEntries id
  { s3 with
    claims := s3.claims.filter (fun x => x.id != id)
    copies := s3.copies.filter (fun x => x.claim != id)
    lexicons := s3.lexicons.filter (fun x => x.claim != id)
    misses := s3.misses.filter (fun m => m.claim != id)
    hems := s3.hems.filter (fun h => h.claim != id)
    committees := s3.committees.filter (fun y => y.claim != id)
    arrivals := s3.arrivals.filter (fun g => g.claim != id)
    media := s3.media.filter (fun m => m.claim != id)
    timers := s3.timers.filter (fun t =>
      match t.target with
      | .media _ => t.claim != id
      | .queue _ _ => true
      | .element _ => true) }

/-- Some launch of the claim has ended and has a command that still runs. -/
def State.closingFor (s : State) (id : Nat) : Bool := s.closing.any (fun x => x.claim == id)

/-- UNCLAIM takes place: the launches of the claim are killed first, and the release follows once the commands that they
left running have finished (12 R229, 08 R164). -/
def State.unclaimAt (s : State) (p : Nat) : Option State :=
  let r := s.recordAt p
  let id := recField r 16 1
  if packetType r ≠ 2 ∨ recordBad [(16, 17)] r ∨ !s.commands.contains p ∨ !s.ready.getLsbD 0 then
    s.commandRow p 2 [(16, 17)] (fun _ => none)
  else
    let t := s.killClaim id
    if !t.closingFor id then
      t.commandRow p 2 [(16, 17)] (fun _ => if (t.claim? id).isSome then some (t.release_ id) else none)
    else if s.launches.any (fun l => l.claim == id) then some t
    else none

/-- UNCLAIM. -/
def execUnclaim (p : Nat) (s : State) : Outcome := s.event (s.unclaimAt p)

/-! ### Queues (12 R218, R219, R230) -/

/-- A QCREATE keeps to its table, its claim apart. -/
def State.queueForm (s : State) (r : Rec) : Bool :=
  let q := recField r 16 2
  let ls := recField r 18 1
  let base := recField r 24 8
  let wh := recField r 21 1
  decide (q ≤ 1023) && (s.queueOf q).state == .absent && decide (1 ≤ ls) && decide (ls ≤ 16) &&
  decide (recField r 19 1 ≤ 3) && decide (wh ≤ 1) && base % 64 == 0 &&
  (wh == 1 || (decide (0x100000000000 ≤ base) && decide (base + 64 * 2 ^ ls ≤ 0x800000000000)))

/-- A queue created. -/
def State.createQueue (s : State) (r : Rec) : Option State :=
  if s.queueForm r && (s.claim? (recField r 20 1)).isSome then
    some (s.setQueue (recField r 16 2)
      { state := .active, base := recWord r 24, host := recField r 21 1 == 1, logsize := recField r 18 1
        prio := recField r 19 1, claim := recField r 20 1, wr := 0, rd := 0, running := [], placing := none, noted := none
        fault := none })
  else none

/-- QCREATE. -/
def execQcreate (p : Nat) (s : State) : Outcome :=
  s.event (s.claimRow p 3 20 [(16, 22), (24, 32)] s.queueForm s.createQueue)

/-- A queue reset: only while no packet runs. -/
def State.resetQueue (s : State) (r : Rec) : Option State :=
  let q := recField r 16 2
  let x := s.queueOf q
  if decide (q ≤ 1023) && x.state != .absent && x.running.isEmpty then
    let s1 := s.discardAll q
    some (s1.setQueue q { s1.queueOf q with state := .active })
  else none

/-- QRESET. -/
def execQreset (p : Nat) (s : State) : Outcome := s.event (s.commandRow p 4 [(16, 18)] s.resetQueue)

/-- A queue destroyed, draining first if packets run. -/
def State.destroyQueue (s : State) (r : Rec) : Option State :=
  let q := recField r 16 2
  let x := s.queueOf q
  if decide (q ≤ 1023) && x.state != .absent then
    let s1 := s.discardAll q
    some (s1.setQueue q ({ s1.queueOf q with state := .draining } : Queue).settle)
  else none

/-- QDESTROY. -/
def execQdestroy (p : Nat) (s : State) : Outcome := s.event (s.commandRow p 5 [(16, 18)] s.destroyQueue)

/-! ### SEED and VOCAB (06 R116, 09 R410) -/

/-- The state with a claim updated. -/
def State.modClaim (s : State) (id : Nat) (f : Claim → Claim) : State :=
  { s with claims := replaceFirst (fun x => x.id == id) f s.claims }

/-- A seed written. -/
def State.writeSeed (s : State) (r : Rec) : Option State :=
  let id := recField r 16 1
  let n := recField r 17 1
  if (s.claim? id).isSome ∧ 1 ≤ n ∧ n ≤ 15 then
    some (s.modClaim id (fun x => { x with seeds := vset x.seeds n (recWord r 24) }))
  else none

/-- SEED. -/
def execSeed (p : Nat) (s : State) : Outcome := s.event (s.commandRow p 6 [(16, 18), (24, 32)] s.writeSeed)

/-- Entry `i` of a vocabulary image: the spelling and the control mark; none where it breaks the table. -/
def vocabEntry (img spell : List Byte) (i : Nat) : Option (List Byte × Bool) :=
  let d := (img.drop (16 + 8 * i)).take 8
  let off := descField d 0 4
  let len := descField d 4 2
  if 2 ≤ len ∧ len ≤ 4096 ∧ descField d 6 1 ≤ 1 ∧ descField d 7 1 = 0 ∧ off + len ≤ spell.length then
    some ((spell.drop off).take len, descField d 6 1 == 1)
  else none

/-- Some spelling occurs twice. -/
def spelledTwice : List (List Byte × Bool) → Bool
  | [] => false
  | t :: ts => ts.any (fun u => u.1 == t.1) || spelledTwice ts

/-- A vocabulary from its image. -/
def vocabFrom (id : Nat) (img : List Byte) : Option Vocab :=
  let ntok := descField img 4 4
  let splen := descField img 8 4
  if img.length < 16 ∨ descField img 0 4 ≠ 1 ∨ 16776960 < ntok ∨ descField img 12 4 ≠ 0 ∨
      img.length ≠ 16 + 8 * ntok + splen then none
  else
    match (List.range ntok).mapM (vocabEntry img (img.drop (16 + 8 * ntok))) with
    | some ts => if spelledTwice ts then none else some ⟨id, ts⟩
    | none => none

/-- A vocabulary loaded or replaced. -/
def State.loadVocab (s : State) (r : Rec) : Option State :=
  let id := recField r 16 1
  let n := recField r 17 1
  if (s.claim? id).isSome ∧ n ≤ 15 then
    match vocabFrom n (s.readBytes (hostBase + recField r 24 8) (recField r 32 4)) with
    | some v => some (s.modClaim id (fun x => { x with vocabs := v :: x.vocabs.filter (fun y => y.id != n) }))
    | none => none
  else none

/-- VOCAB. -/
def execVocab (p : Nat) (s : State) : Outcome :=
  s.event (s.commandRow p 7 [(16, 18), (24, 36)] s.loadVocab)

/-! ### MEDIA (11 R211) -/

/-- A stream from its descriptor; none where it breaks the table. -/
def State.streamFrom (s : State) (cl : Claim) (h : Nat) (d : Rec) : Option Media :=
  let per := recField d 0 8
  let depth := recField d 16 1
  let slots := recField d 17 1
  let sink := recField d 18 1
  let cm := recField d 19 1
  let mem := recField d 20 1
  let win := recWord d 24
  let tick := recWord d 32
  let note := recField d 48 2
  let a := fatVa win
  let size := (depth + 1) * slots * 4
  let consumer :=
    if cm = 0xFF then mem == 0
    else decide (cm ≤ 15) && ((s.committee? cl.id cm).bind (fun y => y.members[mem]?)).any (fun z => z.v && z.sink == sink)
  if periodOk per && decide (1 ≤ depth) && decide (depth ≤ 63) && decide (1 ≤ slots) && decide (slots ≤ 64) &&
      decide (sink ≤ 15) && consumer && !bytesSet d 21 24 && !bytesSet d 50 64 && fatOk win && fatFmt win == 0 &&
      a % 64 == 0 && rowFor a size == .claim && sliceOf a == sliceOf (a + size - 1) &&
      decide (sliceOf a < cl.rect.w * cl.rect.h) && (tick == 0 || decide (recField d 40 8 ≤ 1023)) &&
      note / 2 ^ 13 % 4 == 0 && decide (note % 2 ^ 13 < cl.rect.w * cl.rect.h) then
    some
      { claim := cl.id, handle := h, period := per, phase := recField d 8 8, depth, slots, sink, cmte := cm
        member := mem, win := a, tick, queue := recField d 40 8, note, sealCount := 0, fill := [], readPos := 0
        late := 0, early := 0, full := 0, unread := 0, slid := 0, unreported := 0, pendingNote := false, ticks := []
        current := 0 }
  else none

/-- A stream installed, its periodic timer armed; one of the same handle is replaced (log 27). Where the wheel has 4,096
timers armed the command is refused (11 R208; log 122, the model's choice). -/
def State.installMedia (s : State) (r : Rec) : Option State :=
  let id := recField r 16 1
  let h := recField r 17 1
  match s.claim? id with
  | none => none
  | some cl =>
    if 63 < h then none
    else
      match s.streamFrom cl h (recOf (s.readBytes (hostBase + recField r 24 8) 64)) with
      | none => none
      | some m =>
        let s1 : State :=
          { s with
            media := s.media.filter (fun x => !(x.claim == id && x.handle == h))
            timers := s.timers.filter (fun t => !(t.claim == id && t.target == .media h)) }
        match s1.armTimer id m.period (firstDue m.phase m.period s.time) (.media h) with
        | some (_, s2) => some { s2 with media := s2.media ++ [m] }
        | none => none

/-- MEDIA. -/
def execMedia (p : Nat) (s : State) : Outcome := s.event (s.commandRow p 8 [(16, 18), (24, 32)] s.installMedia)

/-! ### MAP (12 R232, 07 R144) -/

/-- An entry of a MAP breaks 07 R145, its TAG the rules of R144 or the translated space. -/
def entInvalid (id : Nat) (e : Entry) : Bool :=
  entClaim e != id || !entOk e || entTag e % 2 ^ (pageBits (entSize e) - 16) != 0 ||
  decide (entTag e < 0x10000000) || decide (0x80000000 ≤ entTag e)

/-- Two entries of a list with V = 1 overlap. -/
def entriesClash : List Entry → Bool
  | [] => false
  | e :: es => (entV e && es.any (fun x => entV x && entOverlap e x)) || entriesClash es

/-- The entries applied in order; none where one cannot be. -/
def State.applyEntries (s : State) : List Entry → Option State
  | [] => some s
  | e :: es =>
    if entV e then
      (if s.entClash e then none
       else
         match s.entWay e with
         | some a => (s.writeEntry a e).applyEntries es
         | none => none)
    else
      match s.probe (entClaim e) (entSize e) (entVa e) with
      | some (a, _) => (s.clearEntry a).applyEntries es
      | none => s.applyEntries es

/-- The entries of a MAP. -/
def State.mapEntries (s : State) (r : Rec) : List Entry :=
  (List.range (recField r 18 2)).map (fun i => s.entryAt (hostBase + recField r 24 8 + 16 * i))

/-- A MAP and its entries keep to their tables. -/
def State.mapForm (s : State) (r : Rec) : Bool :=
  let es := s.mapEntries r
  recField r 18 2 != 0 && !es.any (entInvalid (recField r 16 1)) && !entriesClash es

/-- A MAP applied whole or refused whole; TLBI follows. -/
def State.mapPages (s : State) (r : Rec) : Option State :=
  let id := recField r 16 1
  if (s.claim? id).isSome && s.mapForm r then
    (s.applyEntries (s.mapEntries r)).map (fun t => t.dropPages id true 0 0)
  else none

/-- MAP. -/
def execMap (p : Nat) (s : State) : Outcome :=
  s.event (s.claimRow p 9 16 [(16, 17), (18, 20), (24, 32)] s.mapForm s.mapPages)

/-! ### ATTEST (14 R262) -/

/-- Bytes 175:0 of a report. -/
def State.reportHead (s : State) (nonce : List Byte) : List Byte :=
  leBytes 4 1 ++ leBytes 8 Config.serial.toNat ++ [Config.step, 0, 0, 0] ++ sha384 Config.romBytes ++
  sha384 (Config.tableBytes s.wide) ++ nonce ++ leBytes 8 s.time ++ List.replicate 8 0

/-- A report written to the host's buffer. -/
def State.attestTo (s : State) (r : Rec) : Option State :=
  let a := recField r 24 8
  if a % 64 ≠ 0 then none
  else
    let h := s.reportHead (s.readBytes (hostBase + recField r 16 8) 48)
    some (s.writeBytes (hostBase + a) (h ++ identitySignature h))

/-- ATTEST. -/
def execAttest (p : Nat) (s : State) : Outcome := s.event (s.commandRow p 10 [(16, 32)] s.attestTo)

/-! ### Host stores and peers -/

/-- The bytes lie in SRAM or HBM or, for the host, in the LPDDR tier or host memory (a peer sees the first two, 14
R258). -/
def memoryHas (host : Bool) (p n : Nat) : Bool :=
  decide (p + n ≤ sram numCores 0) || (decide (hbmBase ≤ p) && decide (p + n ≤ hbmBase + 2 ^ 39)) ||
  (host && decide (lpddrBase ≤ p) && decide (p + n ≤ lpddrBase + 2 ^ 41)) ||
  (host && decide (hostBase ≤ p) && decide (p + n ≤ hostBase + 2 ^ 52))

/-- The power-gated cluster whose SRAM holds a byte. -/
def State.gatedAt (s : State) (p : Nat) : Option Nat :=
  if p < sram numCores 0 ∧ s.gated.contains (clusterOf (p / 2 ^ 20)) then some (clusterOf (p / 2 ^ 20)) else none

/-- HOST_STORE: a store of the host, into a device window or its own memory, at a place of the physical map (log 4); a
power-gated cluster's wake latch takes it (14 R261). -/
def execHostStore (p n : Nat) (w : Word) (s : State) : Outcome :=
  s.event (
    if memoryHas true p n && p % n == 0 then
      match s.gatedAt p with
      | some cl => s.latchWrite cl (.host p n w)
      | none => some (s.writeN p n w)
    else none)

/-- The request of a peer: 0-6 and 7 atomics as in 20 R290 and R293, signed; 8 a store; 9 and 10 unsigned AMIN and AMAX; 11 a
load. -/
def peerReq (op : Fin 12) (n : Nat) (w x : Word) : Req :=
  if op.val = 8 then .store n w
  else if op.val = 9 then .atomic 4 n true w x
  else if op.val = 10 then .atomic 5 n true w x
  else if op.val = 11 then .load n
  else .atomic op.val n false w x

/-- PEER_ACCESS: an access to this device's memory from a peer; a word that cannot be corrected is not read. At a
power-gated cluster a store goes into the wake latch, and what reads waits (14 R261). -/
def execPeerAccess (p n : Nat) (op : Fin 12) (w x : Word) (s : State) : Outcome :=
  let r := peerReq op n w x
  s.event (
    if memoryHas false p n && p % n == 0 && !(r.reads && s.poisonedIn p n) then
      match s.gatedAt p with
      | some cl => if r.reads then none else s.latchWrite cl (.host p n w)
      | none => some (s.perform 0 p r).2
    else none)

end Sys2Proof.Machine
end

