-- ==== Sys2Proof/Machine/Launches.lean ====
section
/-! DEFINITION. LAUNCH packets and images (12 R224-R227), placement (12 R233-R235), the entry release (02 R41), the end of a
launch (02 R43), and the failures of the firmware's links (14 R258). -/

namespace Sys2Proof.Machine

/-! ### Reading an image (12 R226, R227) -/

/-- The pointer lies in translated space. -/
def translated (p : Nat) : Bool := decide (0x100000000000 ≤ p) && decide (p < 0x800000000000)

/-- Bytes of an image, whose pointers all lie in translated space or all in host memory; none where they cannot be read. -/
def State.imageRead (s : State) (claim : Nat) (host : Bool) (p n : Nat) : Option (List Byte) :=
  if n = 0 then some []
  else if translated p == host || (host && decide (2 ^ 52 < p + n)) then none
  else s.firmwareBytes claim host p n

/-- What the firmware loads for a launch. -/
structure Image where
  shared : List Byte
  pdOff : Nat
  pdata : List (List Byte)
  table : List Byte
  plans : List (List Byte)
  deriving DecidableEq, Repr

/-- Entry `k` of a domain table. -/
def tableDom (table : List Byte) (k : Nat) : Word := if k = 0 then 0 else word (descField table (8 * k) 8)

/-- Domain `k` of a launch of `w` by `h` cores: DOM0, or what the table says. -/
def launchDoms (table : List Byte) (w h : Nat) (slots : BitVec 4) : Vector Word 8 :=
  Vector.ofFn (fun k : Fin 8 => if k.val = 0 then entryDom0 w h slots else tableDom table k.val)

/-- A table entry breaks 12 R227. -/
def tableEntryBad (doms : Vector Word 8) (k w h : Nat) (slots : BitVec 4) : Bool :=
  let d := vget doms k 0
  if domValid d then
    (d &&& ~~~domFields) != 0 ||
      domBad doms k d (domRect d).x (domRect d).y w h slots.toNat
  else d != 0

/-- A plan entry of core `n` breaks 02 R37. An entry of a core outside the domain's rectangle, which that list does not
name, is refused too (log 97, the model's choice). -/
def planEntryBad (doms : Vector Word 8) (n w : Nat) (e : List Byte) : Bool :=
  let src := descField e 0 4
  let dst := descField e 4 4
  let doff := descField e 8 4
  let len := descField e 12 2
  let per := descField e 15 1
  let d := vget doms (per % 8) 0
  let at_ (c : Nat) : Nat := coreAt (c % w) (c / w)
  decide (2 ^ 20 < src + 8 * len) || decide (2 ^ 20 < doff + 8 * len) || src % 8 != 0 || doff % 8 != 0 || len == 0 ||
  decide (2 ^ 13 ≤ dst) || decide (per / 8 + 1 ≤ descField e 14 1) || !domValid d || !domExchange d ||
  !(domRect d).has (at_ n) || !(domRect d).has (at_ dst)

/-- The plan of core `n` behind a pointer; none where it cannot be read or breaks a rule. -/
def State.planFrom (s : State) (claim : Nat) (host : Bool) (doms : Vector Word 8) (w n p : Nat) : Option (List Byte) :=
  if p = 0 then some (List.replicate 8 0)
  else
    match s.imageRead claim host p 8 with
    | none => none
    | some hd =>
      let k := descField hd 0 4
      if descField hd 4 4 ≠ 0 ∨ 0x100000 < 0xF0048 + 16 * k then none
      else
        match s.imageRead claim host p (8 + 16 * k) with
        | none => none
        | some b =>
          if (List.range k).any (fun i => planEntryBad doms n w ((b.drop (8 + 16 * i)).take 16)) then none else some b

/-- The image of a LAUNCH packet; none where the launch completes with ABORT. -/
def State.imageOf (s : State) (claim : Nat) (r : Rec) : Option Image :=
  let p := recField r 16 8
  let entry := recField r 24 4
  let w := recField r 28 1
  let h := recField r 29 1
  let slots := BitVec.ofNat 4 (recField r 30 1)
  let host := !translated p
  match (if p % 64 = 0 then s.imageRead claim host p 64 else none) with
  | none => none
  | some d =>
    let shlen := descField d 16 4
    let pdoff := descField d 20 4
    let pdlen := descField d 24 4
    let bss := descField d 28 4
    let tab := descField d 44 8
    let dir := descField d 52 8
    if descField d 0 4 ≠ 1 ∨ descField d 4 4 ≠ 0 ∨ descField d 60 4 ≠ 0 ∨ shlen < 2 ∨ 0xF0000 < shlen ∨ pdoff % 64 ≠ 0 ∨
        pdoff < shlen ∨ 0xF0000 < pdlen ∨ bss % 64 ≠ 0 ∨ bss < pdoff + pdlen ∨ 0xF0000 < bss + descField d 32 4 ∨
        (pdlen = 0 ∧ descField d 36 8 ≠ 0) ∨ entry % 2 ≠ 0 ∨ shlen ≤ entry then none
    else
      match s.imageRead claim host (descField d 8 8) shlen, s.imageRead claim host (descField d 36 8) (w * h * pdlen),
          (if tab = 0 then some (List.replicate 64 0) else if tab % 8 = 0 then s.imageRead claim host tab 64 else none),
          (if dir = 0 then some (List.replicate (8 * w * h) 0) else s.imageRead claim host dir (8 * w * h)) with
      | some shared, some pd, some table, some ptrs =>
        let doms := launchDoms table w h slots
        if descField table 0 8 ≠ 0 ∨ (List.range 8).any (fun k => decide (1 ≤ k) && tableEntryBad doms k w h slots) then none
        else
          match (List.range (w * h)).mapM (fun n => s.planFrom claim host doms w n (descField ptrs (8 * n) 8)) with
          | some plans =>
            some
              { shared, pdOff := pdoff
                pdata := (List.range (w * h)).map (fun n => (pd.drop (n * pdlen)).take pdlen)
                table, plans }
          | none => none
      | _, _, _, _ => none

/-- Logical cores whose plan passes offset 0xF_8000. -/
def Image.far (m : Image) : List Nat :=
  (List.range m.plans.length).filter (fun n => decide (0xF8000 < 0xF0040 + (m.plans[n]?.getD []).length))

/-- One core loaded before its entry release (12 R226, R227). -/
def State.loadCore (s : State) (m : Image) (c n : Nat) : State :=
  let s1 := s.clearBytes (sram c 0) 0xF0000
  let s2 := s1.writeBytes (sram c 0) m.shared
  let s3 := s2.writeBytes (sram c m.pdOff) (m.pdata[n]?.getD [])
  (s3.writeBytes (sram c 0xF0000) m.table).writeBytes (sram c 0xF0040) (m.plans[n]?.getD [])

/-! ### Positions (12 R234) -/

/-- The north-west corners at which a rectangle fits in a claim, row by row. -/
def positions (cl : Rect) (w h : Nat) : List (Nat × Nat) :=
  if w ≤ cl.w ∧ h ≤ cl.h then
    (List.range (cl.h - h + 1)).flatMap (fun y => (List.range (cl.w - w + 1)).map (fun x => (cl.x + x, cl.y + y)))
  else []

/-- A rectangle as clusters: every one that it touches. -/
def Rect.clusters (r : Rect) : List Rect :=
  (List.range ((r.x + r.w + 3) / 4 - r.x / 4)).flatMap (fun i =>
    (List.range ((r.y + r.h + 3) / 4 - r.y / 4)).map (fun j => ⟨4 * (r.x / 4 + i), 4 * (r.y / 4 + j), 4, 4⟩))

/-- A group may take a position: free cores, a free event-unit set in every cluster, and no core of a long plan on a cluster
home core. -/
def positionOk (held : List Rect) (bound : List Rect) (far : List Nat) (r : Rect) : Bool :=
  !held.any r.overlaps && !bound.any r.overlaps &&
  r.clusters.all (fun k => decide ((held.filter k.overlaps).length < 16)) &&
  !far.any (fun n => isHome (r.coreOf n))

/-- Positions for `k` groups, the first that fit, group by group; none where one finds no place. -/
def placeGroups (cl : Rect) (w h : Nat) (bound : List Rect) (far : List Nat) : Nat → List Rect → Option (List Rect)
  | 0, _ => some []
  | k + 1, held =>
    match (positions cl w h).find? (fun p => positionOk held bound far ⟨p.1, p.2, w, h⟩) with
    | some p =>
      (placeGroups cl w h bound far k (held ++ [⟨p.1, p.2, w, h⟩])).map (fun l => ⟨p.1, p.2, w, h⟩ :: l)
    | none => none

/-- Rectangles that launches hold; `all` counts back-filled ones too. -/
def State.heldRects (s : State) (all : Bool) : List Rect :=
  (s.launches.filter (fun l => all || !l.backfilled)).flatMap (fun l => l.groups.map (·.rect))

/-- Rectangles reserved by launches of other queues of the claim. -/
def State.boundRects (s : State) (claim q : Nat) : List Rect :=
  (s.queues.filter (fun p => p.1 != q && p.2.claim == claim)).flatMap (fun p =>
    match p.2.placing with
    | some x => x.reserved
    | none => [])

/-! ### A placement round (12 R233-R235) -/

/-- The body of a LAUNCH packet is outside its table. -/
def launchBad (r : Rec) : Bool :=
  let w := recField r 28 1
  let h := recField r 29 1
  let f := recField r 31 1
  let q := recField r 52 4
  w == 0 || decide (64 < w) || h == 0 || decide (80 < h) || recField r 30 1 % 2 == 0 || decide (15 < recField r 30 1) ||
  decide (3 < f) || (f % 2 == 1) != (q != 0)

/-- GROUPS of a LAUNCH packet, directly or behind its pointer. -/
def State.groupCount (s : State) (claim : Nat) (r : Rec) : Option Nat :=
  let n :=
    if recField r 31 1 / 2 % 2 = 1 then (s.firmwareRead claim (recField r 32 8) 8).map leNat else some (recField r 32 8)
  n.filter (fun n => decide (1 ≤ n) && decide (n ≤ 64))

/-- A plan that passes 0xF_8000 stands on a home core at every position of the claim. -/
def farBlocked (cl : Rect) (w h : Nat) (far : List Nat) : Bool :=
  far.any (fun n => (positions cl w h).all (fun p => isHome ((⟨p.1, p.2, w, h⟩ : Rect).coreOf n)))

/-- The first try of a LAUNCH packet: what the firmware keeps of it while it waits; none where it completes with ABORT. -/
def State.firstTry (s : State) (cl : Claim) (q n : Nat) (r : Rec) : Option Placing :=
  if !s.signalUsable q r || packetBad r || launchBad r then none
  else
    match s.groupCount cl.id r, s.imageOf cl.id r with
    | some k, some m =>
      if farBlocked cl.rect (recField r 28 1) (recField r 29 1) m.far then none
      else some ⟨n, r, k, 0, false, [], m.far⟩
    | _, _ => none

/-- Where a launch goes now, if it fits. -/
def State.tryPlace (s : State) (cl : Claim) (q : Nat) (r : Rec) (p : Placing) : Option (List Rect) :=
  placeGroups cl.rect (recField r 28 1) (recField r 29 1) (s.boundRects cl.id q) p.far p.groups (s.heldRects true)

/-- What a reserving launch reserves: where it would go if the back-filled launches were absent. -/
def State.reserveFor (s : State) (cl : Claim) (q : Nat) (r : Rec) (p : Placing) : List Rect :=
  (placeGroups cl.rect (recField r 28 1) (recField r 29 1) (s.boundRects cl.id q) p.far p.groups
    (s.heldRects false)).getD []

/-- The launch of a packet placed on rectangles. -/
def State.newLaunch (s : State) (cl : Claim) (q n : Nat) (r : Rec) (rects : List Rect) : Launch where
  id := s.fresh
  queue := q
  number := n
  claim := cl.id
  csig := packetSignal r
  entry := recField r 24 4
  w := recField r 28 1
  h := recField r 29 1
  slots := BitVec.ofNat 4 (recField r 30 1)
  args := recWord r 40
  astride := recField r 48 4
  det := recField r 31 1 % 2 == 1
  quantumLen := recField r 52 4
  groups := rects.map (fun x => ⟨x, false, Phase.start s.time⟩)
  seeds := Vector.ofFn (fun i : Fin 16 => seedOf cl.seeds i.val)
  backfilled := false
  preempt := .none
  quantum := 0
  tasks := []

/-- The gated clusters that a rectangle touches powered up: no running launch has one (14 R261). -/
def State.powerFor (s : State) (r : Rect) : State :=
  (s.gated.filter (fun cl => r.cores.any (fun c => clusterOf c == cl))).foldl (fun t cl => (t.powerUpAt cl).getD t) s

/-- The packet starts: its launch is placed and loaded; an image that cannot be read any more aborts it. -/
def State.startLaunch (s : State) (cl : Claim) (q n : Nat) (r : Rec) (rects : List Rect) : State :=
  match s.imageOf cl.id r with
  | none => (s.setQueue q { s.queueOf q with placing := none }).refusePacket q n r
  | some m =>
    let l := s.newLaunch cl q n r rects
    let s1 := rects.foldl
      (fun t x => (List.range (x.w * x.h)).foldl (fun t i => t.loadCore m (x.coreOf i) i) (t.powerFor x)) s
    let s2 := s1.startPacket q n r none
    { s2.setQueue q { s2.queueOf q with placing := none } with
      fresh := s2.fresh + 1
      launches := s2.launches ++ [l] }

/-- What a try of a queue's launch came to. -/
inductive Tried where
  | nothing | aborted | placed (launch : Nat) | waits
  deriving DecidableEq, Repr

/-- One queue's launch tried: a reserving one reserves anew where it does not fit. -/
def State.tryQueue (s : State) (cl : Claim) (q : Nat) : State × Tried :=
  match s.launchHead q with
  | none => (s, .nothing)
  | some (n, r) =>
    match (match (s.queueOf q).placing with | some p => some p | none => s.firstTry cl q n r) with
    | none => (s.refusePacket q n r, .aborted)
    | some p =>
      match s.tryPlace cl q r p with
      | some rects => (s.startLaunch cl q n r rects, .placed s.fresh)
      | none =>
        let p' := if p.reserving then { p with reserved := s.reserveFor cl q r p } else p
        (s.setQueue q { s.queueOf q with placing := some p' }, .waits)

/-- The claim's queues in the order of a round: priority descending, handle ascending. -/
def State.roundOrder (s : State) (claim : Nat) : List Nat :=
  let qs := s.queues.filter (fun p => p.2.claim == claim && p.2.state == .active)
  [3, 2, 1, 0].flatMap (fun k => (qs.filter (fun p => p.2.prio == k)).map (·.1))

/-- A queue's launch reserves. -/
def State.reserves (s : State) (q : Nat) : Bool := ((s.queueOf q).placing).any (·.reserving)

/-- Queues tried in turn. -/
def State.tryAll (s : State) (cl : Claim) : List Nat → State × List (Nat × Tried)
  | [] => (s, [])
  | q :: qs =>
    let (s1, x) := s.tryQueue cl q
    let (s2, xs) := s1.tryAll cl qs
    (s2, (q, x) :: xs)

/-- A launch that was placed while one of an earlier queue of the order was tried and not placed is back-filled. -/
def State.markBackfill (s : State) (order : List Nat) (xs : List (Nat × Tried)) : State :=
  let waiting (q : Nat) : Bool := xs.any (fun y => y.1 == q && y.2 == .waits)
  xs.foldl
    (fun t x =>
      match x.2 with
      | .placed l =>
        if (order.takeWhile (fun q => q != x.1)).any waiting then t.modLaunch l (fun l => { l with backfilled := true })
        else t
      | .nothing => t
      | .aborted => t
      | .waits => t)
    s

/-- A wait counted at the end of a round; at 16 the launch becomes reserving, and reserves at once. -/
def State.countWait (s : State) (cl : Claim) (q : Nat) : State :=
  match (s.queueOf q).placing, s.launchHead q with
  | some p, some (_, r) =>
    let p1 := { p with waits := p.waits + 1 }
    let p2 : Placing :=
      if p1.waits = 16 then { p1 with reserving := true, reserved := s.reserveFor cl q r p1 } else p1
    s.setQueue q { s.queueOf q with placing := some p2 }
  | _, _ => s

/-- A round of the claim is due: a launch has ended, a LAUNCH has reached the head of a queue, or a multiple of 10 µs has
come while a launch waits. A LAUNCH that reached the head in a round shared that round. -/
def State.roundDue (s : State) (cl : Claim) : Bool :=
  (cl.ended && s.someWaits cl.id) ||
  (s.roundOrder cl.id).any (fun q =>
    (s.queueOf q).placing.isNone && (s.launchHead q).any (fun p => (s.queueOf q).noted != some p.1)) ||
  (s.someWaits cl.id && decide (cl.rounds < s.time / 10000))

/-- Every LAUNCH that stands at the head of a queue of the claim noted. -/
def State.noteHeads (s : State) (order : List Nat) : State :=
  order.foldl (fun t q => t.setQueue q { t.queueOf q with noted := (t.launchHead q).map (·.1) }) s

/-- PLACEMENT_ROUND. -/
def State.placementAt (s : State) (id : Nat) : Option State :=
  match s.claim? id with
  | some cl =>
    if s.ready.getLsbD 0 && s.roundDue cl && s.pwr != 2 then
      let order := s.roundOrder id
      let (first, rest) := (order.filter s.reserves, order.filter (fun q => !s.reserves q))
      let s0 := s.modClaim id (fun x => { x with ended := false, rounds := s.time / 10000 })
      let (s1, xs) := s0.tryAll cl (first ++ rest)
      let s2 := s1.markBackfill order xs
      some (((xs.filter (fun x => x.2 == .waits)).foldl (fun t x => t.countWait cl x.1) s2).noteHeads order)
    else none
  | none => none

/-- PLACEMENT_ROUND. -/
def execPlacementRound (id : Nat) (s : State) : Outcome := s.event (s.placementAt id)

/-! ### The entry release (02 R41) -/

/-- DOM1-DOM7 of a core at a position of its group, from the table in its SRAM. -/
def State.entryDoms (s : State) (c : Nat) (r : Rect) : Vector Word 8 :=
  let table := s.readBytes (sram c 0xF0000) 64
  Vector.ofFn (fun k : Fin 8 =>
    let d := tableDom table k.val
    if domValid d && (domRect d).has (coreAt (colOf c - r.x) (rowOf c - r.y)) then d else 0)

/-- ENTRY_RELEASE: group `g` of a placed launch starts, its clusters powered; it gets its event-unit sets, and the compute
phase of its DOM0 opens. -/
def State.enterGroup (s : State) (id g : Nat) : Option State :=
  match s.launch? id with
  | some l =>
    match l.groups[g]? with
    | some x =>
      if x.entered || !s.ready.getLsbD 0 then none
      else
        let s1 := x.rect.cores.foldl
          (fun t c => t.modCore c (fun y => entryCore y c l g x.rect (t.entryDoms c x.rect))) (s.powerFor x.rect)
        let s2 := (x.rect.cores.map clusterOf).eraseDups.foldl
          (fun t cl => { t with units := UnitSet.fresh cl (some (id, g)) :: t.units }) s1
        some (s2.modLaunch id (fun l => { l with groups := l.groups.set g ⟨x.rect, true, Phase.start s.time⟩ }))
    | none => none
  | none => none

/-- ENTRY_RELEASE. -/
def execEntryRelease (l g : Nat) (s : State) : Outcome := s.event (s.enterGroup l g)

/-! ### The end of a launch (02 R43) -/

/-- The core has retired: its slots have ended and its commands have completed. -/
def State.coreRetired (s : State) (c : Nat) : Bool :=
  let x := s.coreOf c
  x.slots.toList.all (fun t => t.run != .running) && x.mxQueue.isEmpty && x.mxRun.all (·.ended) &&
  !s.copies.any (fun y => y.ofCore c && (!y.written || s.tileWaits y.number)) &&
  !s.lexicons.any (fun y => y.ofCore c && !y.written)

/-- No sweep of a superstep in which an arrival was made, and no exchange phase, is left to run at the core. -/
def State.sweepsDone (s : State) (c : Nat) : Bool :=
  let x := s.coreOf c
  (List.range 8).all (fun d =>
    let r := x.runOf d
    !r.exchange && !r.releasing &&
    !(domValid (x.dom d) && s.agree c d && (s.members c d).any (fun m => ((s.coreOf m).runOf d).executed)))

/-- Nothing of the launch's writes is in flight, and no message (02 R39). -/
def State.writesDone (s : State) (l : Launch) : Bool :=
  !s.remotes.any (fun r => l.cores.contains r.core) &&
  !s.unitReqs.any (fun r => l.cores.contains r.core && r.data.isSome) &&
  !s.latches.any (fun r => r.2.of l.cores) && l.tasks.isEmpty &&
  !s.messages.any (fun m => l.cores.contains m.src) &&
  l.cores.all (fun c => (s.coreOf c).slots.toList.all (fun t => t.buffer.all (·.done)))

/-- The launch is resident on every core of it. -/
def State.whole (s : State) (l : Launch) : Bool := l.cores.all (fun c => (s.coreOf c).resident.any (fun r => r.1 == l.id))

/-- The last exchange of every group of a deterministic launch. -/
def State.lastExchange (s : State) (l : Launch) : State :=
  l.groups.foldl
    (fun t g =>
      match t.launch? l.id with
      | some l => t.detExchange l g.rect.cores 0
      | none => t) s

/-- A launch completes normally. -/
def State.completeLaunch (s : State) (l : Launch) : State := (s.freeLaunch l).completePacket l.queue l.number

/-- LAUNCH_END. -/
def State.endLaunch (s : State) (id : Nat) : Option State :=
  match s.launch? id with
  | some l =>
    if l.groups.all (·.entered) && l.preempt != .saved && s.whole l && l.cores.all s.coreRetired &&
        l.cores.all s.sweepsDone && s.writesDone l then
      if l.det then
        let s1 := s.lastExchange l
        some (match s1.launch? id with
          | some l => s1.completeLaunch l
          | none => s1)
      else some (s.completeLaunch l)
    else none
  | none => none

/-- LAUNCH_END. -/
def execLaunchEnd (l : Nat) (s : State) : Outcome := s.event (s.endLaunch l)

end Sys2Proof.Machine
end

