-- ==== Sys2Proof/Machine/LoadStore.lean ====
section
/-! DEFINITION. Scalar loads and stores, atomics, UPD and UPDCFG, fences and PREF (07 R143, 08 R156, R157, 20 R290-R293,
21 R334-R336, R361, R372, R384). -/

namespace Sys2Proof.Machine

/-- Bytes of a scalar type. -/
def bytesOf (y : ScalarType) : Nat := y.width / 8

/-- The order is a release. -/
def isRel : Order → Bool
  | .rlx => false | .acq => false | .rel => true | .ar => true

/-- The index operand read: its register value, 0 without OPB. -/
def State.readIndex (s : State) (x : Option Index) : Word × State :=
  match x with
  | some j => s.readG j.reg
  | none => (0, s)

/-- Scale shift of the index operand. -/
def shiftOf (x : Option Index) : Nat := (x.map (fun j => j.shift.val)).getD 0

/-- Source fields of form ME besides A. -/
def meSources (b : GReg) (x : Option Index) : List GReg := b :: (x.map (fun j => j.reg)).toList

/-- A misaligned scalar access is an illegal operand whose TRAPVAL is the address (07 R133). -/
def aligned (e n : Nat) : Except Stop Unit := illegalIf (e % n != 0) (word e)

/-- The scope of a release of the slot that does not wait for its earlier writes: a narrow one, toward which only the
slots within it see the earlier writes with it (08 R155); one that is an acquire too waits (log 2). -/
def State.narrowRelease (s : State) (sc : Scope) (o : Order) : Option Scope :=
  if narrowScope sc && o == .rel && !s.isDet s.cur.core && !s.me.seqTouches then some sc else none

/-- A release of the slot, unless its scope is narrow. -/
def State.releaseFor (s : State) (sc : Scope) (o : Order) : Except Stop Unit :=
  if isRel o && (s.narrowRelease sc o).isNone then s.release else .ok ()

/-- LD (21 R335). An acquire forgets the words read ahead, once it has issued (log 2). -/
def execLd (a b : GReg) (x : Option Index) (e : Int) (y : ScalarType) (_ : Scope) (_ : Order) (s : State) : Outcome :=
  s.finish (do
    s.ports (meSources b x) [a]
    let (p, s1) := s.readG b
    let (i, s2) := s1.readIndex x
    let adr ← ea p e i (shiftOf x)
    aligned adr (bytesOf y)
    s.afterVectorAt adr (bytesOf y)
    let (v, s3) ← s2.loadAt adr (bytesOf y)
    s3.writeG a (ext y v))

/-- ST (21 R373): ports pop B, C, then A; a release comes before the write. -/
def execSt (a b : GReg) (x : Option Index) (e : Int) (y : ScalarType) (sc : Scope) (o : Order) (s : State) : Outcome :=
  s.finish (do
    s.ports (meSources b x ++ [a]) []
    let (p, s1) := s.readG b
    let (i, s2) := s1.readIndex x
    let (v, s3) := s2.readG a
    let adr ← ea p e i (shiftOf x)
    aligned adr (bytesOf y)
    s.storeOrder
    s.releaseFor sc o
    s3.storeAt adr (bytesOf y) v (s.narrowRelease sc o))

/-- The operation of 20 R291: the operand is C with OPB, else A; A receives the old value. -/
def State.atomicOp (s : State) (op : Nat) (a b : GReg) (c : Option GReg) (y : ScalarType) (sc : Scope) (o : Order) :
    Res := do
  s.ports (b :: [c.getD a]) [a]
  let (p, s1) := s.readG b
  let (v, s2) := s1.readG (c.getD a)
  let adr ← ea p 0 0 0
  aligned adr (bytesOf y)
  s.afterVector
  s.releaseFor sc o
  let (old, s3) ← s2.atomicAt adr (bytesOf y) sc (.atomic op (bytesOf y) (!y.signed) v 0) false (s.narrowRelease sc o)
  s3.writeG a (ext y old)

def execAadd (a b : GReg) (c : Option GReg) (y : ScalarType) (sc : Scope) (o : Order) (s : State) : Outcome :=
  s.finish (s.atomicOp 0 a b c y sc o)
def execAand (a b : GReg) (c : Option GReg) (y : ScalarType) (sc : Scope) (o : Order) (s : State) : Outcome :=
  s.finish (s.atomicOp 1 a b c y sc o)
def execAor (a b : GReg) (c : Option GReg) (y : ScalarType) (sc : Scope) (o : Order) (s : State) : Outcome :=
  s.finish (s.atomicOp 2 a b c y sc o)
def execAxor (a b : GReg) (c : Option GReg) (y : ScalarType) (sc : Scope) (o : Order) (s : State) : Outcome :=
  s.finish (s.atomicOp 3 a b c y sc o)
def execAmin (a b : GReg) (c : Option GReg) (y : ScalarType) (sc : Scope) (o : Order) (s : State) : Outcome :=
  s.finish (s.atomicOp 4 a b c y sc o)
def execAmax (a b : GReg) (c : Option GReg) (y : ScalarType) (sc : Scope) (o : Order) (s : State) : Outcome :=
  s.finish (s.atomicOp 5 a b c y sc o)
def execAswp (a b : GReg) (c : Option GReg) (y : ScalarType) (sc : Scope) (o : Order) (s : State) : Outcome :=
  s.finish (s.atomicOp 6 a b c y sc o)

/-- ACAS (20 R293): A is the expected value and receives the old one. -/
def execAcas (a b c : GReg) (y : ScalarType) (sc : Scope) (o : Order) (s : State) : Outcome :=
  s.finish (do
    s.ports [b, c, a] [a]
    let (p, s1) := s.readG b
    let (n, s2) := s1.readG c
    let adr ← ea p 0 0 0
    aligned adr (bytesOf y)
    s.afterVector
    s.releaseFor sc o
    let (old, s3) ← s2.atomicAt adr (bytesOf y) sc (.atomic 7 (bytesOf y) (!y.signed) n (s.peekG a)) false
      (s.narrowRelease sc o)
    s3.writeG a (ext y old))

/-- UPD (07 R143, 21 R384). -/
def execUpd (a b : GReg) (y : ScalarType) (sc : Scope) (o : Order) (s : State) : Outcome :=
  s.finish (do
    s.ports [b, a] []
    let (p, s1) := s.readG b
    let (v, s2) := s1.readG a
    let adr ← ea p 0 0 0
    aligned adr (bytesOf y)
    s.afterVector
    s.releaseFor sc o
    let (_, s3) ← s2.atomicAt adr (bytesOf y) sc (.upd (bytesOf y) v) true (s.narrowRelease sc o)
    .ok s3)

/-- A step of an update function follows one that is not valid, or bytes 31:20 are set (07 R143). -/
def updateBad (d : Nat) : Bool :=
  d / 2 ^ 160 != 0 ||
  (List.range 3).any (fun i => d / 2 ^ (128 + 8 * i) % 2 == 0 && d / 2 ^ (136 + 8 * i) % 2 == 1)

/-- UPDCFG (07 R143): every update the core's units have accepted is performed already. -/
def execUpdcfg (a b : GReg) (s : State) : Outcome :=
  s.finish (do
    s.ports [b] [a]
    let (p, s1) := s.readG b
    let adr ← selfBlock p 32
    s.afterVectorAt adr 32
    let bs ← s.selfBytes adr 32
    illegalIf (updateBad (leNat bs)) 0
    let old := word (s.myCore.update.toNat / 2 ^ 128 % 2 ^ 32)
    let s2 := s1.modMyCore (fun x => { x with update := BitVec.ofNat 256 (leNat bs) })
    s2.writeG a old)

/-- The order is an acquire. -/
def isAcq : Order → Bool
  | .rlx => false | .acq => true | .rel => false | .ar => true

/-- A release fence of a narrow scope: the slot's later stores are releases at that scope for the writes it has issued so
far, while some of those are not performed (08 R156). -/
def State.narrowFence (s : State) (sc : Scope) : State :=
  let c := s.cur.core
  let k := s.cur.slot.val
  s.modMe (fun t =>
    { t with fences := (t.fences ++ [(sc, s.fresh)]).filter (fun f => s.earlierOpen c k f.2) })

/-- FENCE (08 R156): with an acquire, every earlier load of the slot has been made; with a release, every earlier write of
it is performed (log 2), or a narrow scope keeps the place of the fence among its writes. -/
def execFence (sc : Scope) (o : Order) (s : State) : Outcome :=
  s.finish (do
    if isAcq o then holdIf s.me.seqReads
    s.releaseFor sc o
    .ok (if isRel o && (s.narrowRelease sc o).isSome then s.narrowFence sc else s))

/-- IFENCE (08 R157): the words fetched ahead are discarded, and the next fetch comes after the slot's earlier stores of
code. -/
def execIfence (s : State) : Outcome :=
  s.finish (.ok (s.modMe (fun t => { t with ahead := (0, []), fencing := true })))

/-- PREF (21 R361): only the pointer's traps; nothing that a program can see changes. -/
def execPref (_ : Fin 2) (b : GReg) (e : Int) (s : State) : Outcome :=
  s.finish (do
    s.ports [b] []
    let (p, s1) := s.readG b
    let _ ← ea p e 0 0
    .ok s1)

end Sys2Proof.Machine
end

