-- ==== Sys2Proof/Machine/Platform.lean ====
section
/-! DEFINITION. Bring-up, links, power and management (12 R236, R237, R240, 14 R258-R263). -/

namespace Sys2Proof.Machine

/-! ### Bring-up (12 R236, 14 R259) -/

/-- Cores of a firmware column one or two wide. -/
def columnCores (wide : Bool) : List Nat :=
  (List.range 80).flatMap (fun y => if wide then [coreAt 0 y, coreAt 1 y] else [coreAt 0 y])

/-- The configuration table is accepted: its signature is valid, it names no absent core, and every role has a core. -/
def tableOk (wide : Bool) (absent : List Nat) (valid : Bool) : Bool :=
  valid && !(columnCores wide).any absent.contains &&
  (List.range 5).all (fun r => (columnCores wide).any (fun c => Config.role c == r))

/-- The UCIe modules of the host link (14 R257). -/
def ucieModules : Nat := 16

/-- A module of the host link trains, or fails to, before the device leaves reset. -/
def State.moduleAt (s : State) (n : Nat) (fails : Bool) : State :=
  if s.up ∨ ucieModules ≤ n then s
  else
    let l := s.modulesDown.filter (fun m => m != n)
    { s with modulesDown := if fails then n :: l else l }

/-- POWER_GOOD: the cores' self-test names the absent ones, and the firmware starts where its table is accepted. A module
that fails training holds the device in reset, which is reported (14 R257). -/
def State.powerUp (s : State) (wide : Bool) (absent : List Nat) (valid : Bool) : Option State :=
  if s.up then none
  else if !s.modulesDown.isEmpty then some (s.report .moduleFailed)
  else if tableOk wide absent valid then some { s with up := true, wide := wide, absent := absent.eraseDups }
  else some ({ s with absent := absent.eraseDups }.report .bringUpRejected)

/-- POWER_GOOD. -/
def execPowerGood (wide : Bool) (absent : List Nat) (valid : Bool) (s : State) : Outcome :=
  s.event (s.powerUp wide absent valid)

/-- FUNCTION_READY: a function of the firmware sets its bit of FWREADY. -/
def execFunctionReady (f : Fin 5) (s : State) : Outcome :=
  s.event (if s.up && !s.ready.getLsbD f.val then some { s with ready := s.ready ||| BitVec.ofNat 5 (2 ^ f.val) } else none)

/-! ### Links (14 R258) -/

/-- LINK_FAILURE: accesses to peers over the port fault from now on, and every launch of a claim with a barrier that spans
the link ends (log 92). -/
def execLinkFailure (p : Fin 12) (s : State) : Outcome :=
  s.event (if s.linksDown.contains p.val then none
    else some ((s.launches.filter (fun l => s.spans.any (fun x => x.claim == l.claim && x.port == p.val))).foldl
      State.killLaunch ({ s with linksDown := p.val :: s.linksDown }.report .linkFailed)))

/-! ### Power and management (12 R240, 14 R259, R261, R263) -/

/-- THROTTLE_BUBBLE: `n` cycles of the 3.3 GHz clock in which every core, router and engine stalls; they count in CYCLES,
and the timer wheel is held. -/
def State.bubble (s : State) (n : Nat) : State :=
  { s with
    throttled := true
    cores := s.cores.map (fun p => (p.1, if p.2.resident.isSome then { p.2 with cycles := p.2.cycles + word n } else p.2))
    time := if s.timeHold.isSome then s.time else s.time + n * 10 / 33 }

/-- THROTTLE_BUBBLE. -/
def execThrottleBubble (n : Nat) (s : State) : Outcome := s.event (some (s.bubble n))

/-- POWER_CAP_WRITE: management sets the cap. -/
def execPowerCapWrite (w : Word) (s : State) : Outcome :=
  s.event (if s.ready.getLsbD 4 then some { s with cap := w } else none)

/-- An item that the board controller reads (14 R263): FWREADY, device status, the board items and the channel counters. -/
def boardHas (o : Nat) : Bool := o % 8 == 0 && (decide (o ≤ 0x58) || counterOk o 8)

/-- A read of the board controller: the item is returned, and a read of device status clears THR. -/
def State.boardReadAt (s : State) (o : Nat) : State :=
  if boardHas o then { s with lastRead := s.deviceRead o, throttled := if o = 8 then false else s.throttled } else s

/-- DEVICE_STATUS_READ: the status is returned, and THR is cleared. -/
def execDeviceStatusRead (s : State) : Outcome :=
  s.event (some { s with lastRead := s.status, throttled := false })

/-- A sensor, an error counter or the power state takes a value (14 R263): 0-3 temperatures, 4 power, 5-7 corrected errors,
8 PWR. No launch runs in standby. -/
def State.senseAt (s : State) (i : Nat) (w : Word) : State :=
  match i with
  | 4 => { s with power := w }
  | 5 => { s with eccSram := w }
  | 6 => { s with eccHbm := w }
  | 7 => { s with eccLpddr := w }
  | 8 => if w.toNat ≤ 1 ∨ (w.toNat = 2 ∧ s.launches = []) then { s with pwr := w.setWidth 2 } else s
  | i => if i < 4 then { s with temps := vset s.temps i w } else s

end Sys2Proof.Machine
end

