-- ==== Sys2Proof/Machine/Quantum.lean ====
section
/-! DEFINITION. The quantum end of a deterministic launch (12 R239): when it has come, what it delivers, and what it
serves. -/

namespace Sys2Proof.Machine

/-! ### Cores that are held -/

/-- A source field where there is one. -/
def optField (c : Option GReg) : List GReg := c.toList
/-- The register of an index. -/
def indexField (x : Option Index) : List GReg := (x.map (·.reg)).toList

/-- The source fields of an instruction that the integer pipe reads, at dispatch for a vector instruction (22 R386); a
two-operand form reads A. -/
def sources : Instr → List GReg
  | .mov _ b _ => [b]
  | .add a b c _ => (if c.isSome then [] else [a]) ++ b :: optField c
  | .sub a b c _ => (if c.isSome then [] else [a]) ++ b :: optField c
  | .and a b c _ => (if c.isSome then [] else [a]) ++ b :: optField c
  | .or a b c _ => (if c.isSome then [] else [a]) ++ b :: optField c
  | .xor a b c _ => (if c.isSome then [] else [a]) ++ b :: optField c
  | .shl a b c _ => (if c.isSome then [] else [a]) ++ b :: optField c
  | .shr a b c _ => (if c.isSome then [] else [a]) ++ b :: optField c
  | .sra a b c _ => (if c.isSome then [] else [a]) ++ b :: optField c
  | .mul a b c _ => (if c.isSome then [] else [a]) ++ b :: optField c
  | .mulh a b c _ => (if c.isSome then [] else [a]) ++ b :: optField c
  | .div a b c _ => (if c.isSome then [] else [a]) ++ b :: optField c
  | .rem a b c _ => (if c.isSome then [] else [a]) ++ b :: optField c
  | .slt a b c _ => (if c.isSome then [] else [a]) ++ b :: optField c
  | .min a b c _ => (if c.isSome then [] else [a]) ++ b :: optField c
  | .max a b c _ => (if c.isSome then [] else [a]) ++ b :: optField c
  | .clmul a b c _ => (if c.isSome then [] else [a]) ++ b :: optField c
  | .clmulh a b c _ => (if c.isSome then [] else [a]) ++ b :: optField c
  | .clz _ b _ => [b]
  | .popc _ b _ => [b]
  | .padd _ b _ => [b]
  | .pset _ b => [b]
  | .pget _ b => [b]
  | .bfx _ b _ _ => [b]
  | .bfi _ b _ _ => [b]
  | .ld _ b x _ _ _ _ => b :: indexField x
  | .st a b x _ _ _ _ => a :: b :: indexField x
  | .bz a _ => [a]
  | .bnz a _ => [a]
  | .bltz a _ => [a]
  | .bgez a _ => [a]
  | .jr _ b => [b]
  | .csrw a _ => [a]
  | .epush _ b => [b]
  | .qpush a b => [a, b]
  | .aadd a b c _ _ _ => (if c.isSome then [] else [a]) ++ b :: optField c
  | .aand a b c _ _ _ => (if c.isSome then [] else [a]) ++ b :: optField c
  | .aor a b c _ _ _ => (if c.isSome then [] else [a]) ++ b :: optField c
  | .axor a b c _ _ _ => (if c.isSome then [] else [a]) ++ b :: optField c
  | .amin a b c _ _ _ => (if c.isSome then [] else [a]) ++ b :: optField c
  | .amax a b c _ _ _ => (if c.isSome then [] else [a]) ++ b :: optField c
  | .aswp a b c _ _ _ => (if c.isSome then [] else [a]) ++ b :: optField c
  | .acas _ b c _ _ _ => [b, c]
  | .upd a b _ _ _ => [a, b]
  | .updcfg a b => [a, b]
  | .scfg _ b => [b]
  | .pref _ b _ => [b]
  | .vld _ b _ _ _ => [b]
  | .vst _ b _ _ _ => [b]
  | .vldc _ b _ _ _ => [b]
  | .vstc _ b _ _ _ => [b]
  | .vgath _ b _ _ _ => [b]
  | .vscat _ b _ _ _ => [b]
  | .gmask _ b => [b]
  | .vbcast _ b _ => [b]
  | .vmovv _ b _ _ => [b]
  | .vloop _ b => [b]
  | .kmovKFromG _ b => [b]
  | .tload _ b _ => [b]
  | .tsave _ b _ => [b]
  | .asscfg _ b => [b]
  | .assay a b => [b, a]
  | .draw a b => [b, a]
  | .carrive a b => [b, a]
  | .cwait _ b => [b]
  | .cpost a b => [b, a]
  | .gstep _ b => [b]
  | .mpop _ b => [b]
  | .mstat _ b => [b]
  | .crew _ b => [b]
  | _ => []

/-- The slot waits at a pop of an empty q0, q3 or q7. -/
def State.popWaits (s : State) (i : Instr) : Bool :=
  [0, 3, 7].any (fun p => decide ((s.inPort p).length < popsOf p (sources i)))

/-- The instruction that the slot issues next waits, at one of the places of 12 R239. -/
def State.instrWaits (s : State) (i : Instr) : Bool :=
  s.popWaits i ||
  match i with
  | .waitb d => vget s.me.arr d.val .idle == .arrived
  | .sync d => s.me.wait == .request && vget s.me.arr d.val .idle == .arrived
  | .cwait _ _ => (s.inPort 7).isEmpty
  | _ => s.me.wait == .request

/-- The slot of the step is held, or has nothing left to do. A follower waits where its leader does (log 29). -/
def State.slotHeld (s : State) : Bool :=
  s.me.run != .running ||
  (s.me.deferred.isNone &&
   match s.me.crew with
   | some x =>
     if x.index = 0 then (match decode s.fetchNext.1 with | .ok i _ => s.instrWaits i | .bad _ => false)
     else
       match x.due with
       | w :: _ => s.instrWaits w.instr
       | [] => true
   | none => (match decode s.fetchNext.1 with | .ok i _ => s.instrWaits i | .bad _ => false))

/-- The core has ended the quantum, is held, or has retired; one that a clean pre-emption has stopped at its release is
held there until the launch's commands have completed (13 R251). -/
def State.quantumOver (s : State) (l : Launch) (c : Nat) : Bool :=
  (s.coreOf c).stopped ||
  decide ((l.quantum + 1) * l.quantumLen ≤ (s.coreOf c).retired.toNat) ||
  ([0, 1, 2, 3] : List (Fin 4)).all (fun k => ({ s with cur := ⟨c, k⟩ } : State).slotHeld)

/-! ### Delivery: what the previous quantum end served -/

/-- A task leaves the task queue. -/
def State.endTask (s : State) (id : Nat) (x : Task) : State :=
  s.modLaunch id (fun l => { l with tasks := dropFirst (fun y => y == x) l.tasks })

/-- A task in place of another. -/
def State.putTask (s : State) (id : Nat) (x y : Task) : State :=
  s.modLaunch id (fun l => { l with tasks := replaceFirst (fun z => z == x) (fun _ => y) l.tasks })

/-- The scale tile of a command enters the hem buffer of its destination, if it can. -/
def State.pushTile (s : State) (n : Nat) : State :=
  match (List.range s.hems.length).find? (fun i => (s.hems[i]?).any (fun h => h.number == n)) with
  | some i => (s.hemArrival i).getD s
  | none => s

/-- A copy command of a served EPUSH runs and completes, its scale tile delivered; none while it cannot run. -/
def State.deliverCopy (s : State) (n : Nat) : Option State :=
  match s.copies.find? (fun x => x.number == n) with
  | none => some s
  | some x =>
    if x.missing then none
    else
      match (if x.done.isSome then some s else s.copyRun { x with started := true }) with
      | none => none
      | some t0 =>
        let t := t0.pushTile n
        match t.copies.find? (fun y => y.number == n) with
        | none => some t
        | some y =>
          match y.done with
          | some w =>
            if t.tileWaits n then some t
            else
              some ({ t with copies := t.copies.filter (fun z => z.number != n) }.modCore y.home
                (fun z => z.fillQ3.copyEnd y.record w))
          | none => some t

/-- A lexicon command of a served EPUSH runs and completes; none while it cannot. -/
def State.deliverLex (s : State) (n : Nat) : Option State :=
  match s.lexicons.find? (fun x => x.number == n) with
  | none => some s
  | some x =>
    if x.missing then none
    else
      let y : EngineCmd := { x with started := true, vocab := s.lexVocab x }
      let t := (s.modLex n (fun _ => y)).lexRun y
      match t.lexicons.find? (fun z => z.number == n) with
      | none => some t
      | some z =>
        match z.done with
        | some w =>
          some ({ t with lexicons := t.lexicons.filter (fun u => u.number != n) }.modCore z.home
            (fun u => u.fillQ3.lexEnd z.record w))
        | none => some t

/-- The command of a served EPUSH has not left its engine. -/
def State.commandLeft (s : State) (n : Nat) : Bool :=
  s.copies.any (fun x => x.number == n) || s.lexicons.any (fun x => x.number == n)

/-- Results of tasks served at an earlier quantum end, in order: the state after them, and whether all could be delivered. -/
def State.deliverTasks (s : State) (id : Nat) : List Task → State × Bool
  | [] => (s, true)
  | x :: xs =>
    match x.req, x.served with
    | .epush n _, some (_, some w) =>
      (match (if n = 1 then s.deliverCopy w.toNat else s.deliverLex w.toNat) with
       | none => (s, false)
       | some t =>
         if (t.launch? id).isNone then (t, false)
         else if t.commandLeft w.toNat then (t, false)
         else (t.endTask id x).deliverTasks id xs)
    | _, some (_, some v) => ((s.reply x.core x.slot v).endTask id x).deliverTasks id xs
    | _, _ => s.deliverTasks id xs

/-! ### Service -/

/-- Loads of the launch that a barrier has released, marked as served: those before `x` in the order at the next quantum
end, `x` and those after it at this one. -/
def State.markReleased (s : State) (id q : Nat) (before : List Task) : State :=
  match s.launch? id with
  | none => s
  | some l =>
    l.tasks.foldl
      (fun t x =>
        match x.req, x.served, (t.slotOf x.core x.slot).wait with
        | .unit _, none, .reply v =>
          (t.modSlot x.core x.slot (fun y => { y with wait := .request })).putTask id x
            { x with served := some (if before.contains x then q + 1 else q, some v) }
        | _, _, _ => t)
      s

/-- A barrier load arrives once, and opens the barrier if it is the last. -/
def State.barrierLoad (s : State) (r : UnitReq) : State :=
  let b := r.off / 8 % 4
  let u := s.unitOf r.core
  let x := vget u.barriers b ⟨0, 0, []⟩
  if x.waiters.contains (r.core, r.slot) then s
  else
    (s.setUnit { u with barriers := vset u.barriers b { x with waiters := x.waiters ++ [(r.core, r.slot)] } }).openBarrier
      r.core b

/-- One task served at the end of quantum `q`; none where it waits for room. -/
def State.serveTask (s : State) (id q : Nat) (before : List Task) (x : Task) : Option State :=
  match x.req with
  | .unit r =>
    match r.data with
    | some v => some (((s.unitStore r.core r.off v).endTask id x).markReleased id q before)
    | none =>
      match s.unitLoad r.core r.off with
      | some (v, t) => some (t.putTask id x { x with served := some (q, some v) })
      | none => if 0x180 ≤ r.off then some ((s.barrierLoad r).markReleased id q before) else some s
  | .qpush h r =>
    let y := s.queueOf h
    if y.state = .absent ∨ y.claim ≠ s.claimId x.core then some (s.endTask id x)
    else if y.room then some ((s.appendPacket h r).endTask id x)
    else none
  | .mpop h =>
    match s.media? (s.claimId x.core) h with
    | none => some s
    | some m =>
      match s.mediaPop m with
      | .ok (v, t) => some (t.putTask id x { x with served := some (q, some v) })
      | .error (.trap z) => some (s.engineFault x.core x.slot x.pc z)
      | .error _ => some s
  | .epush n r =>
    let cmd : EngineCmd :=
      EngineCmd.pushed s.fresh (clusterOf x.core) (.slot x.core x.slot) x.pc (s.claimId x.core) r (s.seedsOf x.core)
    let t : State :=
      if n = 1 then { s with fresh := s.fresh + 1, copies := s.copies ++ [cmd] }
      else { s with fresh := s.fresh + 1, lexicons := s.lexicons ++ [cmd] }
    some (t.putTask id x { x with served := some (q, some (word s.fresh)) })

/-- Tasks served in order, those already passed in `before`; one that a barrier has meanwhile released is passed. -/
def State.serveTasks (s : State) (id q : Nat) (before : List Task) : List Task → Option State
  | [] => some s
  | x :: xs =>
    match s.launch? id with
    | none => some s
    | some l =>
      if l.tasks.contains x then
        (match s.serveTask id q before x with
         | some t => t.serveTasks id q (before ++ [x]) xs
         | none => none)
      else s.serveTasks id q (before ++ [x]) xs

/-- Tasks in the order of service: logical cores ascending, each core's in program order. -/
def Launch.inOrder (l : Launch) (ts : List Task) : List Task := l.cores.flatMap (fun c => ts.filter (fun t => t.core == c))

/-! ### The quantum end -/

/-- The committees of the launch move on, messages that waited for room enter q0, the quantum advances, and a forced
pre-emption that waits for it takes effect. -/
def State.nextQuantum (s : State) (id : Nat) : State :=
  match s.launch? id with
  | none => s
  | some l0 =>
    let t := ((s.committeeBoundary l0.cores).deliverWaiting l0.cores).modLaunch id (fun l => { l with quantum := l.quantum + 1 })
    match t.launch? id with
    | some l => if l.preempt == .forced && t.drained l then t.forcedStop l else t
    | none => t

/-- QUANTUM_END. Results of the previous end are delivered first; where one waits for a page or a scale tile, or a packet
for room, the boundary waits (log 30). -/
def State.quantumEndAt (s : State) (id : Nat) : Option State :=
  match s.launch? id with
  | some l =>
    if l.det && l.preempt != .saved && s.whole l && l.groups.all (·.entered) && l.cores.all (s.quantumOver l) then
      let due := (l.inOrder l.tasks).filter (fun t => t.served.any (fun z => decide (z.1 < l.quantum)))
      let (s1, whole) := s.deliverTasks id due
      if !whole then some s1
      else
        match s1.launch? id with
        | none => some s1
        | some l1 =>
          let todo := (l1.inOrder l1.tasks).filter (fun t => t.served.isNone)
          (s1.serveTasks id l.quantum [] todo).map (fun t => t.nextQuantum id)
    else none
  | none => none

/-- QUANTUM_END. -/
def execQuantumEnd (l : Nat) (s : State) : Outcome := s.event (s.quantumEndAt l)

end Sys2Proof.Machine
end

