-- ==== Sys2Proof/Machine/Sequencer.lean ====
section
/-! DEFINITION. The vector sequencer of a slot (09 R182, R183, 13 R248): dispatch, execution in order, VLOOP repetitions,
stream markers, deferred traps, DEFERRED_TRAP and RETX. -/

namespace Sys2Proof.Machine

/-- A mask of k[a]. -/
def State.kOf (s : State) (k : KReg) : Word := vget s.me.k k.val 0

/-- The execution of one dispatched instruction. -/
def State.vexec (s : State) (e : VEntry) : VRes :=
  match e.instr with
  | .vld a b d x t => s.vLoad e a b d x t
  | .vst a b d x t => s.vStore e a b d x t
  | .vldc a b d x t => s.vLoadConvert e a b d x t
  | .vstc a b d x t => s.vStoreConvert e a b d x t
  | .vadd a b c t => s.vBinary laneAdd a b c t
  | .vsub a b c t => s.vBinary laneSub a b c t
  | .vmul a b c t => s.vBinary laneMul a b c t
  | .vfma a b c x t => s.vFma a b c x t
  | .vmin a b c t => s.vBinary laneMin a b c t
  | .vmax a b c t => s.vBinary laneMax a b c t
  | .vabs a b x t => s.vUnary (laneSign true t) a b x t
  | .vneg a b x t => s.vUnary (laneSign false t) a b x t
  | .vexp a b x t => s.vFunction FloatFmt.exp a b x t
  | .vln a b x t => s.vFunction FloatFmt.ln a b x t
  | .vrcp a b x t => s.vFunction FloatFmt.rcp a b x t
  | .vrsq a b x t => s.vFunction FloatFmt.rsq a b x t
  | .vclt a b c x t => s.vCompare .lt a b c x t
  | .vcle a b c x t => s.vCompare .le a b c x t
  | .vceq a b c x t => s.vCompare .eq a b c x t
  | .vsel a b c x t => s.vSelect a b c x t
  | .vbcast a b t => s.vBroadcast e a b t
  | .vmovg a b n t => s.vExtract a b n t
  | .vmovv a b n t => s.vInsert e a b n t
  | .vgath a b c x t => s.vGather e a b c x t
  | .vscat a b c x t => s.vScatter e a b c x t
  | .vpack a b x t => s.vPack a b x t
  | .vcmpk a b x t => s.vCompact a b x t
  | .vrsum b x t => s.vReduce (rsumOf s.rm t) b x t
  | .vrmax b x t => s.vReduce (fun act v => (rmaxOf t act v, sigFlags t act v)) b x t
  | .vargmx b x t =>
    s.vReduce (fun act v => (match largest t act v with | some i => word i | none => minusOne, sigFlags t act v)) b x t
  | .vcvt a b ts x t => s.vConvert a b ts x t
  | .vhad a b blk n x t => s.vHadamard false a b blk n x t
  | .vihad a b blk n x t => s.vHadamard true a b blk n x t
  | .vand a b c t => s.vBinary (laneBits Nat.land) a b c t
  | .vor a b c t => s.vBinary (laneBits Nat.lor) a b c t
  | .vxor a b c t => s.vBinary (laneBits Nat.xor) a b c t
  | .vshl a b c t => s.vBinary laneShl a b c t
  | .vshr a b c t => s.vBinary laneShr a b c t
  | .kand a b c => .ok (s.setK a (match c with | some c => s.kOf b &&& s.kOf c | none => s.kOf a &&& s.kOf b), 0)
  | .kor a b c => .ok (s.setK a (match c with | some c => s.kOf b ||| s.kOf c | none => s.kOf a ||| s.kOf b), 0)
  | .knot a b => .ok (s.setK a (~~~ s.kOf b), 0)
  | .kmovKFromG a b => do
    let (w, s1) ← s.vOperand b e
    .ok (s1.setK a w, 0)
  | .kmovGFromK a _ => if a.val = 29 then .error (.trap 0x02 0) else .ok (s, 0)
  | .kmovKFromK a b => .ok (s.setK a (s.kOf b), 0)
  | .gmask a b => s.vGrammarMask e a b
  | _ => .ok (s, 0)

/-! ### The sequencer's list -/

/-- The next execution, if the head of the list is one. -/
def seqHead : List SeqItem → Option VEntry
  | .op e :: _ => some e
  | .loop body _ next :: _ => body[next]?
  | .mark _ _ :: _ => none
  | [] => none

/-- The list after the next execution (or marker). -/
def seqNext : List SeqItem → List SeqItem
  | .op _ :: l => l
  | .mark _ _ :: l => l
  | .loop body reps next :: l =>
    if next + 1 < body.length then .loop body reps (next + 1) :: l
    else if 1 < reps then .loop body (reps - 1) 0 :: l
    else l
  | [] => []

/-- The head is a VLOOP body. -/
def seqInLoop : List SeqItem → Bool
  | .loop _ _ _ :: _ => true
  | .op _ :: _ => false
  | .mark _ _ :: _ => false
  | [] => false

/-- A marker reached (21 R368). -/
def Slot.mark (t : Slot) (n : Fin 4) (enable : Bool) : Slot :=
  let x := vget t.streams n.val Stream.reset
  t.setStream n.val (if enable then { x with en := true, pos := 0, early := [] } else { x with en := false, early := [] })

/-- A vector trap recorded: cause, DETAIL, and the vector instruction's address in TRAPVAL (13 R245); an overrun shows
in STRSTAT (09 R181). -/
def Slot.defer (t : Slot) (code detail : Nat) (pc : VAddr) : Slot :=
  let t1 := if code = 0x0B then t.setStream detail { vget t.streams detail Stream.reset with ovr := true } else t
  { t1 with deferred := some ⟨code, detail, pc.setWidth 64⟩, vwait := ⟨false, 0, []⟩ }

/-- The flags of an execution ORed into FFLAGS; an enabled one is a floating-point exception (05 R101). -/
def Slot.raise (t : Slot) (g : Flags) (pc : VAddr) : Slot :=
  let t1 := { t with fflags := t.fflags ||| g, vwait := ⟨false, 0, []⟩ }
  if g &&& t.fen = 0 then t1 else t1.defer 0x0A g.toNat pc

/-- The firmware ends the launch at a vector instruction. -/
def State.vFatal (s : State) (x : Trap) (pc : VAddr) : State :=
  let s1 : State :=
    if x.code = 0x0F then { s with checks := s.checks + 1 } else if x.code = 0x04 then s.report .remoteRefused else s
  s1.faultEnd s.cur.core s.cur.slot.val (causeWord false x.detail x.code) pc x.value

/-- The state in which an execution waits: what it has popped from a port or a stream is popped when it completes
(09 R180, R183). -/
def State.seqWaits (s t : State) : State := (s.unpopped t).modMe (fun y => { y with streams := s.me.streams })

/-- One execution of the sequencer of the slot of the step; none: it waits. A core stopped by a clean pre-emption lets its
sequencer finish (13 R251). -/
def State.seqStep (s : State) : Option State :=
  let t := s.me
  if t.deferred.isSome || t.vmiss || t.run != .running || s.frozen s.cur.core then none
  else
    match t.wait with
    | .page _ => none
    | _ =>
      match t.seq with
      | .mark n b :: _ => some (s.modMe (fun t => { t.mark n b with seq := seqNext t.seq }))
      | l =>
        match seqHead l with
        | none => none
        | some e =>
          match s.vexec e with
          | .ok (s1, g) =>
            let s2 := (s1.modMe (fun t => { t.raise g e.pc with seq := seqNext l })).seqPassed
            some (if seqInLoop l then s2.modMyCore (fun x => { x with retired := x.retired + 1 }) else s2)
          | .error (.trap c d) => some (s.modMe (fun t => t.defer c d e.pc))
          | .error .hold => none
          | .error (.wait s1) => some (s.seqWaits s1)
          | .error (.fatal x) => some (s.vFatal x e.pc)

/-- Executions until at most `keep` are left, the sequencer waits, or `fuel` runs out. -/
def State.drain (s : State) (keep : Nat) : Nat → State
  | 0 => s
  | fuel + 1 =>
    if seqPending s.me.seq ≤ keep && !(s.me.seq.any (fun i => match i with
      | .mark _ _ => true | .op _ => false | .loop _ _ _ => false)) then s
    else
      match s.seqStep with
      | some t => t.drain keep fuel
      | none => s

/-- Executions that one turn of a slot can wait for. -/
def drainFuel : Nat := 4096

/-- The sequencer of the slot of the step catches up: to its lag, or wholly while the integer pipe is held. -/
def State.catchUp (s : State) : State := s.drain (if s.me.held then 0 else s.me.lag) drainFuel

/-- A turn of a sequencer of its own. -/
def State.seqTurn (s : State) (c : Nat) (k : Fin 4) : State :=
  let t : State := { s with cur := ⟨c, k⟩ }
  { (t.seqStep).getD t with cur := s.cur }

/-! ### Dispatch (09 R182, 22 R386) -/

/-- While the replay queue is not empty, a page-2 instruction is illegal (13 R248). -/
def State.vOpen (s : State) : Except Stop Unit := if s.me.replay.isEmpty then .ok () else s.illegalHere

/-- A g operand at dispatch: read, or left to execution where it is q5; q1 is refused. -/
def State.vReadG (s : State) (r : Option GReg) : Except Stop (Word × State) :=
  match r with
  | none => .ok (0, s)
  | some r =>
    if r.val = 29 then .ok (0, s)
    else do
      s.ports [r] []
      .ok (s.readG r)

/-- Room for one more instruction. -/
def State.seqRoom (s : State) : Except Stop Unit :=
  holdIf (decide (16 ≤ seqSize s.me.seq + ((s.me.collect.map (fun x => x.body.length)).getD 0)))

/-- An instruction passed to the sequencer: as the next of a VLOOP body, which counts in RETIRED when it executes, or on
its own. -/
def State.enqueue (s : State) (e : VEntry) : State :=
  match s.me.collect with
  | some x =>
    let body := x.body ++ [e]
    let s1 := s.modMyCore (fun y => { y with retired := y.retired - 1 })
    s1.modMe (fun t =>
      if x.left ≤ 1 then
        { t with collect := none, seq := if x.reps = 0 then t.seq else t.seq ++ [.loop body x.reps 0] }
      else { t with collect := some ⟨x.left - 1, x.reps, body⟩ })
  | none => s.modMe (fun t => { t with seq := t.seq ++ [.op e] })

/-- Dispatch of a vector instruction with at most one g source. -/
def State.dispatch (s : State) (i : Instr) (r : Option GReg) : Res := do
  s.vOpen
  s.seqRoom
  let (w, s1) ← s.vReadG r
  .ok (s1.enqueue ⟨i, s.me.pc, w⟩)

/-- The instruction may stand in a VLOOP body (09 R182, 20 R333, 22 R393). -/
def bodyOk : Instr → Bool
  | .vld _ _ _ _ _ => true | .vst _ _ _ _ _ => true | .vldc _ _ _ _ _ => true | .vstc _ _ _ _ _ => true
  | .vadd _ _ _ _ => true | .vsub _ _ _ _ => true | .vmul _ _ _ _ => true | .vfma _ _ _ _ _ => true
  | .vmin _ _ _ _ => true | .vmax _ _ _ _ => true | .vabs _ _ _ _ => true | .vneg _ _ _ _ => true
  | .vexp _ _ _ _ => true | .vln _ _ _ _ => true | .vrcp _ _ _ _ => true | .vrsq _ _ _ _ => true
  | .vclt _ _ _ _ _ => true | .vcle _ _ _ _ _ => true | .vceq _ _ _ _ _ => true | .vsel _ _ _ _ _ => true
  | .vbcast _ _ _ => true | .vmovv _ _ _ _ => true | .vgath _ _ _ _ _ => true | .vscat _ _ _ _ _ => true
  | .vpack _ _ _ _ => true | .vcmpk _ _ _ _ => true | .vrsum _ _ _ => true | .vrmax _ _ _ => true
  | .vargmx _ _ _ => true | .vcvt _ _ _ _ _ => true | .vhad _ _ _ _ _ _ => true | .vihad _ _ _ _ _ _ => true
  | .vand _ _ _ _ => true | .vor _ _ _ _ => true | .vxor _ _ _ _ => true | .vshl _ _ _ _ => true
  | .vshr _ _ _ _ => true | .kand _ _ _ => true | .kor _ _ _ => true | .knot _ _ => true
  | .kmovKFromG _ _ => true | .kmovKFromK _ _ => true | .gmask _ _ => true
  | _ => false

/-- VMOVG, an integer instruction that waits for the sequencer (22 R393): the faults of reading a vector register, and q5 as
its destination, are deferred like any other vector fault; those of its destination are not. -/
def State.afterSequencer (s : State) (i : Instr) (a : GReg) (b : VReg) (n : Nat) (t : LaneType) : Res := do
  s.vOpen
  s.vectorDone
  if a.val ≠ 29 then s.ports [] [a]
  let e : VEntry := ⟨i, s.me.pc, 0⟩
  match (if a.val = 29 then .error (.trap 2 0) else s.vLane b n t) with
  | .ok (w, s1) => (s1.modMe (fun t => { t with vwait := ⟨false, 0, []⟩ })).writeG a w
  | .error (.trap c d) => .ok (s.modMe (fun t => { t.defer c d e.pc with seq := [.op e] }))
  | .error .hold => .error .hold
  | .error (.wait s1) => .error (.held (s.seqWaits s1))
  | .error (.fatal x) => .error (.fatal x)

/-- The unexecuted vector work becomes the replay queue; a marker with nothing before it is reached at once (21 R368). -/
def Slot.keepReplay (t : Slot) : List SeqItem → Slot
  | .mark n b :: l => (t.mark n b).keepReplay l
  | l => { t with deferred := none, replay := l, seq := [] }

/-- DEFERRED_TRAP (13 R248): the trap the sequencer has detected is taken before the next instruction; what it has not
executed becomes the replay queue. -/
def State.takeDeferred (s : State) (c k : Nat) : Option State :=
  let t := s.slotOf c k
  match t.deferred with
  | some x => some (((s.modCore c (fun y => y.giveBack k)).modSlot c k (fun t => t.keepReplay t.seq)).takeTrap c k true x)
  | none => none

/-- DEFERRED_TRAP. -/
def execDeferredTrap (c : Nat) (k : Fin 4) (s : State) : Outcome := s.event (s.takeDeferred c k.val)

/-- The replay entries that RETX dispatches: VSKIP drops the next execution of the first. -/
def Slot.replayed (t : Slot) : List SeqItem := if t.vskip then seqNext t.replay else t.replay

/-- RETX (13 R247); its ifence() is that of `leaveHandler`. A return to the exit address ends the slot, once the replayed
work has executed (02 R43, log 17). -/
def execRetx (s : State) : Outcome :=
  s.finish (
    if !s.me.inh then s.illegalHere
    else if s.me.trappc.toNat = exitAddress then
      (if s.me.replay.isEmpty then do
        s.vectorDone
        .ok ((s.modMe (fun t => t.leaveHandler [])).endSlot s.cur.core s.cur.slot.val)
       else .error (.held (s.modMe (fun t => { t with seq := t.replayed ++ t.seq, replay := [], vskip := false }))))
    else
      .ok ((if s.me.vskip then s.seqPassed else s).modMe (fun t => t.leaveHandler t.replayed)))

end Sys2Proof.Machine
end

