-- ==== Sys2Proof/Machine/VectorOps.lean ====
section
/-! DEFINITION. The vector and mask instructions at the integer pipe: each is dispatched into the slot's sequencer
(22 R386); VLOOP, SCFG and SEN (09 R179, R182, 21 R367, R368). -/

namespace Sys2Proof.Machine

def execVadd (a b : VReg) (c : Option Third) (t : LaneType) (s : State) : Outcome :=
  s.finish (s.dispatch (.vadd a b c t) none)
def execVsub (a b : VReg) (c : Option Third) (t : LaneType) (s : State) : Outcome :=
  s.finish (s.dispatch (.vsub a b c t) none)
def execVmul (a b : VReg) (c : Option Third) (t : LaneType) (s : State) : Outcome :=
  s.finish (s.dispatch (.vmul a b c t) none)
def execVmin (a b : VReg) (c : Option Third) (t : LaneType) (s : State) : Outcome :=
  s.finish (s.dispatch (.vmin a b c t) none)
def execVmax (a b : VReg) (c : Option Third) (t : LaneType) (s : State) : Outcome :=
  s.finish (s.dispatch (.vmax a b c t) none)
def execVand (a b : VReg) (c : Option Third) (t : LaneType) (s : State) : Outcome :=
  s.finish (s.dispatch (.vand a b c t) none)
def execVor (a b : VReg) (c : Option Third) (t : LaneType) (s : State) : Outcome :=
  s.finish (s.dispatch (.vor a b c t) none)
def execVxor (a b : VReg) (c : Option Third) (t : LaneType) (s : State) : Outcome :=
  s.finish (s.dispatch (.vxor a b c t) none)
def execVshl (a b : VReg) (c : Option Third) (t : LaneType) (s : State) : Outcome :=
  s.finish (s.dispatch (.vshl a b c t) none)
def execVshr (a b : VReg) (c : Option Third) (t : LaneType) (s : State) : Outcome :=
  s.finish (s.dispatch (.vshr a b c t) none)
def execVabs (a b : VReg) (x : KReg) (t : LaneType) (s : State) : Outcome :=
  s.finish (s.dispatch (.vabs a b x t) none)
def execVneg (a b : VReg) (x : KReg) (t : LaneType) (s : State) : Outcome :=
  s.finish (s.dispatch (.vneg a b x t) none)
def execVexp (a b : VReg) (x : KReg) (t : LaneType) (s : State) : Outcome :=
  s.finish (s.dispatch (.vexp a b x t) none)
def execVln (a b : VReg) (x : KReg) (t : LaneType) (s : State) : Outcome :=
  s.finish (s.dispatch (.vln a b x t) none)
def execVrcp (a b : VReg) (x : KReg) (t : LaneType) (s : State) : Outcome :=
  s.finish (s.dispatch (.vrcp a b x t) none)
def execVrsq (a b : VReg) (x : KReg) (t : LaneType) (s : State) : Outcome :=
  s.finish (s.dispatch (.vrsq a b x t) none)
def execVpack (a b : VReg) (x : KReg) (t : LaneType) (s : State) : Outcome :=
  s.finish (s.dispatch (.vpack a b x t) none)
def execVcmpk (a b : VReg) (x : KReg) (t : LaneType) (s : State) : Outcome :=
  s.finish (s.dispatch (.vcmpk a b x t) none)
def execVrsum (b : VReg) (x : KReg) (t : LaneType) (s : State) : Outcome :=
  s.finish (s.dispatch (.vrsum b x t) none)
def execVrmax (b : VReg) (x : KReg) (t : LaneType) (s : State) : Outcome :=
  s.finish (s.dispatch (.vrmax b x t) none)
def execVargmx (b : VReg) (x : KReg) (t : LaneType) (s : State) : Outcome :=
  s.finish (s.dispatch (.vargmx b x t) none)
def execVclt (a : KReg) (b c : VReg) (x : KReg) (t : LaneType) (s : State) : Outcome :=
  s.finish (s.dispatch (.vclt a b c x t) none)
def execVcle (a : KReg) (b c : VReg) (x : KReg) (t : LaneType) (s : State) : Outcome :=
  s.finish (s.dispatch (.vcle a b c x t) none)
def execVceq (a : KReg) (b c : VReg) (x : KReg) (t : LaneType) (s : State) : Outcome :=
  s.finish (s.dispatch (.vceq a b c x t) none)
def execVfma (a b c : VReg) (x : KReg) (t : LaneType) (s : State) : Outcome :=
  s.finish (s.dispatch (.vfma a b c x t) none)
def execVsel (a b c : VReg) (x : KReg) (t : LaneType) (s : State) : Outcome :=
  s.finish (s.dispatch (.vsel a b c x t) none)
def execVgath (a : VReg) (b : GReg) (c : VReg) (x : KReg) (t : LaneType) (s : State) : Outcome :=
  s.finish (s.dispatch (.vgath a b c x t) (some b))
def execVscat (a : VReg) (b : GReg) (c : VReg) (x : KReg) (t : LaneType) (s : State) : Outcome :=
  s.finish (s.dispatch (.vscat a b c x t) (some b))
def execVld (v : VReg) (b : GReg) (e : Int) (x : KReg) (t : LaneType) (s : State) : Outcome :=
  s.finish (s.dispatch (.vld v b e x t) (some b))
def execVst (v : VReg) (b : GReg) (e : Int) (x : KReg) (t : LaneType) (s : State) : Outcome :=
  s.finish (s.dispatch (.vst v b e x t) (some b))
def execVstc (v : VReg) (b : GReg) (e : Int) (x : KReg) (t : LaneType) (s : State) : Outcome :=
  s.finish (s.dispatch (.vstc v b e x t) (some b))
def execVldc (v : VReg) (b : GReg) (e : Int) (x : KReg) (t : Option LaneType) (s : State) : Outcome :=
  s.finish (s.dispatch (.vldc v b e x t) (some b))
def execVhad (a b : VReg) (blk : Nat) (seed : Fin 16) (x : KReg) (t : LaneType) (s : State) : Outcome :=
  s.finish (s.dispatch (.vhad a b blk seed x t) none)
def execVihad (a b : VReg) (blk : Nat) (seed : Fin 16) (x : KReg) (t : LaneType) (s : State) : Outcome :=
  s.finish (s.dispatch (.vihad a b blk seed x t) none)
def execVcvt (a b : VReg) (ts : LaneType) (x : KReg) (t : LaneType) (s : State) : Outcome :=
  s.finish (s.dispatch (.vcvt a b ts x t) none)
def execVbcast (a : VReg) (b : GReg) (t : LaneType) (s : State) : Outcome :=
  s.finish (s.dispatch (.vbcast a b t) (some b))
def execVmovv (a : VReg) (b : GReg) (n : Nat) (t : LaneType) (s : State) : Outcome :=
  s.finish (s.dispatch (.vmovv a b n t) (some b))
def execGmask (v : VReg) (b : GReg) (s : State) : Outcome := s.finish (s.dispatch (.gmask v b) (some b))
def execKand (a b : KReg) (c : Option KReg) (s : State) : Outcome := s.finish (s.dispatch (.kand a b c) none)
def execKor (a b : KReg) (c : Option KReg) (s : State) : Outcome := s.finish (s.dispatch (.kor a b c) none)
def execKnot (a b : KReg) (s : State) : Outcome := s.finish (s.dispatch (.knot a b) none)
def execKmovKFromG (a : KReg) (b : GReg) (s : State) : Outcome := s.finish (s.dispatch (.kmovKFromG a b) (some b))
def execKmovKFromK (a b : KReg) (s : State) : Outcome := s.finish (s.dispatch (.kmovKFromK a b) none)

/-- VMOVG (22 R393). -/
def execVmovg (a : GReg) (b : VReg) (n : Nat) (t : LaneType) (s : State) : Outcome :=
  s.finish (s.afterSequencer (.vmovg a b n t) a b n t)

/-- KMOV gA, kB (20 R333). A g field that names q5 as a destination takes its illegal-operand trap as a vector trap
(03 R56). -/
def execKmovGFromK (a : GReg) (b : KReg) (s : State) : Outcome :=
  s.finish (do
    s.vOpen
    s.vectorDone
    if a.val = 29 then
      .ok (s.modMe (fun t => { t.defer 2 0 s.me.pc with seq := [.op ⟨.kmovGFromK a b, s.me.pc, 0⟩] }))
    else do
      s.ports [] [a]
      s.writeG a (s.kOf b))

/-- VLOOP (09 R182, 22 R403): g[B] is read when it issues; q5 and q1 are refused. -/
def execVloop (n : Nat) (b : GReg) (s : State) : Outcome :=
  s.finish (do
    s.vOpen
    if b.val = 29 then illegalOperand 0
    s.ports [b] []
    let (w, s1) := s.readG b
    .ok (s1.modMe (fun t => { t with collect := some ⟨n, w.toNat, []⟩ })))

/-- Bytes of a lane type code; 0 for codes 8 and up. -/
def laneBytes (n : Nat) : Nat :=
  match n with
  | 0 => 4 | 1 => 2 | 2 => 2 | 3 => 4 | 4 => 2 | 5 => 1 | 6 => 8 | 7 => 8 | _ => 0

/-- FMT of a stream's base: none, or the format of LANE (09 R179). -/
def streamFmtOk (f lane : Nat) : Bool :=
  f == 0 || (lane == 0 && f == 2) || (lane == 1 && f == 3) || (lane == 2 && f == 4) || (lane == 3 && f == 5) ||
  (lane == 4 && f == 6) || (lane == 5 && f == 7) || (lane == 6 && f == 1)

/-- The descriptor breaks 09 R179. -/
def streamBad (d : Rec) : Bool :=
  let p := recWord d 0
  let w := laneBytes (recField d 32 1)
  !fatOk p || w == 0 || !streamFmtOk (fatFmt p) (recField d 32 1) || recField d 33 1 > 1 ||
  (List.range 3).any (fun i => recField d (8 + 4 * i) 4 == 0 || recField d (20 + 4 * i) 4 % w != 0) ||
  fatVa p % w != 0 || recField d 34 30 != 0

/-- The last marker before this point leaves the stream enabled; replay entries come before the handler's own. -/
def Slot.willBeEnabled (t : Slot) (n : Fin 4) : Bool :=
  (t.replay ++ t.seq).foldl
    (fun e i =>
      match i with
      | .mark m b => if m = n then b else e
      | .op _ => e
      | .loop _ _ _ => e)
    (vget t.streams n.val Stream.reset).en

/-- A marker of the stream has not been reached. -/
def Slot.marks (t : Slot) (n : Fin 4) : Bool :=
  t.seq.any (fun i =>
    match i with
    | .mark m _ => m == n
    | .op _ => false
    | .loop _ _ _ => false)

/-- Elements pushed to the stream of the slot of the step are not all performed (08 R158). -/
def State.pushesOut (s : State) (n : Fin 4) : Bool :=
  let mine (r : Remote) : Bool := r.core == s.cur.core && r.slot == s.cur.slot.val && r.stream == some n.val
  s.me.buffer.any (fun p => !p.done && p.stream == some n.val) || s.remotes.any mine ||
  s.latches.any (fun x =>
    match x.2 with
    | .remote r => mine r
    | .unit _ => false
    | .host _ _ _ => false)

/-- SCFG (21 R368). A stream counts as enabled from its SEN on: SCFG waits for the stream's own markers before it. -/
def execScfg (n : Fin 4) (b : GReg) (s : State) : Outcome :=
  s.finish (do
    s.ports [b] []
    holdIf (s.me.marks n)
    let (p, s1) := s.readG b
    illegalIf (s.me.willBeEnabled n) 0
    let a ← selfBlock p 64
    s.afterVectorAt a 64
    let bs ← s.selfBytes a 64
    illegalIf (streamBad (recOf bs)) 0
    .ok (s1.modMe (fun t => t.setStream n.val ⟨recOf bs, true, false, false, 0, []⟩)))

/-- The marker of SEN passed to the sequencer, at its place in program order: behind the replay entries that RETX will
dispatch, where there are any. -/
def State.passMark (s : State) (n : Fin 4) (enable : Bool) : State :=
  s.modMe (fun t =>
    if t.replay.isEmpty then { t with seq := t.seq ++ [.mark n enable] }
    else { t with replay := t.replay ++ [.mark n enable] })

/-- SEN s, 1 (21 R368). -/
def execSenEnable (n : Fin 4) (s : State) : Outcome :=
  s.finish (do
    illegalIf (s.me.willBeEnabled n || !(vget s.me.streams n.val Stream.reset).configured) 0
    .ok (s.passMark n true))

/-- SEN s, 0 (21 R368): it waits until every earlier vector instruction has executed, those of the replay queue too, and
every element pushed to the stream is performed (08 R158). -/
def execSenDisable (n : Fin 4) (s : State) : Outcome :=
  s.finish (do
    s.vectorDone
    holdIf (!s.me.replay.isEmpty || s.pushesOut n)
    .ok (s.passMark n false))

end Sys2Proof.Machine
end

