-- ==== Sys2Proof/Machine/Dispatch.lean ====
section
/-! DEFINITION. One arm for each row of the opcode table. -/

namespace Sys2Proof.Machine

def exec (i : Instr) (s : State) : Host.Outcome State Fault Refusal :=
  match i with
  | .ill a b => Sys2Proof.Machine.execIll a b s
  | .mov a b y => Sys2Proof.Machine.execMov a b y s
  | .li a e => Sys2Proof.Machine.execLi a e s
  | .add a b c y => Sys2Proof.Machine.execAdd a b c y s
  | .sub a b c y => Sys2Proof.Machine.execSub a b c y s
  | .and a b c y => Sys2Proof.Machine.execAnd a b c y s
  | .or a b c y => Sys2Proof.Machine.execOr a b c y s
  | .xor a b c y => Sys2Proof.Machine.execXor a b c y s
  | .shl a b c y => Sys2Proof.Machine.execShl a b c y s
  | .shr a b c y => Sys2Proof.Machine.execShr a b c y s
  | .sra a b c y => Sys2Proof.Machine.execSra a b c y s
  | .addi a e y => Sys2Proof.Machine.execAddi a e y s
  | .mul a b c y => Sys2Proof.Machine.execMul a b c y s
  | .mulh a b c y => Sys2Proof.Machine.execMulh a b c y s
  | .div a b c y => Sys2Proof.Machine.execDiv a b c y s
  | .rem a b c y => Sys2Proof.Machine.execRem a b c y s
  | .slt a b c y => Sys2Proof.Machine.execSlt a b c y s
  | .clz a b y => Sys2Proof.Machine.execClz a b y s
  | .popc a b y => Sys2Proof.Machine.execPopc a b y s
  | .clmul a b c y => Sys2Proof.Machine.execClmul a b c y s
  | .clmulh a b c y => Sys2Proof.Machine.execClmulh a b c y s
  | .padd a b e => Sys2Proof.Machine.execPadd a b e s
  | .pset a b => Sys2Proof.Machine.execPset a b s
  | .pget a b => Sys2Proof.Machine.execPget a b s
  | .ld a b x e y sc o => Sys2Proof.Machine.execLd a b x e y sc o s
  | .st a b x e y sc o => Sys2Proof.Machine.execSt a b x e y sc o s
  | .bz a e => Sys2Proof.Machine.execBz a e s
  | .bnz a e => Sys2Proof.Machine.execBnz a e s
  | .bltz a e => Sys2Proof.Machine.execBltz a e s
  | .bgez a e => Sys2Proof.Machine.execBgez a e s
  | .j e => Sys2Proof.Machine.execJ e s
  | .jal e => Sys2Proof.Machine.execJal e s
  | .jr a b => Sys2Proof.Machine.execJr a b s
  | .pause e => Sys2Proof.Machine.execPause e s
  | .pauseEnd c k => Sys2Proof.Machine.execPauseEnd c k s
  | .fence sc o => Sys2Proof.Machine.execFence sc o s
  | .ifence => Sys2Proof.Machine.execIfence s
  | .csrr a n => Sys2Proof.Machine.execCsrr a n s
  | .csrw a n => Sys2Proof.Machine.execCsrw a n s
  | .sync d => Sys2Proof.Machine.execSync d s
  | .arrive d => Sys2Proof.Machine.execArrive d s
  | .waitb d => Sys2Proof.Machine.execWaitb d s
  | .trap e => Sys2Proof.Machine.execTrap e s
  | .min a b c y => Sys2Proof.Machine.execMin a b c y s
  | .max a b c y => Sys2Proof.Machine.execMax a b c y s
  | .epush n b => Sys2Proof.Machine.execEpush n b s
  | .qpush a b => Sys2Proof.Machine.execQpush a b s
  | .clkr a => Sys2Proof.Machine.execClkr a s
  | .bfx a b pos len => Sys2Proof.Machine.execBfx a b pos len s
  | .bfi a b pos len => Sys2Proof.Machine.execBfi a b pos len s
  | .aadd a b c y sc o => Sys2Proof.Machine.execAadd a b c y sc o s
  | .aand a b c y sc o => Sys2Proof.Machine.execAand a b c y sc o s
  | .aor a b c y sc o => Sys2Proof.Machine.execAor a b c y sc o s
  | .axor a b c y sc o => Sys2Proof.Machine.execAxor a b c y sc o s
  | .amin a b c y sc o => Sys2Proof.Machine.execAmin a b c y sc o s
  | .amax a b c y sc o => Sys2Proof.Machine.execAmax a b c y sc o s
  | .aswp a b c y sc o => Sys2Proof.Machine.execAswp a b c y sc o s
  | .acas a b c y sc o => Sys2Proof.Machine.execAcas a b c y sc o s
  | .upd a b y sc o => Sys2Proof.Machine.execUpd a b y sc o s
  | .updcfg a b => Sys2Proof.Machine.execUpdcfg a b s
  | .scfg n b => Sys2Proof.Machine.execScfg n b s
  | .senEnable n => Sys2Proof.Machine.execSenEnable n s
  | .senDisable n => Sys2Proof.Machine.execSenDisable n s
  | .pref h b e => Sys2Proof.Machine.execPref h b e s
  | .vld v b e x t => Sys2Proof.Machine.execVld v b e x t s
  | .vst v b e x t => Sys2Proof.Machine.execVst v b e x t s
  | .vldc v b e x t => Sys2Proof.Machine.execVldc v b e x t s
  | .vstc v b e x t => Sys2Proof.Machine.execVstc v b e x t s
  | .vadd a b c t => Sys2Proof.Machine.execVadd a b c t s
  | .vsub a b c t => Sys2Proof.Machine.execVsub a b c t s
  | .vmul a b c t => Sys2Proof.Machine.execVmul a b c t s
  | .vfma a b c x t => Sys2Proof.Machine.execVfma a b c x t s
  | .vmin a b c t => Sys2Proof.Machine.execVmin a b c t s
  | .vmax a b c t => Sys2Proof.Machine.execVmax a b c t s
  | .vabs a b x t => Sys2Proof.Machine.execVabs a b x t s
  | .vneg a b x t => Sys2Proof.Machine.execVneg a b x t s
  | .vexp a b x t => Sys2Proof.Machine.execVexp a b x t s
  | .vln a b x t => Sys2Proof.Machine.execVln a b x t s
  | .vrcp a b x t => Sys2Proof.Machine.execVrcp a b x t s
  | .vrsq a b x t => Sys2Proof.Machine.execVrsq a b x t s
  | .vclt a b c x t => Sys2Proof.Machine.execVclt a b c x t s
  | .vcle a b c x t => Sys2Proof.Machine.execVcle a b c x t s
  | .vceq a b c x t => Sys2Proof.Machine.execVceq a b c x t s
  | .vsel a b c x t => Sys2Proof.Machine.execVsel a b c x t s
  | .vbcast a b t => Sys2Proof.Machine.execVbcast a b t s
  | .vmovg a b n t => Sys2Proof.Machine.execVmovg a b n t s
  | .vmovv a b n t => Sys2Proof.Machine.execVmovv a b n t s
  | .vgath a b c x t => Sys2Proof.Machine.execVgath a b c x t s
  | .vscat a b c x t => Sys2Proof.Machine.execVscat a b c x t s
  | .vpack a b x t => Sys2Proof.Machine.execVpack a b x t s
  | .vcmpk a b x t => Sys2Proof.Machine.execVcmpk a b x t s
  | .vrsum b x t => Sys2Proof.Machine.execVrsum b x t s
  | .vrmax b x t => Sys2Proof.Machine.execVrmax b x t s
  | .vargmx b x t => Sys2Proof.Machine.execVargmx b x t s
  | .vcvt a b ts x t => Sys2Proof.Machine.execVcvt a b ts x t s
  | .vhad a b blk seed x t => Sys2Proof.Machine.execVhad a b blk seed x t s
  | .vihad a b blk seed x t => Sys2Proof.Machine.execVihad a b blk seed x t s
  | .vloop n b => Sys2Proof.Machine.execVloop n b s
  | .vand a b c t => Sys2Proof.Machine.execVand a b c t s
  | .vor a b c t => Sys2Proof.Machine.execVor a b c t s
  | .vxor a b c t => Sys2Proof.Machine.execVxor a b c t s
  | .vshl a b c t => Sys2Proof.Machine.execVshl a b c t s
  | .vshr a b c t => Sys2Proof.Machine.execVshr a b c t s
  | .kand a b c => Sys2Proof.Machine.execKand a b c s
  | .kor a b c => Sys2Proof.Machine.execKor a b c s
  | .knot a b => Sys2Proof.Machine.execKnot a b s
  | .kmovKFromG a b => Sys2Proof.Machine.execKmovKFromG a b s
  | .kmovGFromK a b => Sys2Proof.Machine.execKmovGFromK a b s
  | .kmovKFromK a b => Sys2Proof.Machine.execKmovKFromK a b s
  | .tzero t => Sys2Proof.Machine.execTzero t s
  | .tload t b e => Sys2Proof.Machine.execTload t b e s
  | .tsave t b e => Sys2Proof.Machine.execTsave t b e s
  | .tstat a t => Sys2Proof.Machine.execTstat a t s
  | .twait t => Sys2Proof.Machine.execTwait t s
  | .tdrop t => Sys2Proof.Machine.execTdrop t s
  | .asscfg a b => Sys2Proof.Machine.execAsscfg a b s
  | .assay a b => Sys2Proof.Machine.execAssay a b s
  | .draw a b => Sys2Proof.Machine.execDraw a b s
  | .carrive a b => Sys2Proof.Machine.execCarrive a b s
  | .cwait a b => Sys2Proof.Machine.execCwait a b s
  | .cpost a b => Sys2Proof.Machine.execCpost a b s
  | .gmask v b => Sys2Proof.Machine.execGmask v b s
  | .gstep a b => Sys2Proof.Machine.execGstep a b s
  | .mpop a b => Sys2Proof.Machine.execMpop a b s
  | .mstat a b => Sys2Proof.Machine.execMstat a b s
  | .crew a b => Sys2Proof.Machine.execCrew a b s
  | .crewForm c k => Sys2Proof.Machine.execCrewForm c k s
  | .split => Sys2Proof.Machine.execSplit s
  | .retx => Sys2Proof.Machine.execRetx s
  | .ctxs a b => Sys2Proof.Machine.execCtxs a b s
  | .ctxl a b => Sys2Proof.Machine.execCtxl a b s
  | .tlbi a b => Sys2Proof.Machine.execTlbi a b s
  | .protw a b => Sys2Proof.Machine.execProtw a b s
  | .halt => Sys2Proof.Machine.execHalt s
  | .eventLineSet c k => Sys2Proof.Machine.execEventLineSet c k s
  | .eventLineWait c k => Sys2Proof.Machine.execEventLineWait c k s
  | .eventLineClear c k => Sys2Proof.Machine.execEventLineClear c k s
  | .eventLineTest c k => Sys2Proof.Machine.execEventLineTest c k s
  | .mutexTake c k => Sys2Proof.Machine.execMutexTake c k s
  | .mutexFree c k => Sys2Proof.Machine.execMutexFree c k s
  | .clusterBarrierCount c k => Sys2Proof.Machine.execClusterBarrierCount c k s
  | .clusterBarrierArrive c k => Sys2Proof.Machine.execClusterBarrierArrive c k s
  | .clusterPowerUp cl => Sys2Proof.Machine.execClusterPowerUp cl s
  | .arrivalSweep c d => Sys2Proof.Machine.execArrivalSweep c d s
  | .domainRelease c d => Sys2Proof.Machine.execDomainRelease c d s
  | .exchangeWrite c d n => Sys2Proof.Machine.execExchangeWrite c d n s
  | .exchangeDrained c d => Sys2Proof.Machine.execExchangeDrained c d s
  | .exchangeMessageArrival n => Sys2Proof.Machine.execExchangeMessageArrival n s
  | .remoteAccess n => Sys2Proof.Machine.execRemoteAccess n s
  | .pageFaultService n p => Sys2Proof.Machine.execPageFaultService n p s
  | .deferredTrap c k => Sys2Proof.Machine.execDeferredTrap c k s
  | .mma c => Sys2Proof.Machine.execMma c s
  | .mmas c => Sys2Proof.Machine.execMmas c s
  | .mmad c => Sys2Proof.Machine.execMmad c s
  | .mmai c => Sys2Proof.Machine.execMmai c s
  | .matrixCompletion c => Sys2Proof.Machine.execMatrixCompletion c s
  | .copy n => Sys2Proof.Machine.execCopy n s
  | .copyh n => Sys2Proof.Machine.execCopyh n s
  | .copyCompletion c => Sys2Proof.Machine.execCopyCompletion c s
  | .hemTileArrival n => Sys2Proof.Machine.execHemTileArrival n s
  | .lexe cl => Sys2Proof.Machine.execLexe cl s
  | .lexd cl => Sys2Proof.Machine.execLexd cl s
  | .lexiconCompletion c => Sys2Proof.Machine.execLexiconCompletion c s
  | .gatherArrival n => Sys2Proof.Machine.execGatherArrival n s
  | .gatherDeadline id x b => Sys2Proof.Machine.execGatherDeadline id x b s
  | .memberFailed id x m => Sys2Proof.Machine.execMemberFailed id x m s
  | .drawEnd id x b => Sys2Proof.Machine.execDrawEnd id x b s
  | .batchSwap id x => Sys2Proof.Machine.execBatchSwap id x s
  | .timerRelease n => Sys2Proof.Machine.execTimerRelease n s
  | .timerQueueAppend n => Sys2Proof.Machine.execTimerQueueAppend n s
  | .mediaTick id h => Sys2Proof.Machine.execMediaTick id h s
  | .mediaTickElement id h => Sys2Proof.Machine.execMediaTickElement id h s
  | .mediaRecord id r => Sys2Proof.Machine.execMediaRecord id r s
  | .timeLock tai => Sys2Proof.Machine.execTimeLock tai s
  | .timeFollow => Sys2Proof.Machine.execTimeFollow s
  | .timeHoldover => Sys2Proof.Machine.execTimeHoldover s
  | .commandDoorbell p => Sys2Proof.Machine.execCommandDoorbell p s
  | .queueDoorbell q w => Sys2Proof.Machine.execQueueDoorbell q w s
  | .claim p => Sys2Proof.Machine.execClaim p s
  | .unclaim p => Sys2Proof.Machine.execUnclaim p s
  | .qcreate p => Sys2Proof.Machine.execQcreate p s
  | .qreset p => Sys2Proof.Machine.execQreset p s
  | .qdestroy p => Sys2Proof.Machine.execQdestroy p s
  | .seed p => Sys2Proof.Machine.execSeed p s
  | .vocab p => Sys2Proof.Machine.execVocab p s
  | .media p => Sys2Proof.Machine.execMedia p s
  | .map p => Sys2Proof.Machine.execMap p s
  | .attest p => Sys2Proof.Machine.execAttest p s
  | .placementRound id => Sys2Proof.Machine.execPlacementRound id s
  | .entryRelease l g => Sys2Proof.Machine.execEntryRelease l g s
  | .launchEnd l => Sys2Proof.Machine.execLaunchEnd l s
  | .barrier q => Sys2Proof.Machine.execBarrier q s
  | .barrierComplete q n => Sys2Proof.Machine.execBarrierComplete q n s
  | .copyPacket q => Sys2Proof.Machine.execCopyPacket q s
  | .timerArmAbsolute q => Sys2Proof.Machine.execTimerArmAbsolute q s
  | .timerArmPeriodic q => Sys2Proof.Machine.execTimerArmPeriodic q s
  | .timerDisarm q => Sys2Proof.Machine.execTimerDisarm q s
  | .signalStore q => Sys2Proof.Machine.execSignalStore q s
  | .signalAdd q => Sys2Proof.Machine.execSignalAdd q s
  | .signalDecrement q => Sys2Proof.Machine.execSignalDecrement q s
  | .committeeStart q => Sys2Proof.Machine.execCommitteeStart q s
  | .committeeSequence q => Sys2Proof.Machine.execCommitteeSequence q s
  | .committeeStop q => Sys2Proof.Machine.execCommitteeStop q s
  | .nop q => Sys2Proof.Machine.execNop q s
  | .quantumEnd l => Sys2Proof.Machine.execQuantumEnd l s
  | .preemptRequest l => Sys2Proof.Machine.execPreemptRequest l s
  | .forcedPreempt l => Sys2Proof.Machine.execForcedPreempt l s
  | .powerGood wide absent valid => Sys2Proof.Machine.execPowerGood wide absent valid s
  | .functionReady f => Sys2Proof.Machine.execFunctionReady f s
  | .linkFailure p => Sys2Proof.Machine.execLinkFailure p s
  | .throttleBubble n => Sys2Proof.Machine.execThrottleBubble n s
  | .powerCapWrite w => Sys2Proof.Machine.execPowerCapWrite w s
  | .deviceStatusRead => Sys2Proof.Machine.execDeviceStatusRead s
  | .illegalInstruction n detail => Sys2Proof.Machine.execIllegalInstruction n detail s
  | .fetchFault => Sys2Proof.Machine.execFetchFault s
  | .lockRegained => Sys2Proof.Machine.execLockRegained s
  | .powerGate cl => Sys2Proof.Machine.execPowerGate cl s
  | .hostStore p n w => Sys2Proof.Machine.execHostStore p n w s
  | .peerAccess p n op w w2 => Sys2Proof.Machine.execPeerAccess p n op w w2 s

end Sys2Proof.Machine
end

