-- ==== Sys2Proof/Machine/Early.lean ====
section
/-! DEFINITION. Words that a slot has read ahead of their loads (08 R153): which later loads depend on earlier ones (08
R154), and what an acquire of the slot forgets (08 R155, R156, R160, R161, R204, R214). -/

namespace Sys2Proof.Machine

/-! ### What an instruction does with registers (08 R154) -/

/-- The registers, by the bits of `Early.taint`, that decide an address or a branch of an instruction, those that its result
is made from, those it writes, and that its result is a loaded value. -/
structure Flow where
  address : Word
  data : Word
  writes : Word
  loads : Bool
  deriving DecidableEq, Repr

/-- The bits of g registers: g0 holds no value, and a flow through a queue port does not count (08 R154). -/
def gBits (l : List GReg) : Word :=
  l.foldl (fun m r => if r.val = 0 ∨ 24 ≤ r.val then m else m ||| word (2 ^ r.val)) 0
/-- The bit of a vector register. -/
def vBit (v : VReg) : Word := word (2 ^ (24 + v.val))
/-- The bit of a mask register. -/
def kBit (k : KReg) : Word := word (2 ^ (56 + k.val))
/-- The bit of the register that masks an instruction; field 0 masks nothing. -/
def maskBit (x : KReg) : Word := if x = 0 then 0 else kBit x

/-- A vector result in `a` made from the registers `srcs`; a mask keeps lanes of the old one. -/
def laneFlow (a : VReg) (srcs : Word) (x : KReg) (loads : Bool) : Flow :=
  ⟨0, srcs ||| maskBit x ||| (if x = 0 then 0 else vBit a), vBit a, loads⟩
/-- A form V2 result: from B and C, or from A and B. -/
def thirdFlow (a b : VReg) (c : Option Third) : Flow :=
  match c with
  | some t => laneFlow a (vBit b ||| vBit t.reg) t.mask false
  | none => ⟨0, vBit a ||| vBit b, vBit a, false⟩
/-- A scalar result in `a` made from the registers `srcs`. -/
def scalarFlow (a : GReg) (srcs : Word) : Flow := ⟨0, srcs, gBits [a], false⟩

/-- The flow of an instruction. -/
def flow (i : Instr) : Flow :=
  let srcs := gBits (sources i)
  let load (a : GReg) (adr : List GReg) (d : Word) : Flow := ⟨gBits adr, d, gBits [a], true⟩
  match i with
  | .ld a b x _ _ _ _ => load a (b :: indexField x) 0
  | .aadd a b c _ _ _ => load a [b] (gBits [c.getD a])
  | .aand a b c _ _ _ => load a [b] (gBits [c.getD a])
  | .aor a b c _ _ _ => load a [b] (gBits [c.getD a])
  | .axor a b c _ _ _ => load a [b] (gBits [c.getD a])
  | .amin a b c _ _ _ => load a [b] (gBits [c.getD a])
  | .amax a b c _ _ _ => load a [b] (gBits [c.getD a])
  | .aswp a b c _ _ _ => load a [b] (gBits [c.getD a])
  | .acas a b c _ _ _ => load a [b] (gBits [a, c])
  | .upd _ b _ _ _ => ⟨gBits [b], srcs, 0, false⟩
  | .gstep a b => load a [a, b] 0
  | .mpop a b => load a [b] 0
  | .bz a _ => ⟨gBits [a], 0, 0, false⟩
  | .bnz a _ => ⟨gBits [a], 0, 0, false⟩
  | .bltz a _ => ⟨gBits [a], 0, 0, false⟩
  | .bgez a _ => ⟨gBits [a], 0, 0, false⟩
  | .jr a b => ⟨gBits [b], 0, gBits [a], false⟩
  | .jal _ => ⟨0, 0, gBits [23], false⟩
  | .epush _ b => ⟨gBits [b], 0, 0, false⟩
  | .qpush a b => ⟨gBits [b], gBits [a], 0, false⟩
  | .updcfg a b => ⟨gBits [b], 0, gBits [a], false⟩
  | .protw _ b => ⟨gBits [b], 0, 0, false⟩
  | .scfg _ b => ⟨gBits [b], 0, 0, false⟩
  | .asscfg a b => ⟨gBits [b], 0, gBits [a], false⟩
  | .assay a b => ⟨gBits [a, b], 0, 0, false⟩
  | .tload _ b _ => ⟨gBits [b], 0, 0, false⟩
  | .mov a _ _ => scalarFlow a srcs
  | .li a _ => scalarFlow a 0
  | .clkr a => scalarFlow a 0
  | .csrr a _ => scalarFlow a 0
  | .tstat a _ => scalarFlow a 0
  | .mstat a _ => scalarFlow a srcs
  | .cwait a _ => scalarFlow a 0
  | .crew a _ => scalarFlow a 0
  | .clz a _ _ => scalarFlow a srcs
  | .popc a _ _ => scalarFlow a srcs
  | .pget a _ => scalarFlow a srcs
  | .padd a _ _ => scalarFlow a srcs
  | .bfx a _ _ _ => scalarFlow a srcs
  | .pset a b => scalarFlow a (gBits [a, b])
  | .bfi a b _ _ => scalarFlow a (gBits [a, b])
  | .addi a _ _ => scalarFlow a (gBits [a])
  | .add a _ _ _ => scalarFlow a srcs
  | .sub a _ _ _ => scalarFlow a srcs
  | .and a _ _ _ => scalarFlow a srcs
  | .or a _ _ _ => scalarFlow a srcs
  | .xor a _ _ _ => scalarFlow a srcs
  | .shl a _ _ _ => scalarFlow a srcs
  | .shr a _ _ _ => scalarFlow a srcs
  | .sra a _ _ _ => scalarFlow a srcs
  | .mul a _ _ _ => scalarFlow a srcs
  | .mulh a _ _ _ => scalarFlow a srcs
  | .div a _ _ _ => scalarFlow a srcs
  | .rem a _ _ _ => scalarFlow a srcs
  | .slt a _ _ _ => scalarFlow a srcs
  | .min a _ _ _ => scalarFlow a srcs
  | .max a _ _ _ => scalarFlow a srcs
  | .clmul a _ _ _ => scalarFlow a srcs
  | .clmulh a _ _ _ => scalarFlow a srcs
  | .vld a b _ x _ => { laneFlow a 0 x true with address := gBits [b] ||| maskBit x }
  | .vldc a b _ x _ => { laneFlow a (vBit a) x true with address := gBits [b] ||| maskBit x }
  | .vgath a b c x _ => { laneFlow a 0 x true with address := gBits [b] ||| vBit c ||| maskBit x }
  | .gmask v b => ⟨gBits [b], vBit v, vBit v, true⟩
  | .vadd a b c _ => thirdFlow a b c
  | .vsub a b c _ => thirdFlow a b c
  | .vmul a b c _ => thirdFlow a b c
  | .vmin a b c _ => thirdFlow a b c
  | .vmax a b c _ => thirdFlow a b c
  | .vand a b c _ => thirdFlow a b c
  | .vor a b c _ => thirdFlow a b c
  | .vxor a b c _ => thirdFlow a b c
  | .vshl a b c _ => thirdFlow a b c
  | .vshr a b c _ => thirdFlow a b c
  | .vfma a b c x _ => laneFlow a (vBit a ||| vBit b ||| vBit c) x false
  | .vsel a b c x _ => ⟨0, vBit b ||| vBit c ||| kBit x, vBit a, false⟩
  | .vabs a b x _ => laneFlow a (vBit b) x false
  | .vneg a b x _ => laneFlow a (vBit b) x false
  | .vexp a b x _ => laneFlow a (vBit b) x false
  | .vln a b x _ => laneFlow a (vBit b) x false
  | .vrcp a b x _ => laneFlow a (vBit b) x false
  | .vrsq a b x _ => laneFlow a (vBit b) x false
  | .vcvt a b _ x _ => laneFlow a (vBit a ||| vBit b) x false
  | .vhad a b _ _ x _ => laneFlow a (vBit b) x false
  | .vihad a b _ _ x _ => laneFlow a (vBit b) x false
  | .vpack a b x _ => laneFlow a (vBit a ||| vBit b) x false
  | .vcmpk a b x _ => laneFlow a (vBit a ||| vBit b) x false
  | .vclt a b c x _ => ⟨0, vBit b ||| vBit c ||| maskBit x ||| kBit a, kBit a, false⟩
  | .vcle a b c x _ => ⟨0, vBit b ||| vBit c ||| maskBit x ||| kBit a, kBit a, false⟩
  | .vceq a b c x _ => ⟨0, vBit b ||| vBit c ||| maskBit x ||| kBit a, kBit a, false⟩
  | .vbcast a _ _ => ⟨0, srcs, vBit a, false⟩
  | .vmovv a _ _ _ => ⟨0, srcs ||| vBit a, vBit a, false⟩
  | .vmovg a b _ _ => scalarFlow a (vBit b)
  | .kand a b c => ⟨0, kBit b ||| kBit (c.getD a), kBit a, false⟩
  | .kor a b c => ⟨0, kBit b ||| kBit (c.getD a), kBit a, false⟩
  | .knot a b => ⟨0, kBit b, kBit a, false⟩
  | .kmovKFromG a _ => ⟨0, srcs, kBit a, false⟩
  | .kmovGFromK a b => scalarFlow a (kBit b)
  | .kmovKFromK a b => ⟨0, kBit b, kBit a, false⟩
  | _ => ⟨0, 0, 0, false⟩

/-- The bits of the vector registers that a stream is, or will be, bound to: what is read there is loaded then, and what is
written there is stored. -/
def Slot.streamBits (t : Slot) : Word :=
  ([0, 1, 2, 3] : List (Fin 4)).foldl
    (fun m n => if t.willBeEnabled n then m ||| word (2 ^ (24 + n.val)) else m) 0

/-- After an instruction: what the later load of a word must not depend on; `bound` holds the registers of streams. -/
def Early.after (x : Early) (bound : Word) (f : Flow) : Early :=
  if f.loads || f.data &&& bound != 0 || x.taint &&& f.data != 0 then { x with taint := x.taint ||| f.writes }
  else { x with taint := x.taint &&& ~~~(f.writes &&& ~~~bound) }

/-- The instructions that the sequencer of a slot has not executed. -/
def Slot.seqInstrs (t : Slot) : List Instr :=
  t.seq.flatMap (fun i =>
    match i with
    | .op e => [e.instr]
    | .loop b _ _ => b.map (·.instr)
    | .mark _ _ => []) ++
  ((t.collect.map (fun x => x.body.map (·.instr))).getD [])

/-- The slot of the step reads a word ahead (08 R153): none that an own write not yet performed will give it, and none in
a deterministic launch, whose loads return the values at the start of the phase (08 R165). The vector loads that it has
issued and not executed come before it in program order. -/
def State.readAheadAt (s : State) (a : Nat) : State :=
  let w := wordAddr a
  if s.me.run != .running || s.isDet s.cur.core || s.poisonedIn w 8 || s.me.bufferMeets w 8 ||
      s.ownRemote s.cur.core s.cur.slot.val w 8 || s.narrowHeld w 8 then s
  else
    s.modMe (fun t =>
      { t with
        early := t.seqInstrs.foldl (fun x i => x.after t.streamBits (flow i)) ⟨w, s.readN w 8, 0, find? w s.recent, [], []⟩ ::
          t.early.filter (fun x => x.addr != w) })

/-! ### Acquires -/

/-- What an instruction acquires by itself, whatever it pops. -/
inductive Acquire where
  | nothing
  | scoped (sc : Scope)
  | all
  deriving DecidableEq, Repr

/-- An access or a fence of an order. -/
def Acquire.of (sc : Scope) (o : Order) : Acquire := if isAcq o then .scoped sc else .nothing

/-- The address that a load of the slot of the step is about to access, where it is in the map. -/
def State.loadAddr (s : State) (b : GReg) (x : Option Index) (e : Int) : Option Nat :=
  let (p, s1) := s.readG b
  (ea p e (s1.readIndex x).1 (shiftOf x)).toOption

/-- The acquire of an instruction of the slot of the step: an order, a barrier, or an event-unit load (02 R23). -/
def State.acquire (s : State) (i : Instr) : Acquire :=
  match i with
  | .ld _ b x e _ sc o =>
    if (s.loadAddr b x e).any (fun a => rowAt a == .unit) then .all else Acquire.of sc o
  | .aadd _ _ _ _ sc o => Acquire.of sc o
  | .aand _ _ _ _ sc o => Acquire.of sc o
  | .aor _ _ _ _ sc o => Acquire.of sc o
  | .axor _ _ _ _ sc o => Acquire.of sc o
  | .amin _ _ _ _ sc o => Acquire.of sc o
  | .amax _ _ _ _ sc o => Acquire.of sc o
  | .aswp _ _ _ _ sc o => Acquire.of sc o
  | .acas _ _ _ _ sc o => Acquire.of sc o
  | .fence sc o => Acquire.of sc o
  | .sync _ => .all
  | .waitb _ => .all
  | _ => .nothing

/-- The elements of a port that an instruction pops. -/
def State.popsOfPort (s : State) (i : Instr) (p : Nat) : List Word :=
  let n := popsOf p (sources i)
  (s.inPort p).take (match i with
    | .cwait _ _ => if p = 7 then n + 1 else n
    | _ => n)

/-- A word lies in the window of a media stream of the core's claim. -/
def State.windowHas (s : State) (h w : Nat) : Bool :=
  match s.media? (s.claimId s.cur.core) h with
  | some m => spansMeet w 8 (s.mediaPlace m 0 0) (4 * m.slots * (m.depth + 1))
  | none => false

/-- The instruction acquires the whole of what another slot has released: it pops a message (08 R161), or an element of
q7 other than a draw element, which acquires nothing (10 R204). -/
def State.popsAll (s : State) (i : Instr) : Bool :=
  !(s.popsOfPort i 0).isEmpty || (s.popsOfPort i 7).any (fun w => bits w 62 2 != 2)

/-- The instruction acquires the latest write of a word read ahead: with an element of q3, the results of its command (08
R160); with a media-tick element or MPOP, the intervals sealed (11 R214, R216). -/
def State.acquiresWord (s : State) (i : Instr) (x : Early) : Bool :=
  (s.popsOfPort i 3).any (fun w => x.stale.contains w) ||
  (s.popsOfPort i 4).any (fun w => bits w 62 2 == 2 && s.windowHas (bits w 56 6) x.addr) ||
  match i with
  | .mpop _ b => s.windowHas (s.peekG b).toNat x.addr
  | _ => false

/-- A slot that keeps some of its words read ahead; with none left, what its loads have returned is forgotten. -/
def Slot.keepEarly (t : Slot) (p : Early → Bool) : Slot :=
  let l := t.early.filter p
  { t with early := l, saw := if l.isEmpty then [] else t.saw }

/-- Before an instruction: the words read ahead that it may not go past are forgotten. -/
def State.dropEarly (s : State) (i : Instr) : State :=
  if s.me.early.isEmpty then s
  else
    let f := flow i
    let all :=
      s.popsAll i || f.address &&& s.me.streamBits != 0 ||
      match s.acquire i with
      | .all => true
      | .scoped sc => !narrowScope sc
      | .nothing => false
    s.modMe (fun t => t.keepEarly (fun x => !all && x.taint &&& f.address == 0 && !s.acquiresWord i x))

/-- The slot of the step has taken its trap, or its launch has ended. -/
def State.trapped (s t : State) : Bool := (t.me.inh && !s.me.inh) || t.me.run != s.me.run

/-- None of the loads that an acquire of a narrow scope orders has returned the value of a slot within it (08 R155): the
words read ahead stay. -/
def State.outOfScope (s : State) (sc : Scope) (l : List (Option Nat)) : Bool :=
  l.all (fun w => w.all (fun p => decide (p < numCores) && !scopeReaches sc s.cur.core p))

/-- The loads whose values an acquire of the slot rests on, of those since the oldest word read ahead: its own, or for a
FENCE the earlier ones. -/
def Slot.sawBy (t : Slot) (i : Instr) : List (Option Nat) :=
  match i with
  | .fence _ _ => t.saw
  | _ => if t.seqTouches then t.saw else t.saw.take 1

/-- The slot of the step after an instruction that has issued, from state `s`, with its words read ahead. -/
def State.taintEarly (t s : State) (i : Instr) : State :=
  if t.me.early.isEmpty || t.me.held || s.trapped t then t
  else
    let keep :=
      match s.acquire i with
      | .scoped sc => t.outOfScope sc (t.me.sawBy i)
      | .all => true
      | .nothing => true
    t.modMe (fun y =>
      { y.keepEarly (fun _ => keep) with
        early := if keep then y.early.map (fun x => x.after y.streamBits (flow i)) else [] })

end Sys2Proof.Machine
end

