-- ==== Sys2Proof/Machine/Turns.lean ====
section
/-! DEFINITION. What one turn does: a slot's turn with its fetch, decode and issue (02 R18-R21, R26, R27), a cycle of a
core (02 R19), and the turns of other agents. -/

namespace Sys2Proof.Machine

/-! ### The instruction a slot issues next -/

/-- The instruction at the slot's pc, with npc after it; the row that takes the fault where there is none, or where the
instruction may not stand in the VLOOP body being dispatched (09 R182). -/
def State.nextInstr (s : State) : Instr × State :=
  let r := s.fetchNext
  match decode r.1 with
  | .ok i n =>
    if r.2.me.collect.isSome && !bodyOk i then (.illegalInstruction (n - 1) 0, r.2)
    else (i, r.2.modMe (fun t => { t with npc := t.pc + BitVec.ofNat 48 (2 * n) }))
  | .bad (.unfetched n) =>
    if (r.2.fetchStop r.1).faults r.1 then (.fetchFault, r.2) else (.illegalInstruction n 2, r.2)
  | .bad e => (.illegalInstruction e.index e.detail, r.2)

/-- A word that the leader has issued goes to every follower (02 R26). -/
def State.passWord (s : State) (x : Crew) (w : CrewWord) : State :=
  x.members.foldl
    (fun t m => t.modSlot m.1 m.2 (fun y =>
      match y.crew with
      | some z =>
        if z.members == x.members && z.index != 0 && y.run == .running then
          { y with crew := some { z with due := z.due ++ [w] } }
        else y
      | none => y))
    s

/-- Some follower is so far behind that the leader issues no further word (02 R26). -/
def State.crewHeld (s : State) (x : Crew) : Bool :=
  x.pause != 0 ||
  x.members.any (fun m => (s.slotOf m.1 m.2).crew.any (fun z =>
    z.members == x.members && decide (z.delay < z.due.length)))

/-- The core has reached the end of its quantum and holds (12 R239). -/
def State.quantumHeld (s : State) (c : Nat) : Bool :=
  match s.residentOf c with
  | some l => l.det && decide ((l.quantum + 1) * l.quantumLen ≤ (s.coreOf c).retired.toNat)
  | none => false

/-- The slot may issue at all. -/
def State.mayIssue (s : State) : Bool :=
  s.me.run == .running && !s.myCore.stopped && !s.quantumHeld s.cur.core

/-- The instruction has issued and takes its result when it issues again: no trap comes between (13 R248). -/
def Wait.issued : Wait → Bool
  | .none => false
  | .request => true
  | .reply _ => true
  | .page _ => false
  | .crew _ => true
  | .formed _ => true
  | .clash => true

/-- The slot has the words of the instruction that it is executing, kept at a release of a barrier. -/
def Slot.holdsWords (t : Slot) : Bool := t.held && t.ahead.1 == t.pc && !t.ahead.2.isEmpty

/-- The instruction that the slot fetches and issues next; none while the first fetch after an IFENCE has to wait for the
slot's earlier stores of code (08 R157). -/
def State.fetchIssue (s : State) : Option (Instr × State) :=
  if !s.me.fencing || s.me.holdsWords then some s.nextInstr
  else if s.codeReady then some (s.modMe (fun t => { t with fencing := false })).nextInstr
  else none

/-- The slot of the step tries to issue: what it executes, and from which state (none: it is held). -/
def State.toIssue (s : State) : Option (Instr × State) :=
  let t := s.me
  if t.deferred.isSome && !t.wait.issued then some (.deferredTrap s.cur.core s.cur.slot, s)
  else if t.vmiss then none
  else
    match t.wait, t.crew with
    | .page _, _ => none
    | .formed _, _ => s.fetchIssue
    | _, some x =>
      if x.index = 0 then (if s.crewHeld x then none else s.fetchIssue)
      else
        match x.due with
        | w :: _ => some (w.instr, s.modMe (fun t => { t with pc := w.pc, npc := w.npc, forced := some w.target }))
        | [] => none
    | _, none => s.fetchIssue

/-- The slot of the step is held. -/
def State.hold (s : State) : State := s.modMe (fun t => { t with held := true })

/-! ### One issue attempt -/

/-- The slot has left its crew by SPLIT. -/
def isSplit : Instr → Bool
  | .split => true
  | _ => false

/-- The outcome with the leader's word passed on, once it has issued: a word that trapped has dissolved the crew. -/
def State.afterIssue (s : State) (i : Instr) (o : Outcome) : Outcome :=
  match o with
  | .next t0 =>
    let t := t0.taintEarly s i
    (match s.me.crew, s.me.wait with
     | _, .formed _ => .next t
     | some x, _ =>
       let u := t.slotOf s.cur.core s.cur.slot.val
       if x.index = 0 && !u.held && (u.crew.isSome || isSplit i) then
         .next (t.passWord x ⟨i, s.me.pc, s.me.npc, u.pc⟩)
       else .next t
     | none, _ => .next t)
  | .fault f => .fault f
  | .refused r => .refused r

/-- One issue attempt of the slot of the step. -/
def State.attempt (s : State) : Outcome :=
  if s.mayIssue then
    match s.toIssue with
    | some (i, t) =>
      let u := t.dropEarly i
      u.afterIssue i (exec i u)
    | none => .next s.hold
  else .next s

/-! ### A cycle of a core -/

/-- The attempt issues a PAUSE. -/
def State.paused (s : State) : Bool :=
  match s.toIssue with
  | some (.pause e, _) => s.mayIssue && decide (0 ≤ e) && decide (e ≤ 65535)
  | _ => false

/-- The slot of the step is ready: its attempt issues (02 R18). -/
def State.readyNow (s : State) : Bool :=
  s.mayIssue &&
  match s.catchUp.attempt with
  | .next t => !t.me.held || t.me.wait != s.me.wait
  | .fault _ => true
  | .refused _ => true

/-- The state with another slot as the one of the step. -/
def State.turnTo (s : State) (c : Nat) (k : Fin 4) : State := { s with cur := ⟨c, k⟩ }

/-- The slots after the last one issued, in cyclic order. -/
def cyclic (last : Fin 4) : List (Fin 4) := [last + 1, last + 2, last + 3, last]

/-- The slots of a list that are ready. -/
def State.readyOf (s : State) (c : Nat) (ks : List (Fin 4)) : List (Fin 4) := ks.filter (fun k => (s.turnTo c k).readyNow)

/-- The slot of the step has issued: a release of DOM0 is over for the committees it is the assay root of (10 R205). -/
def State.endIssue (s : State) : State := if s.me.held then s else s.closeWindow s.cur.core

/-- Rank of a ready slot (02 R19), the level counted within ranks 3 and 4: smaller goes first. -/
def Slot.rank (t : Slot) : Nat :=
  if t.waited ≥ 12 && t.prem == 0 then 0
  else if t.crew.isSome then 1
  else if t.prem = 0 then 9 - t.level.toNat
  else 17 - t.level.toNat

/-- The slot of smallest rank, the first among equals. -/
def State.best (s : State) (c : Nat) : List (Fin 4) → Option (Fin 4)
  | [] => none
  | k :: ks =>
    match s.best c ks with
    | none => some k
    | some j => if (s.slotOf c k.val).rank ≤ (s.slotOf c j.val).rank then some k else some j

/-- Slot `j` would issue before slot `k` if both were ready. -/
def State.outranks (s : State) (c : Nat) (j k : Fin 4) : Bool :=
  s.best c ((cyclic (s.coreOf c).last).filter (fun i => i == j || i == k)) == some j

/-- The slots that are ready in a cycle in which slot `k` issues: those that come after it. Of the others the next
instruction is not yet fetched, or depends on one under way, which the model does not time (02 R18, log 128). -/
def State.readyBehind (s : State) (c : Nat) (k : Fin 4) : List (Fin 4) :=
  s.readyOf c (([0, 1, 2, 3] : List (Fin 4)).filter (fun j => j != k && !s.outranks c j k))

/-- A cycle of the core in which the slot of the step has the issue, no slot that outranks it being ready; where it is held
no slot of the core is ready. Its sequencer runs before and after, and elements of q7 that it popped leave the pending
counts (10 R195). -/
def State.slotTurn (s : State) : Outcome :=
  let s0 := s.catchUp
  match s0.attempt with
  | .next t =>
    .next (((({ t with cur := s.cur } : State).endIssue.catchUp).afterPops s.cur.core).modCore s.cur.core
      (fun x => x.endCycle s.cur.slot.val s0.paused
        (if t.me.held then [] else s.readyBehind s.cur.core s.cur.slot)))
  | .fault f => .fault f
  | .refused r => .refused r

/-- A cycle of a core (02 R19): the first ready slot by rank issues; with none, every slot stays held while
its sequencer goes on. -/
def State.cycleTurn (s : State) (c : Nat) : Outcome :=
  match s.best c (s.readyOf c (cyclic (s.coreOf c).last)) with
  | some k => (s.turnTo c k).slotTurn
  | none =>
    .next (([0, 1, 2, 3] : List (Fin 4)).foldl
      (fun t k =>
        match (t.turnTo c k).catchUp.attempt with
        | .next u => u
        | .fault _ => t
        | .refused _ => t)
      s |>.modCore c (fun x => x.endCycle 4 false []))

/-! ### Turns of other agents -/

/-- A row that only a slot's own turn brings about. -/
def slotOnly (i : Instr) : Bool :=
  i.isChain ||
  match i with
  | .illegalInstruction _ _ => true
  | .fetchFault => true
  | .deferredTrap _ _ => true
  | _ => false

/-- The core that a turn names is one of the device. -/
def turnCoreOk : Turn → Bool
  | .slot c _ => c < numCores
  | .cycle c => c < numCores
  | .event _ => true
  | .seq c _ => c < numCores
  | .lag c _ _ => c < numCores
  | .buffer c _ _ => c < numCores
  | .elapse _ => true
  | .evict c _ => c < numCores
  | .count _ _ => true
  | .poison _ => true
  | .sense _ _ => true
  | .defer c _ _ => c < numCores
  | .perform c _ _ => c < numCores
  | .readAhead c _ _ => c < numCores
  | .streamAhead c _ _ _ => c < numCores
  | .matrixAhead c _ _ => c < numCores
  | .engineAhead _ _ => true
  | .slowWrites _ => true
  | .engineWrite _ _ => true
  | .finishFirst _ => true
  | .boardRead _ => true
  | .module _ _ => true
  | .spanBarrier _ _ _ _ => true
  | .linkMessage _ _ _ => true

/-- An operation of the slot of the step done for another slot. -/
def State.forSlot (s : State) (c : Nat) (k : Fin 4) (f : State → State) : State :=
  { f (s.turnTo c k) with cur := s.cur }

/-- A slot's stores wait in its buffer from now on, or no longer: those that may then be performed are. -/
def State.setDefer (s : State) (on : Bool) : State :=
  let t := s.modMe (fun y => { y with deferStores := on })
  if on then t else t.performDue t.me.buffer.length

/-- The command is one of a core of a deterministic launch, which serves it whole at a quantum end (12 R239). -/
def State.detCommand (s : State) (x : EngineCmd) : Bool :=
  match x.pusher with
  | .slot c _ => s.isDet c
  | .packet _ _ => false

/-- Something done to a copy or lexicon command that runs on its own. -/
def State.freeCommand (s : State) (n : Nat) (f : EngineCmd → EngineCmd) : State :=
  s.modCommand n (fun x => if s.detCommand x then x else f x)

/-- The slot of the step fetches ahead, unless an IFENCE has its next fetch wait (08 R157). -/
def State.fillAfter (s : State) (n : Nat) : State :=
  if !s.me.fencing then s.fillBuffer n
  else if s.codeReady then (s.modMe (fun t => { t with fencing := false })).fillBuffer n
  else s

/-- A word of SRAM, HBM or LPDDR can no longer be corrected: the memories that ECC covers (13 R250). -/
def State.poisonAt (s : State) (w : Nat) : State :=
  if hostBase ≤ w ∨ s.poisoned.contains w then s else { s with poisoned := w :: s.poisoned }

/-- One turn of a schedule. -/
def State.turn (s : State) (t : Turn) : Outcome :=
  if !turnCoreOk t then .fault .noSuchCore
  else
    match t with
    | .slot c k => (s.turnTo c k).slotTurn
    | .cycle c => s.cycleTurn c
    | .event i =>
      if !i.wellFormed then .refused .illFormed
      else if slotOnly i then .next s
      else exec i s
    | .seq c k => .next (s.seqTurn c k)
    | .lag c k n => .next (s.modSlot c k.val (fun t => { t with lag := min n 16 }))
    | .buffer c k n => .next (s.forSlot c k (fun t => t.fillAfter n))
    | .elapse n => .next (s.passTime n)
    | .evict c n => .next (s.modCore c (fun x => { x with tlb := dropAt x.tlb n }))
    | .count i n =>
      .next (if i / 4 < 3072 then
        { s with counters := insertKey i (lookupD 0 i s.counters + word n) s.counters } else s)
    | .poison a => .next (s.poisonAt (wordAddr a))
    | .sense i w => .next (s.senseAt i w)
    | .defer c k on => .next (s.forSlot c k (fun t => t.setDefer on))
    | .perform c k n => .next (s.forSlot c k (fun t => t.performAt n))
    | .readAhead c k a => .next (s.forSlot c k (fun t => t.readAheadAt a))
    | .streamAhead c k n j => .next (s.forSlot c k (fun t => t.streamAheadAt n j))
    | .matrixAhead c a next => .next (if s.isDet c then s else s.matrixAheadAt c a next)
    | .engineAhead n a => .next (s.freeCommand n (fun x => x.readEarly s a))
    | .slowWrites n => .next (s.freeCommand n (fun x => if x.done.isSome then x else { x with slow := true }))
    | .engineWrite n i => .next (s.engineWriteAt n i)
    | .finishFirst n => .next (s.finishFirst n)
    | .boardRead o => .next (s.boardReadAt o)
    | .module n fails => .next (s.moduleAt n.val fails)
    | .spanBarrier id d p on => .next (s.spanAt id d.val p.val on)
    | .linkMessage id d p => .next (s.linkAt id d.val p.val)

end Sys2Proof.Machine
end

