-- ==== Sys2Proof/Machine/Step.lean ====
section
/-! DEFINITION. The step: the next turn of the schedule, or, when none is listed, a turn of the current slot (log 1). -/

namespace Sys2Proof.Machine

/-- One step of the machine. -/
def step (s : State) : Host.Outcome State Fault Refusal :=
  match s.schedule with
  | [] => s.turn (.slot s.cur.core s.cur.slot)
  | t :: ts => { s with schedule := ts }.turn t

/-- A word of the table stored where the next step fetches, on a core that runs a launch. -/
def State.withFetchWord (s : State) (nbits w : Nat) : State := 
  s.placeWords ((tableWords nbits w).flatMap bytesOfHalf)

end Sys2Proof.Machine
end

