-- ==== Sys2Proof/Certificates/Slice0/Obligations.lean ====
section
/-! DEFINITION. The statements for the provers, and the words they are said in: what a value is under a type, what an
instruction of a slot does to the state when it completes, and what a frame leaves. -/

open Sys2Proof Sys2Proof.Machine

namespace Sys2Proof.Claims

/-! ### Values under a scalar type (03 R60, 20 R289) -/

/-- The low width bits of a word, as a number. -/
def patternOf (y : ScalarType) (x : Word) : Nat := x.toNat % 2 ^ y.width

/-- A pattern of width bits read as a signed integer. -/
def signedPattern (y : ScalarType) (x : Word) : Int :=
  if 2 ^ y.width ≤ 2 * patternOf y x then (patternOf y x : Int) - 2 ^ y.width else (patternOf y x : Int)

/-- The integer that the low width bits stand for under the type's signedness. -/
def valueOf (y : ScalarType) (x : Word) : Int := if y.signed then signedPattern y x else (patternOf y x : Int)

/-- A pattern extended to 64 bits by the type's signedness. -/
def extend (y : ScalarType) (n : Nat) : Word :=
  if y.signed && decide (2 ^ y.width ≤ 2 * n) then BitVec.ofInt 64 ((n : Int) - 2 ^ y.width) else BitVec.ofNat 64 n

/-- An exact integer result, cut to the width and extended. -/
def resultOf (y : ScalarType) (v : Int) : Word := extend y (v % (2 ^ y.width : Nat)).toNat

/-- Carry-less product of two numbers below 2^64 (20 R307). -/
def carryless (x z : Nat) : Nat :=
  (List.range 64).foldl (fun acc i => if z.testBit i then acc ^^^ (x <<< i) else acc) 0

/-- Zeros above the highest one bit of the pattern; the width where there is none (20 R308). -/
def leadingZeros (y : ScalarType) (x : Word) : Nat :=
  if patternOf y x = 0 then y.width else y.width - 1 - Nat.log2 (patternOf y x)

/-- One bits of the pattern (21 R360). -/
def onesOf (y : ScalarType) (x : Word) : Nat := ((List.range y.width).filter (fun i => (patternOf y x).testBit i)).length

/-! ### Words -/

/-- A prefix word of a kind (IMM 0, OPB 1, PAGE 2, QUAL 3) with a payload (03 R45). -/
def pre (kind payload : Nat) : Half := BitVec.ofNat 16 (0xFC00 + 256 * kind + payload % 256)

/-- A base word of an op and two fields (03 R46). -/
def base (op : Nat) (a b : Fin 32) : Half := BitVec.ofNat 16 (1024 * op + 32 * a.val + b.val)

/-- The scalar types in the order of their codes (03 R60). -/
def scalarTypes : List ScalarType := [.d, .w, .h, .b, .dz, .wz, .hz, .bz]

/-! ### What completing does -/

/-- A destination field written: g0 discards, a register takes the value, a write port takes one more element. -/
def put (s : State) (a : GReg) (v : Word) : State :=
  if a.val = 0 then s
  else if a.val < 24 then s.modMe (fun t => { t with g := vset t.g a.val v })
  else s.modMyCore (fun x => x.setPort (a.val - 24) (x.port (a.val - 24) ++ [v]))

/-- The instructions of form AL and their functions of two sources, in exact integers (20 R294, R295, R297, R307, R320,
21 R343, R355, R356, R365, R369, R370, R374, 22 R408). -/
def alTable : List ((GReg → GReg → Option GReg → ScalarType → Instr) × (ScalarType → Word → Word → Word)) :=
  [ (.add, fun y x z => resultOf y (valueOf y x + valueOf y z)),
    (.sub, fun y x z => resultOf y (valueOf y x - valueOf y z)),
    (.and, fun y x z => extend y (patternOf y x &&& patternOf y z)),
    (.or, fun y x z => extend y (patternOf y x ||| patternOf y z)),
    (.xor, fun y x z => extend y (patternOf y x ^^^ patternOf y z)),
    (.shl, fun y x z => resultOf y (patternOf y x * 2 ^ (patternOf y z % y.width) : Nat)),
    (.shr, fun y x z => extend y (patternOf y x / 2 ^ (patternOf y z % y.width))),
    (.sra, fun y x z => resultOf y (signedPattern y x / (2 ^ (patternOf y z % y.width) : Nat))),
    (.mul, fun y x z => resultOf y (valueOf y x * valueOf y z)),
    (.mulh, fun y x z => resultOf y (valueOf y x * valueOf y z / (2 ^ y.width : Nat))),
    (.div, fun y x z => resultOf y (if valueOf y z = 0 then -1 else (valueOf y x).tdiv (valueOf y z))),
    (.rem, fun y x z => resultOf y (if valueOf y z = 0 then valueOf y x else (valueOf y x).tmod (valueOf y z))),
    (.slt, fun y x z => if valueOf y x < valueOf y z then 1 else 0),
    (.clmul, fun y x z => extend y (carryless (patternOf y x) (patternOf y z) % 2 ^ y.width)),
    (.clmulh, fun y x z => extend y (carryless (patternOf y x) (patternOf y z) / 2 ^ y.width % 2 ^ y.width)),
    (.min, fun y x z => resultOf y (if valueOf y z < valueOf y x then valueOf y z else valueOf y x)),
    (.max, fun y x z => resultOf y (if valueOf y x < valueOf y z then valueOf y z else valueOf y x)) ]

/-- The instructions that make one result from field B alone (20 R302, R308, 21 R353, R360, 07 R136). -/
def unTable : List ((GReg → GReg → Instr) × (Word → Word)) :=
  ([.d, .w, .h, .b, .dz, .wz, .hz, .bz] : List ScalarType).flatMap (fun y =>
    [ ((fun a b => .mov a b y), fun x => extend y (patternOf y x)),
      ((fun a b => .clz a b y), fun x => BitVec.ofNat 64 (leadingZeros y x)),
      ((fun a b => .popc a b y), fun x => BitVec.ofNat 64 (onesOf y x)) ]) ++
  [ (.pget, fun x => BitVec.ofNat 64 (x.toNat / 2 ^ 48)) ]

end Sys2Proof.Claims

open Sys2Proof.Claims

/-- Each instruction of form AL completes and writes its function of the two sources, cut to the width and extended;
without OPB the sources are A and B, with OPB B and C, which pop in that order. A result for q1 has its own statement. -/
def Obligations.AluResults : Prop :=
  ∀ p ∈ alTable, ∀ (s : State) (a b : GReg) (y : ScalarType),
    (s.ports [b, a] [a] = .ok () →
      exec (p.1 a b none y) s = .next (put (s.readG b).2 a (p.2 y (s.peekG a) (s.readG b).1)).retire) ∧
    (∀ c : GReg, s.ports [b, c] [a] = .ok () → a.val ≠ 25 →
      exec (p.1 a b (some c) y) s =
        .next (put ((s.readG b).2.readG c).2 a (p.2 y (s.readG b).1 ((s.readG b).2.readG c).1)).retire)

/-- MOV, CLZ, POPC, PGET and BFX complete and write their function of field B. -/
def StatementParts.UnaryResults : Prop :=
  (∀ p ∈ unTable, ∀ (s : State) (a b : GReg), s.ports [b] [a] = .ok () → a.val ≠ 25 →
    exec (p.1 a b) s = .next (put (s.readG b).2 a (p.2 (s.readG b).1)).retire) ∧
  (∀ (s : State) (a b : GReg) (pos len : Nat), s.ports [b] [a] = .ok () → a.val ≠ 25 → fieldOk pos len = true →
    exec (.bfx a b pos len) s =
      .next (put (s.readG b).2 a (BitVec.ofNat 64 ((s.readG b).1.toNat / 2 ^ pos % 2 ^ len))).retire)

namespace Sys2Proof.Claims

/-- The trap that the slot of the step takes at this instruction (13 R245). What the instruction had popped when it first
issued, before it waited, stands in its ports again (03 R56). -/
def trapped (s : State) (code detail : Nat) (value : Word) : State :=
  s.giveBack.takeTrap s.cur.core s.cur.slot.val false ⟨code, detail, value⟩

/-- The slot of the step is held: nothing else changes (02 R18). -/
def heldState (s : State) : State := s.modMe (fun t => { t with held := true })

/-- From `s` to `t` the slot of the step has retired one instruction that writes no register but `a`: no byte of memory,
no other core, no other slot, no mask, vector, control, trap, stream or crew-descriptor field and no core register
changes; the ports may have popped or taken an element. -/
def onlyG (s t : State) (a : GReg) : Prop :=
  (∀ adr, readCell t.mem adr = readCell s.mem adr) ∧
  t = { s with cores := t.cores } ∧
  (∀ d, d ≠ s.cur.core → t.coreOf d = s.coreOf d) ∧
  t.myCore = { s.myCore with
    slots := t.myCore.slots, ports := t.myCore.ports, notes := t.myCore.notes, backlog := t.myCore.backlog,
    pops := t.myCore.pops, copyBuf := t.myCore.copyBuf, lexBuf := t.myCore.lexBuf,
    retired := s.myCore.retired + 1, last := s.cur.slot } ∧
  (∀ k : Fin 4, k ≠ s.cur.slot → t.slotOf s.cur.core k.val = s.slotOf s.cur.core k.val) ∧
  t.me = { s.me with
    g := t.me.g, pc := t.me.pc, npc := t.me.npc, wait := t.me.wait, held := false, waited := 0, taken := none,
    lent := [], mine := [], forced := none, crew := t.me.crew } ∧
  (∀ r : Fin 24, r.val ≠ a.val → vget t.me.g r.val 0 = vget s.me.g r.val 0)

/-- The effective sum of PADD (07 R136). -/
def paddSum (p v : Word) (e : Int) : Int := (p.toNat % 2 ^ 48 : Nat) + v.toInt + e

/-- The high 16 bits that PSET accepts: RSV 0, an assigned FMT, BLK at most 5 and nothing above bit 15 (07 R134-R136). -/
def tagOk (v : Word) : Bool :=
  decide (v.toNat < 2 ^ 16) && v.toNat % 8 == 0 && fmtOk (v.toNat / 2 ^ 10) && decide (v.toNat / 2 ^ 7 % 8 ≤ 5)

/-- The device time that CLKR reads on a core (11 R207). -/
def clockOf (s : State) : Nat :=
  match s.residentOf s.cur.core with
  | some l => if l.det then (l.phaseOf (s.groupOf s.cur.core)).openTime else s.time
  | none => s.time

/-- The branches and their conditions (20 R303). -/
def branchTable : List ((GReg → Int → Instr) × (Word → Bool)) :=
  [ (.bz, fun v => decide (v.toNat = 0)), (.bnz, fun v => decide (v.toNat ≠ 0)),
    (.bltz, fun v => decide (v.toInt < 0)), (.bgez, fun v => decide (0 ≤ v.toInt)) ]

/-- An address of the 48-bit map. -/
def inMap (t : Int) : Prop := 0 ≤ t ∧ t < 2 ^ 48

/-- A release alone of a scope smaller than the claim's, outside a deterministic launch and with no vector access outstanding:
it does not wait for the slot's earlier writes (08 R155, R156). -/
def narrowPass (s : State) (sc : Scope) (o : Order) : Prop :=
  o = .rel ∧ (sc = .co ∨ sc = .cl) ∧ s.isDet s.cur.core = false ∧ s.me.seqTouches = false

/-- The slot of the step has ended: its streams are disabled, and what it left partial in q1 is discarded (02 R39,
R43). -/
def endedAt (t : State) (c k : Nat) : Prop :=
  (t.slotOf c k).run = .ended ∧ (∀ x ∈ (t.slotOf c k).streams.toList, x.en = false) ∧
  (∀ o, (t.coreOf c).owner = some o → o.slot ≠ k)

end Sys2Proof.Claims

/-- LI, ADDI, BFI, PADD, PSET and CLKR complete and write what their rules give; PADD outside the 48-bit map and PSET of a
bad tag trap. -/
def StatementParts.ImmediateResults : Prop :=
  ∀ (s : State) (a b : GReg),
    (∀ e : Int, s.ports [] [a] = .ok () → a.val ≠ 25 →
      exec (.li a e) s = .next (put s a (BitVec.ofInt 64 e)).retire) ∧
    (∀ (e : Int) (y : ScalarType), s.ports [a] [a] = .ok () →
      exec (.addi a e y) s = .next (put s a (resultOf y (valueOf y (s.peekG a) + e))).retire) ∧
    (∀ pos len : Nat, fieldOk pos len = true → s.ports [b, a] [a] = .ok () →
      exec (.bfi a b pos len) s =
        .next (put (s.readG b).2 a (BitVec.ofNat 64
          ((s.peekG a).toNat / 2 ^ (pos + len) * 2 ^ (pos + len) + (s.readG b).1.toNat % 2 ^ len * 2 ^ pos +
            (s.peekG a).toNat % 2 ^ pos))).retire) ∧
    (∀ e : Int, s.ports [b, a] [a] = .ok () → inMap (paddSum (s.peekG a) (s.readG b).1 e) →
      exec (.padd a b e) s =
        .next (put (s.readG b).2 a (BitVec.ofNat 64
          ((s.peekG a).toNat / 2 ^ 48 * 2 ^ 48 + (paddSum (s.peekG a) (s.readG b).1 e).toNat))).retire) ∧
    (∀ e : Int, s.ports [b, a] [a] = .ok () → ¬ inMap (paddSum (s.peekG a) (s.readG b).1 e) →
      exec (.padd a b e) s =
        .next (trapped s 0x03 0 (BitVec.ofInt 64 (paddSum (s.peekG a) (s.readG b).1 e)))) ∧
    (s.ports [b] [a] = .ok () → a.val ≠ 25 → tagOk (s.readG b).1 = true →
      exec (.pset a b) s = .next (put (s.readG b).2 a (BitVec.ofNat 64 ((s.readG b).1.toNat * 2 ^ 48))).retire) ∧
    (s.ports [b] [a] = .ok () → tagOk (s.readG b).1 = false → exec (.pset a b) s = .next (trapped s 0x02 0 0)) ∧
    (s.ports [] [a] = .ok () → a.val ≠ 25 →
      exec (.clkr a) s = .next (put s a (BitVec.ofNat 64 (clockOf s))).retire)

/-- MOV, CLZ, POPC, PGET, BFX, and LI, ADDI, BFI, PADD, PSET, CLKR: results, and the traps of PADD and PSET. -/
def Obligations.RegisterResults : Prop := StatementParts.UnaryResults ∧ StatementParts.ImmediateResults

/-- What writes one register field changes nothing else: forms AL, UN, BFX, PGET, LI, ADDI, BFI and CLKR. -/
def Obligations.RegisterFrames : Prop :=
  ∀ (s : State) (a b : GReg), a.val ≠ 25 →
    (∀ p ∈ alTable, ∀ (c : Option GReg) (y : ScalarType), s.ports [b, c.getD a] [a] = .ok () →
      ∃ t, exec (p.1 a b c y) s = .next t ∧ onlyG s t a ∧ t.me.pc = s.me.npc) ∧
    (∀ p ∈ unTable, s.ports [b] [a] = .ok () →
      ∃ t, exec (p.1 a b) s = .next t ∧ onlyG s t a ∧ t.me.pc = s.me.npc) ∧
    (∀ pos len : Nat, s.ports [b] [a] = .ok () →
      ∃ t, exec (.bfx a b pos len) s = .next t ∧ onlyG s t a ∧ t.me.pc = s.me.npc) ∧
    (∀ pos len : Nat, s.ports [b, a] [a] = .ok () →
      ∃ t, exec (.bfi a b pos len) s = .next t ∧ onlyG s t a ∧ t.me.pc = s.me.npc) ∧
    (∀ e : Int, s.ports [] [a] = .ok () →
      ∃ t, exec (.li a e) s = .next t ∧ onlyG s t a ∧ t.me.pc = s.me.npc) ∧
    (∀ (e : Int) (y : ScalarType), s.ports [a] [a] = .ok () →
      ∃ t, exec (.addi a e y) s = .next t ∧ onlyG s t a ∧ t.me.pc = s.me.npc) ∧
    (s.ports [] [a] = .ok () → ∃ t, exec (.clkr a) s = .next t ∧ onlyG s t a ∧ t.me.pc = s.me.npc)

/-- Register fields and queue ports: which fields trap, what holds the slot, and what MOV does with each kind of field. -/
def Obligations.PortFields : Prop :=
  ∀ (s : State) (a b : GReg),
    ((b.val ∈ [25, 29] ∨ a.val ∈ [24, 26, 27, 28, 30, 31]) →
      exec (.mov a b .d) s = .next (trapped s 0x02 0 0)) ∧
    (s.me.taken = none → a.val < 24 → b.val ∈ [24, 26, 27, 28, 30, 31] → s.myCore.port (b.val - 24) = [] →
      exec (.mov a b .d) s = .next (heldState s)) ∧
    (s.me.taken = none → a.val < 24 → b.val ∈ [24, 26, 27, 28, 30, 31] →
      ∀ w ws, s.myCore.port (b.val - 24) = w :: ws →
        ∃ t, exec (.mov a b .d) s = .next t ∧ onlyG s t a ∧ (a.val ≠ 0 → vget t.me.g a.val 0 = w) ∧
          (b.val ∈ [24, 26, 30] → t.myCore.port (b.val - 24) = ws)) ∧
    (a.val = 29 → b.val < 24 → portDepth 5 ≤ (s.myCore.port 5).length →
      exec (.mov a b .d) s = .next (heldState s)) ∧
    (a.val = 29 → b.val < 24 → (s.myCore.port 5).length < portDepth 5 →
      ∃ t, exec (.mov a b .d) s = .next t ∧ onlyG s t a ∧
        t.myCore.port 5 = s.myCore.port 5 ++ [if b.val = 0 then 0 else vget s.me.g b.val 0]) ∧
    (a.val = 0 → b.val < 24 → ∃ t, exec (.mov a b .d) s = .next t ∧ onlyG s t 0 ∧ t.me.g = s.me.g)

/-- The conditional branches: a taken one continues at `pc + 2 off`, or traps outside the 48-bit map; one not taken
continues after the instruction; one taken to the exit address ends the slot (02 R43), once its vector work is done: the
model's choice (log 17). -/
def StatementParts.BranchResults : Prop :=
  ∀ p ∈ branchTable, ∀ (s : State) (a : GReg) (off : Int),
    s.me.forced = none → s.ports [a] [] = .ok () →
    (p.2 (s.readG a).1 = false →
      ∃ t, exec (p.1 a off) s = .next t ∧ onlyG s t 0 ∧ t.me.pc = s.me.npc) ∧
    (p.2 (s.readG a).1 = true → inMap (s.me.pc.toNat + 2 * off) → s.me.pc.toNat + 2 * off ≠ 0x800000000000 →
      ∃ t, exec (p.1 a off) s = .next t ∧ onlyG s t 0 ∧ (t.me.pc.toNat : Int) = s.me.pc.toNat + 2 * off) ∧
    (p.2 (s.readG a).1 = true → ¬ inMap (s.me.pc.toNat + 2 * off) →
      exec (p.1 a off) s = .next (trapped s 0x03 0 (BitVec.ofInt 64 (s.me.pc.toNat + 2 * off)))) ∧
    (p.2 (s.readG a).1 = true → s.me.pc.toNat + 2 * off = 0x800000000000 →
      (s.me.seq = [] → ∃ t, exec (p.1 a off) s = .next t ∧ endedAt t s.cur.core s.cur.slot.val ∧ t.mem = s.mem) ∧
      (s.me.seq ≠ [] → exec (p.1 a off) s = .next (heldState s)))

/-- J, JAL and JR: where they continue and what they link; JR of an odd target or one with high bits set is an illegal
operand, and JR at user privilege past the exit address, in the firmware region, takes a protection trap of DETAIL 2; at
firmware privilege it goes there. -/
def StatementParts.JumpResults : Prop :=
  ∀ (s : State) (e : Int) (a b : GReg), s.me.forced = none →
    (inMap (s.me.pc.toNat + 2 * e) → s.me.pc.toNat + 2 * e ≠ 0x800000000000 →
      (∃ t, exec (.j e) s = .next t ∧ onlyG s t 0 ∧ (t.me.pc.toNat : Int) = s.me.pc.toNat + 2 * e) ∧
      (∃ t, exec (.jal e) s = .next t ∧ onlyG s t 23 ∧ (t.me.pc.toNat : Int) = s.me.pc.toNat + 2 * e ∧
        vget t.me.g 23 0 = s.me.npc.setWidth 64)) ∧
    (¬ inMap (s.me.pc.toNat + 2 * e) →
      exec (.j e) s = .next (trapped s 0x03 0 (BitVec.ofInt 64 (s.me.pc.toNat + 2 * e))) ∧
      exec (.jal e) s = .next (trapped s 0x03 0 (BitVec.ofInt 64 (s.me.pc.toNat + 2 * e)))) ∧
    (s.ports [b] [a] = .ok () → a.val ≠ 25 → (s.readG b).1.toNat % 2 = 0 → (s.readG b).1.toNat < 0x800000000000 →
      ∃ t, exec (.jr a b) s = .next t ∧ onlyG s t a ∧ t.me.pc.toNat = (s.readG b).1.toNat ∧
        (0 < a.val → a.val < 24 → vget t.me.g a.val 0 = s.me.npc.setWidth 64)) ∧
    (s.ports [b] [a] = .ok () → ((s.readG b).1.toNat % 2 = 1 ∨ 2 ^ 48 ≤ (s.readG b).1.toNat) →
      exec (.jr a b) s = .next (trapped s 0x02 0 (s.readG b).1)) ∧
    (s.ports [b] [a] = .ok () → (s.readG b).1.toNat % 2 = 0 → 0x800000000000 < (s.readG b).1.toNat →
      (s.readG b).1.toNat < 2 ^ 48 →
      (s.isFw s.cur.core = false → exec (.jr a b) s = .next (trapped s 0x04 2 (s.readG b).1)) ∧
      (s.isFw s.cur.core = true → a.val ≠ 25 →
        ∃ t, exec (.jr a b) s = .next t ∧ onlyG s t a ∧ t.me.pc.toNat = (s.readG b).1.toNat ∧
          (0 < a.val → a.val < 24 → vget t.me.g a.val 0 = s.me.npc.setWidth 64)))

/-- Branches and jumps: where they continue, what they link, and their traps. -/
def Obligations.ControlFlow : Prop := StatementParts.BranchResults ∧ StatementParts.JumpResults

/-- A slot ends: HALT, and J, JAL and JR to the exit address, which write their links. That they hold while the slot's vector work is outstanding is the
model's choice (log 17): 02 R43 says that HALT and the exit address end the slot, and not when. -/
def StatementParts.SlotEnds : Prop :=
  ∀ (s : State) (e : Int) (b : GReg), s.me.forced = none →
    (s.me.seq = [] →
      (∃ t, exec .halt s = .next t ∧ endedAt t s.cur.core s.cur.slot.val ∧ t.mem = s.mem) ∧
      (s.me.pc.toNat + 2 * e = 0x800000000000 →
        ∃ t, exec (.j e) s = .next t ∧ endedAt t s.cur.core s.cur.slot.val ∧ t.mem = s.mem) ∧
      (s.me.pc.toNat + 2 * e = 0x800000000000 →
        ∃ t, exec (.jal e) s = .next t ∧ endedAt t s.cur.core s.cur.slot.val ∧ t.mem = s.mem ∧
          vget t.me.g 23 0 = s.me.npc.setWidth 64) ∧
      (∀ a : GReg, a.val ≠ 25 → s.ports [b] [a] = .ok () → (s.readG b).1.toNat = 0x800000000000 →
        ∃ t, exec (.jr a b) s = .next t ∧ endedAt t s.cur.core s.cur.slot.val ∧ t.mem = s.mem ∧
          (0 < a.val → a.val < 24 → vget t.me.g a.val 0 = s.me.npc.setWidth 64))) ∧
    (s.me.seq ≠ [] →
      exec .halt s = .next (heldState s) ∧
      (s.me.pc.toNat + 2 * e = 0x800000000000 →
        exec (.j e) s = .next (heldState s) ∧ exec (.jal e) s = .next (heldState s)) ∧
      (∀ a : GReg, a.val ≠ 25 → s.ports [b] [a] = .ok () → (s.readG b).1.toNat = 0x800000000000 →
        exec (.jr a b) s = .next (heldState s)))

/-- PAUSE, PAUSE_END, FENCE, IFENCE, PREF and SPLIT. FENCE completes once the loads and writes that its order names are made
(log 2, the model's choice), and one that is a release alone, of a narrow scope, without them (log 125, the model's choice);
its word without a QUAL, with a relaxed order or a type, with OPB or with IMM is no FENCE. IFENCE discards the words fetched,
and the next fetch comes after the slot's earlier stores of code. PREF takes its pointer's traps. That PAUSE_END is a cycle of
its core in which nothing issues is the model's choice (log 129). -/
def StatementParts.QuietResults : Prop :=
  (∀ (s : State),
    (∀ e : Int, 0 ≤ e → e ≤ 65535 → s.me.crew = none →
      exec (.pause e) s = .next (s.modMe (fun t => { t with prem := BitVec.ofInt 16 e })).retire) ∧
    (∀ e : Int, (e < 0 ∨ 65535 < e) → exec (.pause e) s = .next (trapped s 0x02 0 0)) ∧
    (∀ (c : Nat) (k : Fin 4), (s.slotOf c k.val).prem = 1 →
      ∃ t, exec (.pauseEnd c k) s = .next t ∧ (t.slotOf c k.val).prem = 0 ∧ t = { s with cores := t.cores } ∧
        (∀ d, d ≠ c → t.coreOf d = s.coreOf d) ∧
        (t.coreOf c).cycles = (s.coreOf c).cycles + (if (s.coreOf c).resident.isSome then 1 else 0) ∧
        ∀ j : Fin 4, (t.slotOf c j.val).prem.toNat = (s.slotOf c j.val).prem.toNat - 1 ∧
          (t.slotOf c j.val).pc = (s.slotOf c j.val).pc ∧ (t.slotOf c j.val).g = (s.slotOf c j.val).g) ∧
    (∀ (e : Int) (x : Crew), 0 ≤ e → e ≤ 65535 → s.me.crew = some x →
      exec (.pause e) s = .next (s.modMe (fun t => { t with crew := some { x with pause := e.toNat } })).retire) ∧
    (∀ (sc : Scope) (o : Order),
      (((o = .acq ∨ o = .ar) → s.me.seqReads = false) →
        ((o = .rel ∨ o = .ar) → ¬ narrowPass s sc o ∧ s.releaseReady s.cur.core s.cur.slot.val = true) →
        exec (.fence sc o) s = .next s.retire) ∧
      (narrowPass s sc o →
        ∃ fs, exec (.fence sc o) s = .next (s.modMe (fun t => { t with fences := fs })).retire ∧
          ∀ f, f ∈ fs ↔ (f ∈ s.me.fences ∨ f = (sc, s.fresh)) ∧
            s.earlierOpen s.cur.core s.cur.slot.val f.2 = true) ∧
      ((o = .acq ∨ o = .ar) → s.me.seqReads = true → exec (.fence sc o) s = .next (heldState s)) ∧
      ((o = .rel ∨ o = .ar) → ¬ narrowPass s sc o → s.releaseReady s.cur.core s.cur.slot.val = false →
        exec (.fence sc o) s = .next (heldState s))) ∧
    exec .ifence s = .next (s.modMe (fun t => { t with ahead := (0, []), fencing := true })).retire ∧
    (∀ (h : Fin 2) (b : GReg) (e : Int), s.ports [b] [] = .ok () →
      (fatOk (s.readG b).1 = true → inMap (fatVa (s.readG b).1 + e) →
        exec (.pref h b e) s = .next (s.readG b).2.retire) ∧
      (fatOk (s.readG b).1 = true → ¬ inMap (fatVa (s.readG b).1 + e) →
        exec (.pref h b e) s = .next (trapped s 0x03 0 (BitVec.ofInt 64 (fatVa (s.readG b).1 + e)))) ∧
      (fatOk (s.readG b).1 = false → exec (.pref h b e) s = .next (trapped s 0x02 0 0))) ∧
    (exec .split s = .next (s.modMe (fun t => { t with crew := none, forced := none })).retire)) ∧
  (∀ (sc o : Nat) (ws : List Half), sc < 4 → o < 4 →
    (o ≠ 0 → decode (pre 3 (64 * sc + 16 * o) :: base 34 0 0 :: ws) =
      .ok (.fence ([Scope.co, .cl, .dv, .sy][sc]?.getD .co) ([Order.rlx, .acq, .rel, .ar][o]?.getD .rlx)) 2) ∧
    decode (pre 3 (64 * sc) :: base 34 0 0 :: ws) = .bad (.prefixWord 0) ∧
    (∀ y, 1 ≤ y → y < 16 → decode (pre 3 (64 * sc + 16 * o + y) :: base 34 0 0 :: ws) = .bad (.prefixWord 0)) ∧
    (∀ p, o ≠ 0 → decode (pre 3 (64 * sc + 16 * o) :: pre 1 p :: base 34 0 0 :: ws) = .bad (.prefixWord 1) ∧
      decode (pre 3 (64 * sc + 16 * o) :: pre 0 p :: base 34 0 0 :: ws) = .bad (.prefixWord 1)) ∧
    (∀ a b : Fin 32, o ≠ 0 → (a ≠ 0 ∨ b ≠ 0) →
      decode (pre 3 (64 * sc + 16 * o) :: base 34 a b :: ws) = .bad (.baseWord 1)) ∧
    decode (base 34 0 0 :: ws) = .bad (.baseWord 0))

/-- The end of a slot, and PAUSE, PAUSE_END, FENCE, IFENCE, PREF and SPLIT. When HALT ends a slot, what a FENCE waits for,
narrow release fences, and PAUSE_END as a cycle are the model's choice (logs 2, 17, 125 and 129). -/
def Obligations.SlotControl : Prop := StatementParts.SlotEnds ∧ StatementParts.QuietResults

namespace Sys2Proof.Claims

/-- `n` bytes of memory from an address on, as a little-endian number (00 R3). -/
def bytesAt (s : State) (a n : Nat) : Nat := ((List.range n).map (fun i => (readCell s.mem (a + i)).toNat * 256 ^ i)).sum

/-- Bytes of a scalar type. -/
def byteCount (y : ScalarType) : Nat := y.width / 8

/-- Nothing of the slot's own stands between it and memory: its stores are performed at once and none waits in its buffer,
no word has been read ahead, and no earlier vector access is outstanding (08 R150, R153, R158). -/
def noPending (s : State) : Prop :=
  s.me.buffer = [] ∧ s.me.early = [] ∧ s.me.passed = [] ∧ s.me.deferStores = false ∧ s.me.seqTouches = false

/-- What is read at these bytes of memory can be read now: no release of a narrow scope in them waits for the earlier writes
of its slot (08 R155), and their words can be corrected (13 R250). -/
def readable (s : State) (a n : Nat) : Prop := s.narrowHeld a n = false ∧ s.poisonedIn a n = false

/-- The slot may access these bytes of its own SRAM now: they lie in the self window, the core is a firmware core or one
region grants the access (07 R137), no earlier remote write of the slot to them is in flight, what is read can be read, and
nothing of the slot's own stands between. -/
def selfReady (s : State) (adr n : Nat) (reads writes : Bool) : Prop :=
  rowFor adr n = .self ∧
  (s.isFw s.cur.core || s.myCore.grants (localNeeds reads writes) adr n) = true ∧
  s.ownRemote s.cur.core s.cur.slot.val (sram s.cur.core adr) n = false ∧
  (reads = true → readable s (sram s.cur.core adr) n) ∧ noPending s

/-- Slice `d` of the claim window holds the address, outside a deterministic launch, and no earlier write of the slot to
these bytes is in flight (07 R139, 08 R150). -/
def sliceReady (s : State) (adr n d : Nat) : Prop :=
  rowFor adr n = .claim ∧ s.sliceCore s.cur.core adr = some d ∧ s.isDet s.cur.core = false ∧
  s.ownRemote s.cur.core s.cur.slot.val (sram d (sliceOff adr)) n = false ∧ noPending s

/-- The operands of form ME after B and the index are read. -/
def meState (s : State) (b : GReg) (x : Option Index) : State := ((s.readG b).2.readIndex x).2

/-- The effective address of form ME (20 R289). -/
def meAddr (s : State) (b : GReg) (x : Option Index) (e : Int) : Except Stop Nat :=
  ea (s.readG b).1 e ((s.readG b).2.readIndex x).1 (shiftOf x)

/-- An access of this scope and order may pass as the release it is (08 R153, R155). -/
def mayRelease (s : State) (sc : Scope) (o : Order) : Prop :=
  o = .rel ∨ o = .ar → narrowPass s sc o ∨ s.releaseReady s.cur.core s.cur.slot.val = true

/-- The scope with which a write in flight goes as a release that has not waited (08 R155). -/
def passScope (sc : Scope) (o : Order) : Option Scope := if o = .rel ∧ (sc = .co ∨ sc = .cl) then some sc else none

/-- The value of a reply: each byte from the slot's own writes where it holds one, else the reply's (08 R150). -/
def replyValue (own : List Host.Cell) (a n : Nat) (v : Word) : Nat :=
  ((List.range n).map (fun i =>
    (match own.find? (fun c => c.1 == a + i) with
     | some c => c.2.toNat
     | none => v.toNat / 256 ^ i % 256) * 256 ^ i)).sum

/-- The entry through which the slot of the step reaches an address of translated space, its tier's memory being reachable
(07 R144, R145, 14 R258). -/
def entryFor (s : State) (adr n : Nat) (en : Entry) : Prop :=
  rowFor adr n = .page ∧ (s.translate s.cur.core (s.claimId s.cur.core) adr).1 = some en ∧ entOk en = true ∧
  s.peerDown en = false

/-- The state in which the translation of an address is cached (07 R144). -/
def cached (s : State) (adr : Nat) : State := (s.translate s.cur.core (s.claimId s.cur.core) adr).2

/-- What an access through a page leaves: every register but `a`, every other slot and core, and every field of the machine
but cores, memory, the words that cannot be corrected and the channel counters (07 R149). -/
def pageFrame (s t : State) (a : GReg) : Prop :=
  t = { s with
    cores := t.cores, mem := t.mem, poisoned := t.poisoned, counters := t.counters, narrow := t.narrow,
    recent := t.recent } ∧
  (∀ c, c ≠ s.cur.core → t.coreOf c = s.coreOf c) ∧
  (∀ k : Fin 4, k ≠ s.cur.slot → t.slotOf s.cur.core k.val = s.slotOf s.cur.core k.val) ∧
  (∀ r : Fin 24, r.val ≠ a.val → vget t.me.g r.val 0 = vget s.me.g r.val 0) ∧
  t.me.v = s.me.v ∧ t.me.k = s.me.k ∧ t.me.pc = s.me.npc

/-- The atomics of form AT and what each leaves in the word, given the old value and the operand (20 R290). -/
def atomicTable :
    List ((GReg → GReg → Option GReg → ScalarType → Scope → Order → Instr) × (ScalarType → Word → Word → Nat)) :=
  [ (.aadd, fun y o v => (patternOf y o + patternOf y v) % 2 ^ y.width),
    (.aand, fun y o v => patternOf y o &&& patternOf y v),
    (.aor, fun y o v => patternOf y o ||| patternOf y v),
    (.axor, fun y o v => patternOf y o ^^^ patternOf y v),
    (.amin, fun y o v => if valueOf y o ≤ valueOf y v then patternOf y o else patternOf y v),
    (.amax, fun y o v => if valueOf y o ≤ valueOf y v then patternOf y v else patternOf y o),
    (.aswp, fun y _ v => patternOf y v) ]

/-- Every byte outside `n` bytes at `a` reads as before. -/
def sameOutside (s t : State) (a n : Nat) : Prop := ∀ i, i < a ∨ a + n ≤ i → readCell t.mem i = readCell s.mem i

/-- The words of a load, store, atomic or update on its way to another core (07 R140), a release of scope `sc` among them. -/
def requestOf (s u : State) (dst off : Nat) (r : Req) (back : ReplyTo) (sc : Option Scope) : Remote :=
  ⟨u.fresh, s.cur.core, s.cur.slot.val, dst, off, r, back, s.me.pc, 0, sc, none⟩

end Sys2Proof.Claims

/-- LD from the self window completes: the destination receives the little-endian value of the bytes, extended, and
nothing else changes. -/
def StatementParts.LoadSelf : Prop :=
  ∀ (s : State) (a b : GReg) (x : Option Index) (e : Int) (y : ScalarType) (sc : Scope) (o : Order) (adr : Nat),
    s.ports (meSources b x) [a] = .ok () → a.val ≠ 25 → meAddr s b x e = .ok adr → adr % byteCount y = 0 →
    selfReady s adr (byteCount y) true false →
    exec (.ld a b x e y sc o) s =
      .next (put (meState s b x) a (extend y (bytesAt s (sram s.cur.core adr) (byteCount y)))).retire ∧
    onlyG s (put (meState s b x) a (extend y (bytesAt s (sram s.cur.core adr) (byteCount y)))).retire a

/-- LD from another core's slice of the claim window, outside a deterministic launch: the first issue sends the request
and the slot waits; with the reply the instruction completes, bytes that the slot itself had still to write among them (log 2). -/
def StatementParts.LoadRemote : Prop :=
  ∀ (s : State) (a b : GReg) (x : Option Index) (e : Int) (y : ScalarType) (sc : Scope) (o : Order) (adr d : Nat),
    s.ports (meSources b x) [a] = .ok () → a.val ≠ 25 → meAddr s b x e = .ok adr → adr % byteCount y = 0 →
    sliceReady s adr (byteCount y) d →
    (s.me.wait = .none →
      ∃ t, exec (.ld a b x e y sc o) s = .next t ∧ t.me.wait = .request ∧ t.me.held = true ∧ t.me.pc = s.me.pc ∧
        t.mem = s.mem ∧ t.me.mine = [] ∧
        t.remotes = s.remotes ++ [requestOf s s d (sliceOff adr) (.load (byteCount y)) .pipe none]) ∧
    (∀ v : Word, s.me.wait = .reply v →
      ∃ t, exec (.ld a b x e y sc o) s = .next t ∧ onlyG s t a ∧ t.me.pc = s.me.npc ∧ t.me.wait = .none ∧
        (s.me.mine = [] → replyValue s.me.mine (sram d (sliceOff adr)) (byteCount y) v = patternOf y v) ∧
        (0 < a.val → a.val < 24 → vget t.me.g a.val 0 =
          extend y (replyValue s.me.mine (sram d (sliceOff adr)) (byteCount y) v)))

/-- A misaligned scalar access is an illegal operand whose TRAPVAL is the address; one to an unmapped row is a protection
trap, with DETAIL 0 for a load and 1 for a store. -/
def Obligations.AccessTraps : Prop :=
  ∀ (s : State) (a b : GReg) (x : Option Index) (e : Int) (y : ScalarType) (sc : Scope) (o : Order) (adr : Nat),
    meAddr s b x e = .ok adr →
    (s.ports (meSources b x) [a] = .ok () → adr % byteCount y ≠ 0 →
      exec (.ld a b x e y sc o) s = .next (trapped s 0x02 0 (BitVec.ofNat 64 adr))) ∧
    (s.ports (meSources b x ++ [a]) [] = .ok () → adr % byteCount y ≠ 0 →
      exec (.st a b x e y sc o) s = .next (trapped s 0x02 0 (BitVec.ofNat 64 adr))) ∧
    (s.ports (meSources b x) [a] = .ok () → adr % byteCount y = 0 → s.me.seqTouches = false →
      rowFor adr (byteCount y) = .unmapped →
      exec (.ld a b x e y sc o) s = .next (trapped s 0x04 0 (BitVec.ofNat 64 adr))) ∧
    (s.ports (meSources b x ++ [a]) [] = .ok () → adr % byteCount y = 0 → s.me.seqTouches = false → mayRelease s sc o →
      rowFor adr (byteCount y) = .unmapped →
      exec (.st a b x e y sc o) s = .next (trapped s 0x04 1 (BitVec.ofNat 64 adr)))

/-- ST to the self window completes: the bytes of the type at the effective address hold
the low bytes of A, every other byte reads as before, and no register changes. -/
def StatementParts.StoreSelf : Prop :=
  ∀ (s : State) (a b : GReg) (x : Option Index) (e : Int) (y : ScalarType) (sc : Scope) (o : Order) (adr : Nat),
    Memory.wf s.mem = true →
    s.ports (meSources b x ++ [a]) [] = .ok () → meAddr s b x e = .ok adr → adr % byteCount y = 0 →
    selfReady s adr (byteCount y) false true → mayRelease s sc o →
    ∃ t, exec (.st a b x e y sc o) s = .next t ∧
      bytesAt t (sram s.cur.core adr) (byteCount y) = patternOf y ((meState s b x).readG a).1 ∧
      sameOutside s t (sram s.cur.core adr) (byteCount y) ∧ t.me.g = s.me.g ∧ t.me.pc = s.me.npc ∧
      t = { s with
        cores := t.cores, mem := t.mem, poisoned := t.poisoned, launches := t.launches, narrow := t.narrow,
        recent := t.recent } ∧
      (s.isDet s.cur.core = false → t.launches = s.launches)

/-- A store to another core's slice outside a deterministic launch completes at once and leaves a request in flight. -/
def StatementParts.StoreRemote : Prop :=
  ∀ (s : State) (a b : GReg) (x : Option Index) (e : Int) (y : ScalarType) (sc : Scope) (o : Order) (adr d : Nat),
    s.ports (meSources b x ++ [a]) [] = .ok () → meAddr s b x e = .ok adr → adr % byteCount y = 0 →
    sliceReady s adr (byteCount y) d → mayRelease s sc o →
    ∃ t, exec (.st a b x e y sc o) s = .next t ∧ t.mem = s.mem ∧ t.me.g = s.me.g ∧ t.me.pc = s.me.npc ∧
      t.remotes = s.remotes ++
        [requestOf s s d (sliceOff adr) (.store (byteCount y) ((meState s b x).readG a).1) .nobody (passScope sc o)]

/-- Atomics, ACAS and UPD in another core's slice outside a deterministic launch: an atomic sends its request and the slot
waits; with the reply A receives the old value. UPD completes at once. The request acts on the word at the receiver (07 R142,
R143). Where the scope does not name the receiver's place, the instruction is an illegal operand. That a release alone of a narrow
scope does not wait is the model's choice (log 125). -/
def StatementParts.AtomicRemote : Prop :=
  ∀ (s : State) (a b : GReg) (y : ScalarType) (sc : Scope) (o : Order) (adr d : Nat),
    ea (s.readG b).1 0 0 0 = .ok adr → adr % byteCount y = 0 → sliceReady s adr (byteCount y) d → mayRelease s sc o →
    y.atomicOk = true →
    ((sc = .co → d = s.cur.core) → (sc = .cl → clusterOf d = clusterOf s.cur.core) →
      (∀ (n : Nat) (p : _) (c : Option GReg), atomicTable[n]? = some p → a.val ≠ 25 → s.ports [b, c.getD a] [a] = .ok () →
        (s.me.wait = .none →
          ∃ t, exec (p.1 a b c y sc o) s = .next t ∧ t.me.wait = .request ∧ t.me.held = true ∧ t.me.pc = s.me.pc ∧
            t.me.g = s.me.g ∧ t.mem = s.mem ∧
            t.remotes = s.remotes ++ [requestOf s s d (sliceOff adr)
              (.atomic n (byteCount y) (!y.signed) ((s.readG b).2.readG (c.getD a)).1 0) .pipe (passScope sc o)]) ∧
        (∀ v : Word, s.me.wait = .reply v →
          ∃ t, exec (p.1 a b c y sc o) s = .next t ∧ onlyG s t a ∧ t.me.pc = s.me.npc ∧
            (0 < a.val → a.val < 24 → vget t.me.g a.val 0 = extend y (patternOf y v)))) ∧
      (∀ c : GReg, a.val ≠ 25 → s.ports [b, c, a] [a] = .ok () →
        (s.me.wait = .none →
          ∃ t, exec (.acas a b c y sc o) s = .next t ∧ t.me.wait = .request ∧ t.me.held = true ∧ t.me.pc = s.me.pc ∧
            t.me.g = s.me.g ∧ t.mem = s.mem ∧
            t.remotes = s.remotes ++ [requestOf s s d (sliceOff adr)
              (.atomic 7 (byteCount y) (!y.signed) ((s.readG b).2.readG c).1 (s.peekG a)) .pipe (passScope sc o)]) ∧
        (∀ v : Word, s.me.wait = .reply v →
          ∃ t, exec (.acas a b c y sc o) s = .next t ∧ onlyG s t a ∧ t.me.pc = s.me.npc ∧
            (0 < a.val → a.val < 24 → vget t.me.g a.val 0 = extend y (patternOf y v)))) ∧
      (s.ports [b, a] [] = .ok () →
        ∃ t, exec (.upd a b y sc o) s = .next t ∧ t.me.g = s.me.g ∧ t.mem = s.mem ∧ t.me.pc = s.me.npc ∧
          t.remotes = s.remotes ++ [requestOf s s d (sliceOff adr)
            (.upd (byteCount y) ((s.readG b).2.readG a).1) .nobody (passScope sc o)])) ∧
    (((sc = .co ∧ d ≠ s.cur.core) ∨ (sc = .cl ∧ clusterOf d ≠ clusterOf s.cur.core)) →
      (∀ p ∈ atomicTable, ∀ c : Option GReg, s.ports [b, c.getD a] [a] = .ok () →
        exec (p.1 a b c y sc o) s = .next (trapped s 0x02 0 (BitVec.ofNat 64 adr))) ∧
      (∀ c : GReg, s.ports [b, c, a] [a] = .ok () →
        exec (.acas a b c y sc o) s = .next (trapped s 0x02 0 (BitVec.ofNat 64 adr))) ∧
      (s.ports [b, a] [] = .ok () → exec (.upd a b y sc o) s = .next (trapped s 0x02 0 (BitVec.ofNat 64 adr))))

/-- The atomics and ACAS on a word of the core's own SRAM complete: A receives the old value, the word holds the
operation's result (of ACAS, the new value where the old one is as expected), and every other byte reads as before. -/
def StatementParts.AtomicSelf : Prop :=
  ∀ (s : State) (a b : GReg) (y : ScalarType) (sc : Scope) (o : Order) (adr : Nat),
    Memory.wf s.mem = true → y.atomicOk = true → ea (s.readG b).1 0 0 0 = .ok adr → adr % byteCount y = 0 →
    selfReady s adr (byteCount y) true true → mayRelease s sc o → a.val ≠ 25 →
    (∀ p ∈ atomicTable, ∀ c : Option GReg, s.ports [b, c.getD a] [a] = .ok () →
      ∃ t, exec (p.1 a b c y sc o) s = .next t ∧
        bytesAt t (sram s.cur.core adr) (byteCount y) =
          p.2 y (BitVec.ofNat 64 (bytesAt s (sram s.cur.core adr) (byteCount y))) ((s.readG b).2.readG (c.getD a)).1 ∧
        sameOutside s t (sram s.cur.core adr) (byteCount y) ∧ t.me.pc = s.me.npc ∧
        (0 < a.val → a.val < 24 →
          vget t.me.g a.val 0 = extend y (bytesAt s (sram s.cur.core adr) (byteCount y))) ∧
        (∀ r : Fin 24, r.val ≠ a.val → vget t.me.g r.val 0 = vget s.me.g r.val 0)) ∧
    (∀ c : GReg, s.ports [b, c, a] [a] = .ok () →
      ∃ t, exec (.acas a b c y sc o) s = .next t ∧
        bytesAt t (sram s.cur.core adr) (byteCount y) =
          (if bytesAt s (sram s.cur.core adr) (byteCount y) = patternOf y (s.peekG a)
            then patternOf y ((s.readG b).2.readG c).1 else bytesAt s (sram s.cur.core adr) (byteCount y)) ∧
        sameOutside s t (sram s.cur.core adr) (byteCount y) ∧ t.me.pc = s.me.npc ∧
        (0 < a.val → a.val < 24 →
          vget t.me.g a.val 0 = extend y (bytesAt s (sram s.cur.core adr) (byteCount y))) ∧
        (∀ r : Fin 24, r.val ≠ a.val → vget t.me.g r.val 0 = vget s.me.g r.val 0))

/-- Atomics and ACAS on a word of the core's own SRAM, and atomics, ACAS and UPD in the claim window. That a release waits for
the slot's earlier writes, and that one of a narrow scope does not, is the model's choice (logs 2 and 125). -/
def Obligations.AtomicResults : Prop := StatementParts.AtomicSelf ∧ StatementParts.AtomicRemote

/-- Scalar accesses through a page of translated space: a load and a store reach the bytes at the entry's physical address,
an atomic or ACAS does where its scope names the place of the entry's tier (07 R142); no byte outside them changes. Without a
translation the slot reports the miss once and waits; a page without the permission traps, an entry with a reserved value is
a translation fault, and an atomic of a narrower scope is an illegal operand. -/
def StatementParts.PageAccesses : Prop :=
  ∀ (s : State) (a b : GReg) (x : Option Index) (e : Int) (y : ScalarType) (sc : Scope) (o : Order) (adr : Nat),
    noPending s → s.isDet s.cur.core = false → adr % byteCount y = 0 →
    (s.ports (meSources b x) [a] = .ok () → meAddr s b x e = .ok adr →
      (∀ en : Entry, entryFor (meState s b x) adr (byteCount y) en → a.val ≠ 25 → entR en = true →
        readable (cached (meState s b x) adr) (entPhys en adr) (byteCount y) →
        (meState s b x).ownRemote s.cur.core s.cur.slot.val (entPhys en adr) (byteCount y) = false →
        ∃ t, exec (.ld a b x e y sc o) s = .next t ∧ t.mem = s.mem ∧ pageFrame s t a ∧
          (0 < a.val → a.val < 24 → vget t.me.g a.val 0 = extend y (bytesAt s (entPhys en adr) (byteCount y)))) ∧
      (∀ en : Entry, rowFor adr (byteCount y) = .page →
        ((meState s b x).translate s.cur.core (s.claimId s.cur.core) adr).1 = some en →
        (entOk en = false → exec (.ld a b x e y sc o) s = .next (trapped s 0x05 0 (BitVec.ofNat 64 adr))) ∧
        (entOk en = true → (meState s b x).peerDown en = false → entR en = false →
          exec (.ld a b x e y sc o) s = .next (trapped s 0x04 0 (BitVec.ofNat 64 adr)))) ∧
      (rowFor adr (byteCount y) = .page →
        ((meState s b x).translate s.cur.core (s.claimId s.cur.core) adr).1 = none →
        ∃ t, exec (.ld a b x e y sc o) s = .next t ∧ t.me.wait = .page adr ∧ t.me.held = true ∧ t.me.pc = s.me.pc ∧
          t.me.g = s.me.g ∧ t.mem = s.mem ∧ (∀ p, t.myCore.port p = s.myCore.port p) ∧
          t.misses = s.misses ++ [⟨.slot s.cur.core s.cur.slot.val, s.claimId s.cur.core, adr, false, s.me.pc⟩])) ∧
    (s.ports (meSources b x ++ [a]) [] = .ok () → meAddr s b x e = .ok adr → mayRelease s sc o →
      ∀ en : Entry, entryFor ((meState s b x).readG a).2 adr (byteCount y) en →
        (Memory.wf s.mem = true → entW en = true →
          ∃ t, exec (.st a b x e y sc o) s = .next t ∧ pageFrame s t 0 ∧
            bytesAt t (entPhys en adr) (byteCount y) = patternOf y ((meState s b x).readG a).1 ∧
            sameOutside s t (entPhys en adr) (byteCount y)) ∧
        (entW en = false → exec (.st a b x e y sc o) s = .next (trapped s 0x04 1 (BitVec.ofNat 64 adr)))) ∧
    (∀ p ∈ atomicTable, ∀ c : Option GReg, y.atomicOk = true → s.ports [b, c.getD a] [a] = .ok () →
      ea (s.readG b).1 0 0 0 = .ok adr → mayRelease s sc o →
      ∀ en : Entry, entryFor ((s.readG b).2.readG (c.getD a)).2 adr (byteCount y) en → entR en = true → entW en = true →
        (Memory.wf s.mem = true → a.val ≠ 25 → entTier en ≠ 3 → (sc = .sy ∨ (sc = .dv ∧ entTier en ≤ 1)) →
          readable (cached ((s.readG b).2.readG (c.getD a)).2 adr) (entPhys en adr) (byteCount y) →
          ∃ t, exec (p.1 a b c y sc o) s = .next t ∧ pageFrame s t a ∧
            bytesAt t (entPhys en adr) (byteCount y) =
              p.2 y (BitVec.ofNat 64 (bytesAt s (entPhys en adr) (byteCount y))) ((s.readG b).2.readG (c.getD a)).1 ∧
            sameOutside s t (entPhys en adr) (byteCount y) ∧
            (0 < a.val → a.val < 24 → vget t.me.g a.val 0 = extend y (bytesAt s (entPhys en adr) (byteCount y)))) ∧
        ((sc = .co ∨ sc = .cl ∨ (sc = .dv ∧ (entTier en = 2 ∨ entTier en = 4))) → entTier en ≠ 3 →
          exec (p.1 a b c y sc o) s = .next (trapped s 0x02 0 (BitVec.ofNat 64 adr)))) ∧
    (∀ c : GReg, y.atomicOk = true → s.ports [b, c, a] [a] = .ok () → ea (s.readG b).1 0 0 0 = .ok adr →
      mayRelease s sc o →
      ∀ en : Entry, entryFor ((s.readG b).2.readG c).2 adr (byteCount y) en → entR en = true → entW en = true →
        (Memory.wf s.mem = true → a.val ≠ 25 → entTier en ≠ 3 → (sc = .sy ∨ (sc = .dv ∧ entTier en ≤ 1)) →
          readable (cached ((s.readG b).2.readG c).2 adr) (entPhys en adr) (byteCount y) →
          ∃ t, exec (.acas a b c y sc o) s = .next t ∧ pageFrame s t a ∧
            bytesAt t (entPhys en adr) (byteCount y) =
              (if bytesAt s (entPhys en adr) (byteCount y) = patternOf y (s.peekG a)
                then patternOf y ((s.readG b).2.readG c).1 else bytesAt s (entPhys en adr) (byteCount y)) ∧
            sameOutside s t (entPhys en adr) (byteCount y) ∧
            (0 < a.val → a.val < 24 → vget t.me.g a.val 0 = extend y (bytesAt s (entPhys en adr) (byteCount y)))) ∧
        ((sc = .co ∨ sc = .cl ∨ (sc = .dv ∧ (entTier en = 2 ∨ entTier en = 4))) → entTier en ≠ 3 →
          exec (.acas a b c y sc o) s = .next (trapped s 0x02 0 (BitVec.ofNat 64 adr))))

/-- Loads and stores in the claim window, what is requested and the reply; and scalar accesses through a page. That a release
waits for the slot's earlier writes, and that one of a narrow scope does not, is the model's choice (logs 2 and 125). -/
def Obligations.RemoteLoadsAndStores : Prop := StatementParts.LoadRemote ∧ StatementParts.StoreRemote ∧ StatementParts.PageAccesses

/-- Stores that other slots cannot see yet (08 R150, R153): where the slot's stores wait in its buffer, ST completes and leaves
memory as it was; a load of the same bytes by the same slot returns what it stored; and the turn that performs the store
writes its bytes and no other. That a buffer exists, and when it performs, is the model's choice (log 2). -/
def StatementParts.StoreBuffer : Prop :=
  (∀ (s : State) (a b : GReg) (x : Option Index) (e : Int) (y : ScalarType) (sc : Scope) (adr : Nat),
    s.ports (meSources b x ++ [a]) [] = .ok () → meAddr s b x e = .ok adr → adr % byteCount y = 0 →
    rowFor adr (byteCount y) = .self →
    (s.isFw s.cur.core || s.myCore.grants (localNeeds false true) adr (byteCount y)) = true →
    s.ownRemote s.cur.core s.cur.slot.val (sram s.cur.core adr) (byteCount y) = false →
    s.me.deferStores = true → s.isDet s.cur.core = false → s.me.early = [] → s.me.seqTouches = false →
    ∃ t p, exec (.st a b x e y sc .rlx) s = .next t ∧ t.mem = s.mem ∧ t.me.g = s.me.g ∧ t.me.pc = s.me.npc ∧
      t.me.buffer = s.me.buffer ++ [p] ∧ p.done = false ∧ p.after = 0 ∧ p.scope = none ∧
      p.cells = (List.range (byteCount y)).map (fun i =>
        (sram s.cur.core adr + i, BitVec.ofNat 8 (((meState s b x).readG a).1.toNat / 256 ^ i)))) ∧
  (∀ (s : State) (a b : GReg) (x : Option Index) (e : Int) (y : ScalarType) (sc : Scope) (o : Order) (adr : Nat)
      (p : Pend) (w : Word),
    s.ports (meSources b x) [a] = .ok () → a.val ≠ 25 → meAddr s b x e = .ok adr → adr % byteCount y = 0 →
    rowFor adr (byteCount y) = .self →
    (s.isFw s.cur.core || s.myCore.grants (localNeeds true false) adr (byteCount y)) = true →
    s.ownRemote s.cur.core s.cur.slot.val (sram s.cur.core adr) (byteCount y) = false →
    s.narrowHeld (sram s.cur.core adr) (byteCount y) = false → s.me.early = [] → s.me.seqTouches = false →
    s.me.buffer = [p] → p.done = false →
    p.cells = (List.range (byteCount y)).map (fun i =>
      (sram s.cur.core adr + i, BitVec.ofNat 8 (w.toNat / 256 ^ i))) →
    exec (.ld a b x e y sc o) s = .next (put (meState s b x) a (extend y (patternOf y w))).retire) ∧
  (∀ (s : State) (adr n : Nat) (p : Pend) (w : Word),
    Memory.wf s.mem = true → s.cur.core < numCores → n ∈ [1, 2, 4, 8] → adr % n = 0 → adr + n ≤ 2 ^ 20 →
    s.me.buffer = [p] → p.done = false → p.after = 0 → p.scope = none → s.isDet s.cur.core = false →
    p.cells = (List.range n).map (fun i => (sram s.cur.core adr + i, BitVec.ofNat 8 (w.toNat / 256 ^ i))) →
    ∃ t, s.turn (.perform s.cur.core s.cur.slot 0) = .next t ∧ t.me.buffer = [] ∧ t.me.g = s.me.g ∧
      t.me.pc = s.me.pc ∧ bytesAt t (sram s.cur.core adr) n = w.toNat % 2 ^ (8 * n) ∧
      sameOutside s t (sram s.cur.core adr) n)

/-- Loads and stores in the self window: value or bytes, what stays, and stores that wait in the buffer, the model's choice
(log 2). -/
def Obligations.SelfLoadsAndStores : Prop := StatementParts.LoadSelf ∧ StatementParts.StoreSelf ∧ StatementParts.StoreBuffer

namespace Sys2Proof.Claims

/-- The trap does not end the launch at this slot (13 R246). -/
def handled (s : State) (c k code : Nat) : Prop :=
  code ≠ 0x05 ∧ code ≠ 0x0E ∧ code ≠ 0x0F ∧ (s.slotOf c k).inh = false ∧ (s.slotOf c k).trapvec ≠ 0

/-- The rules of 02 R31 for a value with V = 1 written to domain register `d` of the core of the step, whose group stands on
the rectangle `g` and whose launch starts the slots `started`. -/
def domGood (s : State) (d : Nat) (w : Word) (g : Rect) (started : BitVec 4) : Prop :=
  (∃ k, k < 4 ∧ w.getLsbD (56 + k) = true) ∧ (∀ k, k < 4 → w.getLsbD (56 + k) = true → started.getLsbD k = true) ∧
  1 ≤ bits w 16 8 ∧ 1 ≤ bits w 24 8 ∧ bits w 0 8 + bits w 16 8 ≤ g.w ∧ bits w 8 8 + bits w 24 8 ≤ g.h ∧
  bits w 0 8 ≤ colOf s.cur.core - g.x ∧ colOf s.cur.core - g.x < bits w 0 8 + bits w 16 8 ∧
  bits w 8 8 ≤ rowOf s.cur.core - g.y ∧ rowOf s.cur.core - g.y < bits w 8 8 + bits w 24 8 ∧
  ∀ j, j < d → ∀ u : Word, u = vget s.myCore.doms j 0 → u.getLsbD 63 = true →
    bits u 0 8 ≤ bits w 0 8 ∧ bits w 0 8 + bits w 16 8 ≤ bits u 0 8 + bits u 16 8 ∧
    bits u 8 8 ≤ bits w 8 8 ∧ bits w 8 8 + bits w 24 8 ≤ bits u 8 8 + bits u 24 8

/-- `t` is `s` with slot `k` of core `c` at its handler: the four trap registers written, INH set, and the slot's other
registers, its streams and every other slot, core and byte as before (13 R246). -/
def entered (s t : State) (c k : Nat) (deferred : Bool) (code detail : Nat) (value : Word) : Prop :=
  (∀ adr, readCell t.mem adr = readCell s.mem adr) ∧
  t = s.setSlot c k (t.slotOf c k) ∧
  t.slotOf c k = { s.slotOf c k with
    trapdef := deferred, trapdetail := BitVec.ofNat 8 detail, trapcode := BitVec.ofNat 8 code, trapval := value,
    trappc := (s.slotOf c k).pc, inh := true, pc := (s.slotOf c k).trapvec, npc := (s.slotOf c k).trapvec,
    held := false, wait := .none, taken := none, lent := [], mine := [], collect := none, shelved := (s.slotOf c k).collect }

/-- An illegal instruction with its fault in the base word: TRAPVAL is the base word's address (03 R53). -/
def illegalAt (s : State) : State := trapped s 0x01 0 (BitVec.ofNat 64 (s.me.npc - 2).toNat)

/-- Control registers that user mode may write (03 R71). -/
def userWrites : List Nat :=
  [0x000, 0x001, 0x002, 0x003, 0x004, 0x005, 0x021, 0x022, 0x023, 0x024, 0x025, 0x026, 0x027, 0x030, 0x050, 0x051]

/-- Control registers whose writable bits are all of kind RW, with those bits (02 R20, 05 R98, R101, 13 R244, 03 R75). -/
def writeMasks : List (Nat × Word) :=
  [(0x001, 0xFFFFFFFFFFFE), (0x002, 0x800000000000FFFF), (0x003, 0xFFFFFFFFFFFE), (0x004, 0xFFFFFFFFFFFFFFFF),
    (0x005, 0xFFFFFFFFFFFFFFFF), (0x050, 0x1F03), (0x051, 0x1F)]

/-- What CSRW of register `n` leaves alone: memory, the general, vector and mask registers, and the value of every other
control register but RETIRED and, where the source is a port, QSTAT. -/
def csrFrame (s t : State) (n : Nat) : Prop :=
  t.mem = s.mem ∧ t.me.g = s.me.g ∧ t.me.v = s.me.v ∧ t.me.k = s.me.k ∧ t.me.pc = s.me.npc ∧
  (∀ m, m ≠ n → m ≠ 0x041 → m ≠ 0x081 → t.csr m = s.csr m)

end Sys2Proof.Claims

/-- Taking a trap that user code handles: TRAPCAUSE, TRAPVAL and TRAPPC are written, INH is set, the slot continues at
TRAPVEC, and nothing else that the spec names changes. That a VLOOP body still open is set aside until RETX is the model's
choice (log 14). A slot in a crew leaves it. -/
def Obligations.TrapEntry : Prop :=
  ∀ (s : State) (c k : Nat) (deferred : Bool) (x : Trap), k < 4 → handled s c k x.code →
    ((s.slotOf c k).crew = none → entered s (s.takeTrap c k deferred x) c k deferred x.code x.detail x.value) ∧
    (∀ y, (s.slotOf c k).crew = some y → (c, k) ∈ y.members →
      ((s.takeTrap c k deferred x).slotOf c k).crew = none ∧
      ((s.takeTrap c k deferred x).slotOf c k).pc = (s.slotOf c k).trapvec)

/-- A trap that user code does not handle ends the launch: its queue's fault record holds TRAPCAUSE, the pc, TRAPVAL and
the logical core, an ACTIVE queue goes to ERROR, the launch is gone and its cores are idle. Its packet has ended where no
engine command of its cores has still to write, and ends behind those commands otherwise (08 R164, 13 R246). -/
def StatementParts.FaultEnd : Prop :=
  ∀ (s : State) (c k : Nat) (deferred : Bool) (x : Trap) (l : Launch), k < 4 → s.residentOf c = some l →
    (s.slotOf c k).crew = none → ¬ handled s c k x.code →
    ((s.takeTrap c k deferred x).queueOf l.queue).fault =
      some ⟨causeWord deferred x.detail x.code, (s.slotOf c k).pc.setWidth 64, x.value, s.logical c⟩ ∧
    ((s.queueOf l.queue).state = .active → ((s.takeTrap c k deferred x).queueOf l.queue).state = .error) ∧
    (s.takeTrap c k deferred x).launch? l.id = none ∧
    (∀ d ∈ l.cores, ((s.takeTrap c k deferred x).coreOf d).resident = none ∧
      ∀ j, j < 4 → ((s.takeTrap c k deferred x).slotOf d j).run = .idle) ∧
    (∀ q, q ≠ l.queue → ((s.takeTrap c k deferred x).queueOf q).fault = (s.queueOf q).fault) ∧
    (s.unwritten l.cores = [] →
      ∀ y ∈ ((s.takeTrap c k deferred x).queueOf l.queue).running, y.number ≠ l.number) ∧
    (s.unwritten l.cores ≠ [] →
      ∃ y ∈ (s.takeTrap c k deferred x).closing, y.queue = l.queue ∧ y.number = l.number ∧ y.claim = l.claim ∧
        y.csig = l.csig ∧ y.value = BitVec.ofInt 64 (-2) ∧ y.commands = s.unwritten l.cores)

/-- TRAP, ILL and an illegal instruction take their traps (that the entry sets an open VLOOP body aside is the model's choice,
log 14); so do, at user privilege, the firmware's instructions, CSRW of a
register that user mode only reads, and RETX outside a handler. -/
def Obligations.TrapInstructions : Prop :=
  ∀ (s : State),
    (s.me.crew = none →
      (∀ e : Int, handled s s.cur.core s.cur.slot.val 0x0D →
        ∃ t, exec (.trap e) s = .next t ∧
          entered s.giveBack t s.cur.core s.cur.slot.val false 0x0D 0 (BitVec.ofInt 64 e)) ∧
      (∀ x y : Fin 32, handled s s.cur.core s.cur.slot.val 0x01 →
        ∃ t, exec (.ill x y) s = .next t ∧
          entered s.giveBack t s.cur.core s.cur.slot.val false 0x01 0 (BitVec.ofNat 64 (s.me.npc - 2).toNat)) ∧
      (∀ (n : Nat) (d : Fin 3), handled s s.cur.core s.cur.slot.val 0x01 →
        ∃ t, exec (.illegalInstruction n d) s = .next t ∧
          entered s.giveBack t s.cur.core s.cur.slot.val false 0x01 d.val (BitVec.ofNat 64 (s.me.pc.toNat + 2 * n)))) ∧
    (∀ a b : GReg, s.isFw s.cur.core = false →
      exec (.ctxs a b) s = .next (illegalAt s) ∧ exec (.ctxl a b) s = .next (illegalAt s) ∧
      exec (.tlbi a b) s = .next (illegalAt s) ∧ exec (.protw a b) s = .next (illegalAt s)) ∧
    (∀ (a : GReg) (n : Nat), s.isFw s.cur.core = false → n ∉ userWrites →
      exec (.csrw a n) s = .next (illegalAt s)) ∧
    (s.me.inh = false → exec .retx s = .next (illegalAt s))

/-- A word that cannot be fetched: outside every region of the self window it is a protection trap of DETAIL 2. That the entry
sets an open VLOOP body aside is the model's choice (log 14). -/
def StatementParts.FetchFaults : Prop :=
  ∀ (s : State), s.me.ahead = (0, []) → s.me.pc.toNat + 2 ≤ 0x100000 → s.isFw s.cur.core = false →
    s.myCore.grants [100] s.me.pc.toNat 2 = false →
    s.me.crew = none → handled s s.cur.core s.cur.slot.val 0x04 →
    ∃ t, exec .fetchFault s = .next t ∧
      entered s.giveBack t s.cur.core s.cur.slot.val false 0x04 2 (BitVec.ofNat 64 s.me.pc.toNat)

/-- The end of a launch by a fault, and a word that cannot be fetched. That the entry sets an open VLOOP body aside is the
model's choice (log 14). -/
def Obligations.FatalAndFetchFaults : Prop := StatementParts.FaultEnd ∧ StatementParts.FetchFaults

/-- RETX in a handler: INH clears, the slot continues at TRAPPC with nothing fetched and the next fetch after
the slot's earlier stores of code (08 R157), and the replay queue, without its
next execution where VSKIP is set, is dispatched ahead of later work. A return to the exit address ends the slot; that the
replayed work executes first is the model's choice (log 17). -/
def StatementParts.ReturnFromTrap : Prop :=
  ∀ (s : State), s.me.inh = true →
    (s.me.trappc.toNat ≠ 0x800000000000 →
      ∃ t, exec .retx s = .next t ∧ t.me.inh = false ∧ t.me.vskip = false ∧ t.me.pc = s.me.trappc ∧
        t.me.ahead = (0, []) ∧ t.me.fencing = true ∧ t.me.replay = [] ∧
        (s.me.vskip = false → t.me.seq = s.me.replay ++ s.me.seq) ∧
        (∀ (e : VEntry) (l : List SeqItem), s.me.vskip = true → s.me.replay = .op e :: l → t.me.seq = l ++ s.me.seq) ∧
        (∀ (body : List VEntry) (reps next : Nat) (l : List SeqItem), s.me.vskip = true →
          s.me.replay = .loop body reps next :: l →
          t.me.seq = (if next + 1 < body.length then [.loop body reps (next + 1)]
            else if 1 < reps then [.loop body (reps - 1) 0] else []) ++ l ++ s.me.seq) ∧
        t.me.g = s.me.g ∧ t.me.v = s.me.v ∧ t.me.trapval = s.me.trapval ∧ t.me.trapcode = s.me.trapcode ∧
        t.me.trappc = s.me.trappc ∧ t.me.trapvec = s.me.trapvec ∧
        (s.me.vskip = false ∨ s.me.buffer = [] → t.mem = s.mem)) ∧
    (s.me.trappc.toNat = 0x800000000000 →
      (s.me.replay = [] → s.me.seq = [] →
        ∃ t, exec .retx s = .next t ∧ endedAt t s.cur.core s.cur.slot.val ∧ t.me.inh = false ∧ t.mem = s.mem) ∧
      (s.me.replay ≠ [] → s.me.vskip = false →
        ∃ t, exec .retx s = .next t ∧ t.me.held = true ∧ t.me.inh = true ∧ t.me.pc = s.me.pc ∧ t.me.replay = [] ∧
          t.me.seq = s.me.replay ++ s.me.seq ∧ t.mem = s.mem))

/-- The deferred trap of the sequencer: the slot enters its handler with DEF set, and what the sequencer has not executed
becomes the replay queue. Without such a trap nothing changes. That the entry sets an open VLOOP body aside is the model's
choice (log 14). -/
def StatementParts.DeferredTrap : Prop :=
  ∀ (s : State) (c : Nat) (k : Fin 4),
    ((s.slotOf c k.val).deferred = none → exec (.deferredTrap c k) s = .next s) ∧
    (∀ x : Trap, (s.slotOf c k.val).deferred = some x → (s.slotOf c k.val).crew = none →
      handled s c k.val x.code → (∀ n b l, (s.slotOf c k.val).seq ≠ .mark n b :: l) →
      ∃ t, exec (.deferredTrap c k) s = .next t ∧
        entered ((s.modCore c (fun y => y.giveBack k.val)).modSlot c k.val
          (fun u => { u with deferred := none, replay := u.seq, seq := [] })) t c k.val true x.code x.detail x.value)

/-- The return from a handler, and the deferred trap of the sequencer. What becomes of an open VLOOP body, and when a return to
the exit address ends the slot, are the model's choice (logs 14 and 17). -/
def Obligations.ReturnAndDeferredTraps : Prop := StatementParts.ReturnFromTrap ∧ StatementParts.DeferredTrap

/-- CSRR completes and reads the register: the trap registers, COREID, the domain registers, CYCLES and RETIRED, SCRATCH,
the seeds, and QSTAT as the occupancy of the ports; 0x050 and 0x051 wait for the vector sequencer. -/
def Obligations.CsrReads : Prop :=
  ∀ (s : State) (a : GReg), s.ports [] [a] = .ok () → a.val ≠ 25 →
    (∀ n, n ≠ 0x050 → n ≠ 0x051 → exec (.csrr a n) s = .next (put s a (s.csr n)).retire) ∧
    (∀ n, (n = 0x050 ∨ n = 0x051) →
      (s.me.seq = [] → exec (.csrr a n) s = .next (put s a (s.csr n)).retire) ∧
      (s.me.seq ≠ [] → exec (.csrr a n) s = .next (heldState s))) ∧
    (s.csr 0x001).toNat = s.me.trapvec.toNat ∧ (s.csr 0x003).toNat = s.me.trappc.toNat ∧
    s.csr 0x004 = s.me.trapval ∧ s.csr 0x005 = s.me.scratch ∧ s.csr 0x040 = s.myCore.cycles ∧
    s.csr 0x041 = s.myCore.retired ∧ s.csr 0x032 = s.myCore.planbase ∧
    (∀ i : Fin 8, s.csr (0x020 + i.val) = vget s.myCore.doms i.val 0) ∧
    s.csr 0x060 = 0 ∧
    ((s.csr 0x002).getLsbD 63 = s.me.trapdef ∧ bits (s.csr 0x002) 8 8 = s.me.trapdetail.toNat ∧
      bits (s.csr 0x002) 0 8 = s.me.trapcode.toNat) ∧
    (s.cur.core < numCores →
      bits (s.csr 0x010) 0 16 = s.cur.core ∧ bits (s.csr 0x010) 16 8 = s.cur.core % 64 ∧
      bits (s.csr 0x010) 24 8 = s.cur.core / 64 ∧ bits (s.csr 0x010) 32 8 = Config.step.toNat) ∧
    (∀ (i : Fin 16) (l : Launch), i.val ≠ 0 → s.residentOf s.cur.core = some l →
      s.csr (0x060 + i.val) = vget l.seeds i.val 0) ∧
    (s.csr 0x000).getLsbD 0 = s.me.inh ∧ (s.csr 0x000).getLsbD 1 = s.me.eerr ∧ (s.csr 0x000).getLsbD 8 = s.me.vskip ∧
    (s.csr 0x000).getLsbD 63 = s.isFw s.cur.core ∧
    ((∀ p, p < 8 → (s.myCore.port p).length ≤ portDepth p) →
      ∀ p, p < 8 → bits (s.csr 0x081) (8 * p) 8 = (s.myCore.port p).length)

/-- CSRW of a register of RW fields: CSRR then gives the value under the register's mask, and no other register changes. -/
def StatementParts.CsrWriteRead : Prop :=
  ∀ (s : State) (a : GReg), s.ports [a] [] = .ok () → s.me.seq = [] →
    ∀ p ∈ writeMasks, ∃ t, exec (.csrw a p.1) s = .next t ∧ t.csr p.1 = (s.readG a).1 &&& p.2 ∧ csrFrame s t p.1

/-- CSRW of STATUS, PRIO and the domain registers: VSKIP and LEVEL take their bits, EERR clears where a 1 is written, INH
and PREM stay; DOM1 to DOM7 take their writable fields with SSTEP 0, and trap while an arrival stands, or where a value with
V = 1 breaks a rule of 02 R31. -/
def StatementParts.CsrWriteFields : Prop :=
  ∀ (s : State) (a : GReg), s.ports [a] [] = .ok () →
    (∃ t, exec (.csrw a 0x000) s = .next t ∧ csrFrame s t 0x000 ∧ t.me.vskip = (s.readG a).1.getLsbD 8 ∧
      t.me.eerr = (s.me.eerr && !(s.readG a).1.getLsbD 1) ∧ t.me.inh = s.me.inh ∧ t.me.replay = s.me.replay) ∧
    (∃ t, exec (.csrw a 0x030) s = .next t ∧ csrFrame s t 0x030 ∧ t.me.prem = s.me.prem ∧
      t.me.level.toNat = (s.readG a).1.toNat % 8) ∧
    (∀ d : Fin 8, d.val ≠ 0 → (∀ k : Fin 4, vget (s.slotOf s.cur.core k.val).arr d.val .idle = .idle) →
      (s.readG a).1.getLsbD 63 = false →
      ∃ t, exec (.csrw a (0x020 + d.val)) s = .next t ∧ csrFrame s t (0x020 + d.val) ∧
        t.csr (0x020 + d.val) = (s.readG a).1 &&& 0xCF000000FFFFFFFF) ∧
    (∀ (d : Fin 8) (g : Rect) (l : Launch), d.val ≠ 0 →
      (∀ k : Fin 4, vget (s.slotOf s.cur.core k.val).arr d.val .idle = .idle) → (s.readG a).1.getLsbD 63 = true →
      s.groupRect s.cur.core = some g → s.residentOf s.cur.core = some l →
      (domGood s d.val (s.readG a).1 g l.slots →
        ∃ t, exec (.csrw a (0x020 + d.val)) s = .next t ∧ csrFrame s t (0x020 + d.val) ∧
          t.csr (0x020 + d.val) = (s.readG a).1 &&& 0xCF000000FFFFFFFF) ∧
      (¬ domGood s d.val (s.readG a).1 g l.slots →
        exec (.csrw a (0x020 + d.val)) s = .next (trapped s 0x02 0 0))) ∧
    (∀ d : Fin 8, d.val ≠ 0 → (∃ k : Fin 4, vget (s.slotOf s.cur.core k.val).arr d.val .idle ≠ .idle) →
      exec (.csrw a (0x020 + d.val)) s = .next (trapped s 0x02 0 0))

/-- What CSRW writes, and what a later CSRR reads. -/
def Obligations.CsrWrites : Prop := StatementParts.CsrWriteRead ∧ StatementParts.CsrWriteFields

namespace Sys2Proof.Claims

/-- The slot of the step may execute ARRIVE of domain `d`: V is 1, the slot is in SLOTS, its arrival is idle, no forced
pre-emption stops arrivals, and a release may pass (02 R34, 13 R251). -/
def arriveOk (s : State) (d : Fin 8) : Prop :=
  (vget s.myCore.doms d.val 0).getLsbD 63 = true ∧
  (bits (vget s.myCore.doms d.val 0) 56 4).testBit s.cur.slot.val = true ∧
  vget s.me.arr d.val .idle = .idle ∧ (∀ l, s.residentOf s.cur.core = some l → l.preempt ≠ .forced) ∧
  s.releaseReady s.cur.core s.cur.slot.val = true

/-- `t` is `s` with the arrival state of the slot for domain `d` as given: no other arrival state, general register,
byte or other core changes. -/
def arrivalIs (s t : State) (d : Fin 8) (x : Arrival) : Prop :=
  vget t.me.arr d.val .idle = x ∧ (∀ e : Fin 8, e ≠ d → vget t.me.arr e.val .idle = vget s.me.arr e.val .idle) ∧
  t.me.g = s.me.g ∧ t.mem = s.mem ∧ (∀ c, c ≠ s.cur.core → t.coreOf c = s.coreOf c)

/-- One step of an update function on numbers below 2^w: operation, X and Y as 07 R143 numbers them. -/
def updateStep (w b t o p k0 k1 : Nat) : Nat :=
  let x := match b / 8 % 4 with | 0 => t | 1 => o | 2 => p | _ => k0
  let y := match b / 2 % 4 with | 0 => t | 1 => o | 2 => p | _ => k1
  let sg (n : Nat) : Int := if 2 ^ w ≤ 2 * n then (n : Int) - 2 ^ w else n
  if b % 2 = 0 then t
  else
    match b / 32 % 8 with
    | 0 => (x + y) % 2 ^ w
    | 1 => (x + (2 ^ w - y)) % 2 ^ w
    | 2 => x &&& y
    | 3 => x ||| y
    | 4 => x ^^^ y
    | 5 => if sg x ≤ sg y then x else y
    | 6 => if sg x ≤ sg y then y else x
    | _ => x * 2 ^ (y % w) % 2 ^ w

/-- The four steps of a descriptor `f` on an old value and an operand (07 R143). -/
def updateSpec (f w old p : Nat) : Nat :=
  (List.range 4).foldl
    (fun t i => updateStep w (f / 2 ^ (128 + 8 * i) % 256) t old (p % 2 ^ w) (f % 2 ^ w) (f / 2 ^ 64 % 2 ^ w))
    old

/-- The members of the domain are found to disagree at a WAITB or waiting SYNC of the slot of the step: it is marked, or
another member that has executed its arrival holds other fields (02 R32, logs 111 and 131). -/
def differs (s : State) (d : Fin 8) : Prop :=
  s.me.mismatch.getLsbD d.val = true ∨ s.disagree s.cur.core d.val = true

/-- Sweep one may count the arrival of core `c`, a member whose slots have all arrived (02 R33). -/
def mayCount (s : State) (c : Nat) (d : Fin 8) : Prop :=
  domValid ((s.coreOf c).dom d.val) = true ∧ c ∈ s.members c d.val ∧ s.agree c d.val = true ∧
  s.marked c d.val = false ∧ ((s.coreOf c).runOf d.val).exchange = false ∧
  ((s.coreOf c).runOf d.val).counted = false ∧ ((s.coreOf c).runOf d.val).releasing = false ∧
  (s.coreOf c).arrivedAt d.val = true ∧ ((s.coreOf c).runOf d.val).executed = true

end Sys2Proof.Claims

/-- UPD on a word of the core's own SRAM completes: the word holds the configured function of the old value and the
operand, every other byte and every register reads as before. -/
def StatementParts.UpdSelf : Prop :=
  ∀ (s : State) (a b : GReg) (y : ScalarType) (sc : Scope) (o : Order) (adr : Nat),
    Memory.wf s.mem = true → (y = .d ∨ y = .w) → s.ports [b, a] [] = .ok () → ea (s.readG b).1 0 0 0 = .ok adr →
    adr % byteCount y = 0 → selfReady s adr (byteCount y) true true → mayRelease s sc o →
    ∃ t, exec (.upd a b y sc o) s = .next t ∧
      bytesAt t (sram s.cur.core adr) (byteCount y) =
        updateSpec s.myCore.update.toNat y.width (bytesAt s (sram s.cur.core adr) (byteCount y))
          (patternOf y ((s.readG b).2.readG a).1) ∧
      sameOutside s t (sram s.cur.core adr) (byteCount y) ∧ t.me.g = s.me.g ∧ t.me.pc = s.me.npc

/-- UPDCFG completes with a good descriptor in the self window: A receives the old steps word, the function is the
descriptor, and memory does not change; a step with V = 1 after one with V = 0, or a nonzero byte past 19, traps. -/
def StatementParts.UpdcfgResults : Prop :=
  ∀ (s : State) (a b : GReg) (adr : Nat),
    s.ports [b] [a] = .ok () → a.val ≠ 25 → ea (s.readG b).1 0 0 0 = .ok adr → adr % 32 = 0 →
    selfReady s adr 32 true false →
    (bytesAt s (sram s.cur.core adr) 32 / 2 ^ 160 = 0 →
      (∀ i, i < 3 → bytesAt s (sram s.cur.core adr) 32 / 2 ^ (128 + 8 * i) % 2 = 0 →
        bytesAt s (sram s.cur.core adr) 32 / 2 ^ (136 + 8 * i) % 2 = 0) →
      ∃ t, exec (.updcfg a b) s = .next t ∧ t.myCore.update.toNat = bytesAt s (sram s.cur.core adr) 32 ∧
        t.mem = s.mem ∧ t.me.pc = s.me.npc ∧
        (0 < a.val → a.val < 24 → (vget t.me.g a.val 0).toNat = s.myCore.update.toNat / 2 ^ 128 % 2 ^ 32) ∧
        (∀ r : Fin 24, r.val ≠ a.val → vget t.me.g r.val 0 = vget s.me.g r.val 0)) ∧
    (bytesAt s (sram s.cur.core adr) 32 / 2 ^ 160 ≠ 0 → exec (.updcfg a b) s = .next (trapped s 0x02 0 0)) ∧
    (∀ i j, i < j → j < 4 → bytesAt s (sram s.cur.core adr) 32 / 2 ^ (128 + 8 * i) % 2 = 0 →
      bytesAt s (sram s.cur.core adr) 32 / 2 ^ (128 + 8 * j) % 2 = 1 →
      exec (.updcfg a b) s = .next (trapped s 0x02 0 0))

/-- UPD at the core itself, and UPDCFG. -/
def Obligations.Updates : Prop := StatementParts.UpdSelf ∧ StatementParts.UpdcfgResults

/-- ARRIVE, WAITB and SYNC: when they trap, when they hold, and the arrival states they leave. Where the members' registers
disagree, every WAITB and waiting SYNC of the domain traps, or every one waits (02 R32), and a SYNC that traps has not arrived.
That a release waits for the slot's earlier writes is the model's choice (log 2), and so are the moment at which members are
judged to disagree and the marks that keep the judgement (logs 111 and 131). -/
def Obligations.DomainInstructions : Prop :=
  ∀ d : Fin 8,
    (∀ s : State,
      (arriveOk s d →
        (∃ t, exec (.arrive d) s = .next t ∧ arrivalIs s t d .arrived ∧ t.me.pc = s.me.npc ∧
          (t.myCore.runOf d.val).executed = true) ∧
        (s.me.wait ≠ .request → ∃ t, exec (.sync d) s = .next t ∧ arrivalIs s t d .arrived ∧ t.me.pc = s.me.pc ∧
          t.me.wait = .request ∧ t.me.held = true)) ∧
      (((vget s.myCore.doms d.val 0).getLsbD 63 = false ∨
          (bits (vget s.myCore.doms d.val 0) 56 4).testBit s.cur.slot.val = false ∨
          vget s.me.arr d.val .idle ≠ .idle) →
        exec (.arrive d) s = .next (trapped s 0x02 0 0) ∧
        (s.me.wait ≠ .request → exec (.sync d) s = .next (trapped s 0x02 0 0))) ∧
      ((vget s.myCore.doms d.val 0).getLsbD 63 = true →
        (bits (vget s.myCore.doms d.val 0) 56 4).testBit s.cur.slot.val = true →
        vget s.me.arr d.val .idle = .idle →
        ((∃ l, s.residentOf s.cur.core = some l ∧ l.preempt = .forced) ∨
          s.releaseReady s.cur.core s.cur.slot.val = false) →
        exec (.arrive d) s = .next (heldState s) ∧
        (s.me.wait ≠ .request → exec (.sync d) s = .next (heldState s))) ∧
      (vget s.me.arr d.val .idle = .idle → exec (.waitb d) s = .next (trapped s 0x02 0 0)) ∧
      (vget s.me.arr d.val .idle = .released →
        (∃ t, exec (.waitb d) s = .next t ∧ arrivalIs s t d .idle ∧ t.me.pc = s.me.npc) ∧
        (s.me.wait = .request →
          ∃ t, exec (.sync d) s = .next t ∧ arrivalIs s t d .idle ∧ t.me.pc = s.me.npc ∧ t.me.wait = .none)) ∧
      (vget s.me.arr d.val .idle = .arrived → ¬ differs s d →
        exec (.waitb d) s = .next (heldState s) ∧
        (s.me.wait = .request → exec (.sync d) s = .next (heldState s))) ∧
      (vget s.me.arr d.val .idle = .arrived → s.me.mismatch.getLsbD d.val = false → s.disagree s.cur.core d.val = true →
        (s.judged d).mem = s.mem ∧ (∀ c k, ((s.judged d).slotOf c k).g = (s.slotOf c k).g) ∧
        ∀ (g : Rect) (m : Nat) (k : Fin 4), s.groupRect s.cur.core = some g → m ∈ g.cores →
          s.meets s.cur.core d.val m = true → (bits ((s.coreOf m).dom d.val) 56 4).testBit k.val = true →
          (m, k.val) ≠ (s.cur.core, s.cur.slot.val) →
          ((s.judged d).slotOf m k.val).mismatch.getLsbD d.val = true)) ∧
    ((∀ s : State, vget s.me.arr d.val .idle = .arrived → differs s d →
        exec (.waitb d) s = .next (heldState (s.judged d)) ∧
        (s.me.wait = .request → exec (.sync d) s = .next (heldState (s.judged d)))) ∨
      (∀ s : State, vget s.me.arr d.val .idle = .arrived → differs s d →
        exec (.waitb d) s = .next (trapped (s.judged d) 0x0C 0 (BitVec.ofNat 64 d.val)) ∧
        (s.me.wait = .request →
          exec (.sync d) s = .next (trapped ((s.judged d).withdrawArrival d) 0x0C 0 (BitVec.ofNat 64 d.val)) ∧
          vget ((s.judged d).withdrawArrival d).me.arr d.val .idle = .idle)))

/-- ARRIVAL_SWEEP: the arrival of a member that has arrived is counted; with the last one counted, every member's release
is on its way. Nothing is counted while the members' registers disagree, or while a slot has still to find that they did (02
R32; the marks are the model's choice, log 131). A barrier that spans devices is released where the message of every other
device has come too (14 R258); which barriers span, and when the messages come, is the model's choice (log 126). -/
def StatementParts.ArrivalSweep : Prop :=
  (∀ (s : State) (c : Nat) (d : Fin 8), s.agree c d.val = false ∨ s.marked c d.val = true →
    exec (.arrivalSweep c d) s = .next s) ∧
  (∀ (s : State) (c : Nat) (d : Fin 8), mayCount s c d →
    ((∃ m ∈ s.members c d.val, m ≠ c ∧ ((s.coreOf m).runOf d.val).counted = false) →
      ∃ t, exec (.arrivalSweep c d) s = .next t ∧ ((t.coreOf c).runOf d.val).counted = true ∧
        ((t.coreOf c).runOf d.val).releasing = false ∧ t.mem = s.mem) ∧
    ((∀ m ∈ s.members c d.val, m ≠ c → ((s.coreOf m).runOf d.val).counted = true) →
      (s.spansOf (s.claimId c) d.val = [] →
        ∃ t, exec (.arrivalSweep c d) s = .next t ∧ t.mem = s.mem ∧
          ∀ m ∈ s.members c d.val, ((t.coreOf m).runOf d.val).counted = false ∧
            ((t.coreOf m).runOf d.val).releasing = true) ∧
      ((∃ x ∈ s.spansOf (s.claimId c) d.val, x.come = false) →
        ∃ t, exec (.arrivalSweep c d) s = .next t ∧ t.mem = s.mem ∧
          (∀ x ∈ t.spansOf (s.claimId c) d.val, x.sent = true) ∧
          ((t.coreOf c).runOf d.val).counted = true ∧ ((t.coreOf c).runOf d.val).releasing = false))) ∧
  ∀ (s : State) (id c : Nat) (d : Fin 8) (p : Fin 12), s.linkWaiter id d.val = some c → p.val ∉ s.linksDown →
    (∀ x ∈ s.spansOf id d.val, x.sent = true) →
    ((∀ x ∈ s.spansOf id d.val, x.port ≠ p.val → x.come = true) →
      ∃ t, s.turn (.linkMessage id d p) = .next t ∧ t.mem = s.mem ∧
        ∀ m ∈ s.members c d.val, ((t.coreOf m).runOf d.val).counted = false ∧
          ((t.coreOf m).runOf d.val).releasing = true) ∧
    ((∃ x ∈ s.spansOf id d.val, x.port ≠ p.val ∧ x.come = false) →
      ∃ t, s.turn (.linkMessage id d p) = .next t ∧ t = { s with spans := t.spans })

/-- DOMAIN_RELEASE at a core: of a plain domain, or of sweep two, it frees every slot that had arrived, adds 1 to SSTEP
modulo 2^16, acts as an IFENCE and changes no other domain; of sweep one it starts the exchange and frees nobody, and a plan
that cannot be read ends the launch, with a fault record whose PC is 0 (log 107, the model's choice). -/
def StatementParts.DomainRelease : Prop :=
  ∀ (s : State) (c : Nat) (d : Fin 8),
    (((s.coreOf c).runOf d.val).releasing = false → exec (.domainRelease c d) s = .next s) ∧
    (((s.coreOf c).runOf d.val).releasing = true →
      (domExchange ((s.coreOf c).dom d.val) = false ∨ ((s.coreOf c).runOf d.val).exchange = true) →
      ∃ t, exec (.domainRelease c d) s = .next t ∧ t.mem = s.mem ∧
        domStep ((t.coreOf c).dom d.val) = (domStep ((s.coreOf c).dom d.val) + 1) % 2 ^ 16 ∧
        (t.coreOf c).dom d.val &&& 0xFFFF0000FFFFFFFF = (s.coreOf c).dom d.val &&& 0xFFFF0000FFFFFFFF ∧
        (∀ e : Fin 8, e ≠ d → (t.coreOf c).dom e.val = (s.coreOf c).dom e.val) ∧
        (∀ k : Fin 4, (t.slotOf c k.val).fencing = true ∧ vget (t.slotOf c k.val).arr d.val .idle =
          (if vget (s.slotOf c k.val).arr d.val .idle = .arrived then .released
            else vget (s.slotOf c k.val).arr d.val .idle)) ∧
        (∀ m, m ≠ c → t.coreOf m = s.coreOf m)) ∧
    (((s.coreOf c).runOf d.val).releasing = true → domExchange ((s.coreOf c).dom d.val) = true →
      ((s.coreOf c).runOf d.val).exchange = false →
      (s.planPoison c = none →
        ∃ t, exec (.domainRelease c d) s = .next t ∧ t.mem = s.mem ∧ ((t.coreOf c).runOf d.val).exchange = true ∧
          ((t.coreOf c).runOf d.val).due = s.planDue c d.val (domStep ((s.coreOf c).dom d.val)) ∧
          (∀ k, t.slotOf c k = s.slotOf c k) ∧ (t.coreOf c).dom d.val = (s.coreOf c).dom d.val) ∧
      (∀ (w : Nat) (l : Launch), s.planPoison c = some w → s.residentOf c = some l →
        ∃ t, exec (.domainRelease c d) s = .next t ∧ t.launch? l.id = none ∧
          (t.queueOf l.queue).fault =
            some ⟨causeWord false 0 0x0F, 0, BitVec.ofNat 64 (8 * (w / 8)), s.logical c⟩))

/-- The sweep of arrivals and the release of a domain. A plan that cannot be read, which barriers span devices, and the marks
of a disagreement are the model's choice (logs 107, 126 and 131). -/
def Obligations.DomainEvents : Prop := StatementParts.ArrivalSweep ∧ StatementParts.DomainRelease

/-- The exchange phase outside a deterministic launch: a due word is copied from its source to its destination and every
other byte reads as before; one that the router's map of the claim does not hold is dropped and reported; a source that
cannot be corrected ends the launch, with a fault record whose PC is 0 (log 107, the model's choice). A core with nothing left
to write or drain arrives again; a message enters q0 whole, and a core of a deterministic launch takes none in this way (12
R239). -/
def StatementParts.ExchangePhase : Prop :=
  ∀ (s : State),
    (∀ (c : Nat) (d : Fin 8) (n : Nat) (p : PlanWrite), s.isDet c = false →
      ((s.coreOf c).runOf d.val).due[n]? = some p →
      (s.poisonedIn (sram c p.src) 8 = false →
        ∃ t, exec (.exchangeWrite c d n) s = .next t ∧
          ((t.coreOf c).runOf d.val).due = ((s.coreOf c).runOf d.val).due.take n ++
            (if p.words ≤ 1 then [] else [⟨p.src + 8, p.dst, p.doff + 8, p.words - 1⟩]) ++
            ((s.coreOf c).runOf d.val).due.drop (n + 1) ∧
          (Memory.wf s.mem = true → s.routerBit p.dst (s.claimId c) = true →
            s.gated.contains (clusterOf (sram p.dst p.doff / 2 ^ 20)) = false →
            bytesAt t (sram p.dst p.doff) 8 = bytesAt s (sram c p.src) 8 ∧ sameOutside s t (sram p.dst p.doff) 8) ∧
          (s.routerBit p.dst (s.claimId c) = false →
            t.mem = s.mem ∧ t.reports = s.reports ++ [.messageDropped])) ∧
      (∀ l : Launch, s.poisonedIn (sram c p.src) 8 = true → s.residentOf c = some l →
        ∃ t, exec (.exchangeWrite c d n) s = .next t ∧ t.launch? l.id = none ∧
          (t.queueOf l.queue).fault =
            some ⟨causeWord false 0 0x0F, 0, BitVec.ofNat 64 (8 * (sram c p.src / 8)), s.logical c⟩)) ∧
    (∀ (c : Nat) (d : Fin 8) (l : Launch), s.residentOf c = some l → l.det = false →
      ((s.coreOf c).runOf d.val).exchange = true → ((s.coreOf c).runOf d.val).sent = false →
      ((s.coreOf c).runOf d.val).counted = false → ((s.coreOf c).runOf d.val).releasing = false →
      ((s.coreOf c).runOf d.val).due = [] →
      (∀ r ∈ s.remotes, r.core = c → r.number < ((s.coreOf c).runOf d.val).drainBelow → r.req.writes = false) →
      (∀ x ∈ s.latches, ∀ y : Remote, x.2 = .remote y → y.core ≠ c) →
      ∃ t, exec (.exchangeDrained c d) s = .next t ∧ ((t.coreOf c).runOf d.val).sent = true ∧ t.mem = s.mem) ∧
    (∀ (n : Nat) (m : Message), s.messages[n]? = some m →
      (∀ x ∈ s.messages.take n, x.src = m.src → x.dst ≠ m.dst) → s.claimId m.src = s.claimId m.dst →
      (s.isDet m.dst = true → exec (.exchangeMessageArrival n) s = .next s) ∧
      (s.away m.dst = false → s.isDet m.dst = false → (s.coreOf m.dst).inUse 0 + m.elems.length ≤ 32 →
      ∃ t, exec (.exchangeMessageArrival n) s = .next t ∧
        (t.coreOf m.dst).port 0 = (s.coreOf m.dst).port 0 ++ m.elems ∧ t.messages = s.messages.eraseIdx n ∧
        t.mem = s.mem ∧ (∀ c, c ≠ m.dst → t.coreOf c = s.coreOf c)))

/-- Elements pushed to q1: a header of an unknown destination or with high bits set traps, a header of LEN 0 is sent at
once, one of LEN above 0 makes the slot q1's owner, the last element sends the message with the sender's number in DST. That
the element that sends holds until the slot's earlier writes are performed is the model's choice (log 2). -/
def StatementParts.MessagePush : Prop :=
  ∀ (s : State) (b : GReg) (r : Rect) (l : Launch), s.ports [b] [25] = .ok () →
    s.groupRect s.cur.core = some r → s.residentOf s.cur.core = some l → l.det = false →
    (s.myCore.owner = none →
      (bits (s.readG b).1 32 32 ≠ 0 ∨ r.w * r.h ≤ bits (s.readG b).1 0 13) →
      exec (.mov 25 b .d) s = .next (trapped s 0x02 0 0)) ∧
    (s.myCore.owner = none → s.myCore.port 1 = [] → bits (s.readG b).1 32 32 = 0 →
      bits (s.readG b).1 0 13 < r.w * r.h →
      (0 < bits (s.readG b).1 13 3 →
        ∃ t, exec (.mov 25 b .d) s = .next t ∧ t.myCore.port 1 = [(s.readG b).1] ∧
          t.myCore.owner = some ⟨s.cur.slot.val, bits (s.readG b).1 13 3⟩ ∧ t.messages = s.messages ∧
          t.me.g = s.me.g ∧ t.me.pc = s.me.npc) ∧
      (bits (s.readG b).1 13 3 = 0 → s.releaseReady s.cur.core s.cur.slot.val = true →
        ∃ t, exec (.mov 25 b .d) s = .next t ∧ t.myCore.port 1 = [] ∧ t.myCore.owner = none ∧
          t.messages = s.messages ++ [⟨s.cur.core, r.coreOf (bits (s.readG b).1 0 13),
            [((s.readG b).1 &&& 0xFFFFFFFFFFFFE000) ||| BitVec.ofNat 64 (s.logical s.cur.core)]⟩] ∧
          t.me.pc = s.me.npc)) ∧
    (∀ (h : Word) (pay : List Word), s.myCore.owner = some ⟨s.cur.slot.val, 1⟩ → s.myCore.port 1 = h :: pay →
      (s.releaseReady s.cur.core s.cur.slot.val = true →
        ∃ t, exec (.mov 25 b .d) s = .next t ∧ t.myCore.port 1 = [] ∧ t.myCore.owner = none ∧
          t.messages = s.messages ++ [⟨s.cur.core, r.coreOf (bits h 0 13),
            ((h &&& 0xFFFFFFFFFFFFE000) ||| BitVec.ofNat 64 (s.logical s.cur.core)) :: (pay ++ [(s.readG b).1])⟩]) ∧
      (s.releaseReady s.cur.core s.cur.slot.val = false → exec (.mov 25 b .d) s = .next (heldState s)))

/-- The exchange phase, and the messages of q1. What the last element waits for, and a word that cannot be corrected, are the
model's choice (logs 2 and 107). -/
def Obligations.ExchangeAndMessages : Prop := StatementParts.ExchangePhase ∧ StatementParts.MessagePush

/-- CREW and CREW_FORM: a good descriptor makes the slot wait, a bad one traps; the crew forms when every named core has a
slot that waits with it and none crewed; CREW then completes with the member's index. Slots that wait with different
descriptors all trap, or all wait (02 R25). -/
def StatementParts.CrewForms : Prop :=
  ∀ (s : State) (a b : GReg),
    (∀ g : Rect, s.me.wait = .none → s.me.crew = none → s.ports [b] [a] = .ok () →
      s.groupRect s.cur.core = some g →
      (crewBad (s.readG b).1 (colOf s.cur.core - g.x) (rowOf s.cur.core - g.y) g.w g.h = false →
        (∀ k : Fin 4, k ≠ s.cur.slot → (s.slotOf s.cur.core k.val).crew = none) →
        ∃ t, exec (.crew a b) s = .next t ∧ t.me.wait = .crew (s.readG b).1 ∧ t.me.held = true ∧
          t.me.pc = s.me.pc ∧ t.mem = s.mem ∧ t.me.g = s.me.g) ∧
      (crewBad (s.readG b).1 (colOf s.cur.core - g.x) (rowOf s.cur.core - g.y) g.w g.h = true →
        exec (.crew a b) s = .next (trapped s 0x02 0 0))) ∧
    (∀ i : Nat, s.me.wait = .formed i → s.ports [b] [a] = .ok () → a.val ≠ 25 →
      exec (.crew a b) s = .next (put (s.readG b).2 a (BitVec.ofNat 64 i)).retire) ∧
    (s.me.wait = .clash → exec (.crew a b) s = .next (trapped s 0x02 0 0)) ∧
    (∀ w : Word, s.me.wait = .crew w → s.otherCrewed = false →
      (s.crewClash s.cur.core w = false → exec (.crew a b) s = .next (heldState s)) ∧
      (s.crewClash s.cur.core w = true →
        exec (.crew a b) s = .next (heldState s) ∨
        exec (.crew a b) s = .next (trapped (s.markClashes s.cur.core) 0x02 0 0))) ∧
    (∀ (c : Nat) (k : Fin 4) (w : Word), (s.slotOf c k.val).wait = .crew w →
      (∀ m ∈ s.crewCores c w, ((s.coreOf m).waitsFor w).isSome = true) →
      (∀ m ∈ s.crewCores c w, ∀ j : Fin 4, (s.slotOf m j.val).crew = none) →
      ∃ t, exec (.crewForm c k) s = .next t ∧ t.mem = s.mem ∧
        ∀ m ∈ s.crewCores c w, ∀ j, (s.coreOf m).waitsFor w = some j →
          ∃ (i : Nat) (y : Crew), (t.slotOf m j).wait = .formed i ∧ (t.slotOf m j).crew = some y ∧ y.desc = w ∧
            y.index = i ∧ y.size = bits w 16 5 * bits w 24 3) ∧
    (∀ (c : Nat) (k : Fin 4), (∀ w, (s.slotOf c k.val).wait ≠ .crew w) → exec (.crewForm c k) s = .next s)

/-- ILL executed by the leader of a crew: it holds until every member has reached the word (log 52, the model's choice), and
then all of them trap there and are in no crew (03 R53, 02 R28). -/
def StatementParts.CrewIll : Prop :=
  ∀ (s : State) (a b : Fin 32) (x : Crew), s.me.crew = some x → x.index = 0 →
    ((∃ m ∈ x.members, ∃ y, (s.slotOf m.1 m.2).crew = some y ∧ y.due ≠ []) →
      exec (.ill a b) s = .next (heldState s)) ∧
    (x.members.Nodup → (s.cur.core, s.cur.slot.val) ∈ x.members →
      (∀ m ∈ x.members, m.2 < 4 ∧ handled s m.1 m.2 0x01 ∧
        ∃ y, (s.slotOf m.1 m.2).crew = some y ∧ y.members = x.members ∧ y.due = []) →
      ∃ t, exec (.ill a b) s = .next t ∧
        ∀ m ∈ x.members, (t.slotOf m.1 m.2).trappc = s.me.pc ∧ (t.slotOf m.1 m.2).trapcode = 0x01 ∧
          (t.slotOf m.1 m.2).trapdetail = 0 ∧ (t.slotOf m.1 m.2).crew = none)

/-- CREW, the forming of a crew, and ILL in one. What the spec leaves open of a crew is the model's choice (log 52). -/
def Obligations.CrewResults : Prop := StatementParts.CrewForms ∧ StatementParts.CrewIll

namespace Sys2Proof.Claims

/-- How a cycle of a slot ends once its attempt at `s0` has answered: a DOM0 release of its core is over for its committees,
the sequencer catches up, popped q7 elements leave the pending counts, and every slot of the core counts the cycle, those of
the other slots that do not outrank it by whether they were ready in it (02 R19, 10 R195, R205; log 128, the model's
choice). -/
def ending (s s0 : State) (o : Outcome) : Outcome :=
  match o with
  | .next t =>
    .next (((({ t with cur := s.cur } : State).endIssue.catchUp).afterPops s.cur.core).modCore s.cur.core
      (fun x => x.endCycle s.cur.slot.val s0.paused
        (if t.me.held then [] else s.readyBehind s.cur.core s.cur.slot)))
  | .fault f => .fault f
  | .refused r => .refused r

/-- The slot of the step may issue what it fetches: it runs, waits for nothing, has no deferred trap, is in no crew, its
sequencer waits for no page and its fetch for no store, and it has no word read ahead. -/
def mayFetch (s : State) : Prop :=
  s.mayIssue = true ∧ s.me.deferred = none ∧ s.me.wait = .none ∧ s.me.crew = none ∧ s.me.early = [] ∧
  s.me.vmiss = false ∧ s.me.fencing = false

/-- The same, and it collects no loop body. -/
def fetches (s : State) : Prop := mayFetch s ∧ s.me.collect = none

/-- The words `ws` of the instruction at the pc stand in the slot's buffer. -/
def fetched (s : State) (ws : List Half) : State := s.modMe (fun t => { t with ahead := (t.pc, ws) })

/-- The state in which an instruction whose words are `ws` executes: they stand in the slot's buffer, and `npc` follows
them. -/
def issued (s : State) (ws : List Half) : State :=
  s.modMe (fun t => { t with ahead := (t.pc, ws), npc := t.pc + BitVec.ofNat 48 (2 * ws.length) })

/-- The words `ws` stand in the self window at the pc of the slot of the step, which may fetch them (07 R137, 03 R52). -/
def standsAtPc (s : State) (ws : List Half) : Prop :=
  s.me.ahead = (0, []) ∧ s.me.pc.toNat + 2 * ws.length ≤ 2 ^ 20 ∧
  ∀ j, ∀ w : Half, ws[j]? = some w →
    bytesAt s (sram s.cur.core (s.me.pc.toNat + 2 * j)) 2 = w.toNat ∧
    s.poisonedIn (sram s.cur.core (s.me.pc.toNat + 2 * j)) 2 = false ∧
    (s.isFw s.cur.core = true ∨ s.myCore.grants [100] (s.me.pc.toNat + 2 * j) 2 = true)

/-- The vector and mask instructions that the integer pipe passes to the sequencer, each with its general source field,
if it has one (22 R386, 20 R333, R325). -/
def passed : Instr → Option (Option GReg)
  | .vld _ b _ _ _ => some (some b) | .vst _ b _ _ _ => some (some b)
  | .vldc _ b _ _ _ => some (some b) | .vstc _ b _ _ _ => some (some b)
  | .vadd _ _ _ _ => some none | .vsub _ _ _ _ => some none | .vmul _ _ _ _ => some none
  | .vfma _ _ _ _ _ => some none | .vmin _ _ _ _ => some none | .vmax _ _ _ _ => some none
  | .vabs _ _ _ _ => some none | .vneg _ _ _ _ => some none | .vexp _ _ _ _ => some none | .vln _ _ _ _ => some none
  | .vrcp _ _ _ _ => some none | .vrsq _ _ _ _ => some none | .vclt _ _ _ _ _ => some none
  | .vcle _ _ _ _ _ => some none | .vceq _ _ _ _ _ => some none | .vsel _ _ _ _ _ => some none
  | .vbcast _ b _ => some (some b) | .vmovv _ b _ _ => some (some b) | .vgath _ b _ _ _ => some (some b)
  | .vscat _ b _ _ _ => some (some b) | .vpack _ _ _ _ => some none | .vcmpk _ _ _ _ => some none
  | .vrsum _ _ _ => some none | .vrmax _ _ _ => some none | .vargmx _ _ _ => some none
  | .vcvt _ _ _ _ _ => some none | .vhad _ _ _ _ _ _ => some none | .vihad _ _ _ _ _ _ => some none
  | .vand _ _ _ _ => some none | .vor _ _ _ _ => some none | .vxor _ _ _ _ => some none
  | .vshl _ _ _ _ => some none | .vshr _ _ _ _ => some none | .kand _ _ _ => some none | .kor _ _ _ => some none
  | .knot _ _ => some none | .kmovKFromG _ b => some (some b) | .kmovKFromK _ _ => some none
  | .gmask _ b => some (some b)
  | _ => none

/-- The slot may dispatch one more vector instruction on its own: no replay queue, no VLOOP body, room for 16 (09 R182). -/
def mayPass (s : State) : Prop := s.me.replay = [] ∧ s.me.collect = none ∧ seqSize s.me.seq < 16

/-- The state with an execution put behind those of the slot's sequencer. -/
def behind (s : State) (e : VEntry) : State := s.modMe (fun t => { t with seq := t.seq ++ [.op e] })

/-- The sequencer of the slot of the step executes `i` next, dispatched at `pc` with the value `g`, before `rest`; no store
of the integer pipe waits behind it (08 R153). -/
def executes (s : State) (i : Instr) (pc : VAddr) (g : Word) (rest : List SeqItem) : Prop :=
  s.me.seq = .op ⟨i, pc, g⟩ :: rest ∧ s.me.deferred = none ∧ s.me.run = .running ∧ s.frozen s.cur.core = false ∧
  (∀ a, s.me.wait ≠ .page a) ∧ s.me.vmiss = false ∧ s.me.buffer = []

/-- No stream is bound to the register (09 R180). -/
def plain (s : State) (v : VReg) : Prop := s.me.bound v = none

/-- Lane `i` of vector register `v`, as a number below 2^width. -/
def lane (s : State) (v : VReg) (t : LaneType) (i : Nat) : Nat :=
  (vget s.me.v v.val 0).toNat / 2 ^ (t.width * i) % 2 ^ t.width

/-- Lane `i` is active under the mask field: field 0 activates every lane (22 R388). -/
def active (s : State) (x : KReg) (i : Nat) : Prop := x = 0 ∨ (vget s.me.k x.val 0).getLsbD i = true

/-- From `s` to `u` the sequencer has executed its next entry; memory, the general registers and the ports stay. -/
def ran (s u : State) (rest : List SeqItem) : Prop :=
  u.me.seq = rest ∧ u.mem = s.mem ∧ u.me.g = s.me.g ∧ u.me.pc = s.me.pc ∧ (∀ p, u.myCore.port p = s.myCore.port p)

/-- A pattern of `w` bits as a signed integer. -/
def signedLane (w x : Nat) : Int := if 2 ^ w ≤ 2 * x then (x : Int) - 2 ^ w else x

/-- The instructions of two vector sources that are exact on integer lanes, with their functions (05 R100, 22 R389-R391,
R397, R406). -/
def laneTable : List ((VReg → VReg → Option Third → LaneType → Instr) × (Nat → Nat → Nat → Nat)) :=
  [ (.vadd, fun w x y => (x + y) % 2 ^ w), (.vsub, fun w x y => (x + (2 ^ w - y)) % 2 ^ w),
    (.vmul, fun w x y => x * y % 2 ^ w),
    (.vmin, fun w x y => if signedLane w x ≤ signedLane w y then x else y),
    (.vmax, fun w x y => if signedLane w y ≤ signedLane w x then x else y),
    (.vand, fun _ x y => x &&& y), (.vor, fun _ x y => x ||| y), (.vxor, fun _ x y => x ^^^ y),
    (.vshl, fun w x y => x * 2 ^ (y % w) % 2 ^ w), (.vshr, fun w x y => x / 2 ^ (y % w)) ]

/-- The pattern of `w` bits of an integer. -/
def patternLane (w : Nat) (v : Int) : Nat := (v % (2 ^ w : Nat)).toNat

/-- An integer saturated to a lane of `w` bits (05 R103). -/
def clampLane (w : Nat) (v : Int) : Int := max (-(2 ^ (w - 1) : Nat)) (min ((2 ^ (w - 1) : Nat) - 1) v)

/-- xorshift64 (06 R117). -/
def xorshift (x : Nat) : Nat :=
  let a := x ^^^ x * 2 ^ 13 % 2 ^ 64
  let b := a ^^^ a / 2 ^ 7
  b ^^^ b * 2 ^ 17 % 2 ^ 64

/-- The sign of position `i` of a block under a seed (06 R117). -/
def sigma (seed i : Nat) : Int :=
  if seed = 0 then 1
  else if ((List.range (i / 64 + 1)).foldl (fun w _ => xorshift w) seed).testBit (i % 64) then -1 else 1

/-- Row `j` of the Sylvester Hadamard matrix of `n` rows times a vector (06 R119). -/
def hadamardRow (n : Nat) (x : Nat → Int) (j : Nat) : Int :=
  ((List.range n).map (fun i =>
    if ((List.range 8).filter (fun k => (i &&& j).testBit k)).length % 2 = 1 then -x i else x i)).sum

/-- Seed slot `n` as the instructions of the core of the step see it (06 R118). -/
def seedAt (s : State) (n : Fin 16) : Nat := if n = 0 then 0 else (vget s.mySeeds n.val 0).toNat

/-- The execution has recorded a deferred trap and has had no other effect (13 R248). -/
def deferredOnly (s u : State) (x : Trap) : Prop :=
  u.me.deferred = some x ∧ u.me.seq = s.me.seq ∧ u.me.v = s.me.v ∧ u.me.k = s.me.k ∧ u.mem = s.mem ∧
  (∀ p, u.myCore.port p = s.myCore.port p)

/-- Nothing of the integer pipe's stands between a vector access of the slot and memory (08 R150, R153). -/
def noStores (s : State) : Prop :=
  s.me.buffer = [] ∧ s.me.early = [] ∧ s.me.passed = [] ∧ s.me.deferStores = false

/-- A vector element of `n` bytes at a byte offset from a pointer: its address. -/
def elemAt (p : Word) (off : Int) : Nat := ((fatVa p : Int) + off).toNat

/-- The element lies in the self window, aligned, where the core may read it, or write it, now (22 R387, 07 R137). -/
def elemReady (s : State) (p : Word) (off : Int) (n : Nat) (writes : Bool) : Prop :=
  0 ≤ (fatVa p : Int) + off ∧ elemAt p off % n = 0 ∧ rowFor (elemAt p off) n = .self ∧
  (s.isFw s.cur.core || s.myCore.grants (localNeeds (!writes) writes) (elemAt p off) n) = true ∧
  s.ownRemote s.cur.core s.cur.slot.val (sram s.cur.core (elemAt p off)) n = false ∧
  (writes = false → readable s (sram s.cur.core (elemAt p off)) n)

/-- The bytes of an element of the self window, as a number. -/
def elemValue (s : State) (p : Word) (off : Int) (n : Nat) : Nat := bytesAt s (sram s.cur.core (elemAt p off)) n

/-- A vector load has executed into `a`: each active lane holds what `f` gives, and nothing else has changed. -/
def loaded (s u : State) (rest : List SeqItem) (a : VReg) (x : KReg) (t : LaneType) (f : Nat → Nat) : Prop :=
  ran s u rest ∧ (∀ i, i < t.lanes → active s x i → lane u a t i = f i) ∧
  (∀ i, i < t.lanes → ¬ active s x i → lane u a t i = lane s a t i) ∧
  (∀ v : VReg, v ≠ a → vget u.me.v v.val 0 = vget s.me.v v.val 0) ∧ u.me.k = s.me.k

/-- VEXP, VLN, VRCP and VRSQ as 22 R397 tabulates them: the special operands with their results and flags (NV 16, DZ 8), and
the result at 1 where it is exact. -/
def functionTable :
    List ((VReg → VReg → KReg → LaneType → Instr) × (Machine.Num → Option (Machine.Num × BitVec 5)) ×
      Option Machine.Num) :=
  [ (.vexp, fun z => match z with
      | .fin _ 0 _ => some (.fin false 1 0, 0) | .inf false => some (.inf false, 0)
      | .inf true => some (.fin false 0 0, 0) | .fin _ (_ + 1) _ => none | .nan _ => none, none),
    (.vln, fun z => match z with
      | .fin _ 0 _ => some (.inf true, 8) | .inf false => some (.inf false, 0) | .inf true => some (.nan false, 16)
      | .fin true (_ + 1) _ => some (.nan false, 16) | .fin false (_ + 1) _ => none | .nan _ => none,
      some (.fin false 0 0)),
    (.vrcp, fun z => match z with
      | .fin n 0 _ => some (.inf n, 8) | .inf n => some (.fin n 0 0, 0) | .fin _ (_ + 1) _ => none | .nan _ => none,
      some (.fin false 1 0)),
    (.vrsq, fun z => match z with
      | .fin n 0 _ => some (.inf n, 8) | .inf false => some (.fin false 0 0, 0) | .inf true => some (.nan false, 16)
      | .fin true (_ + 1) _ => some (.nan false, 16) | .fin false (_ + 1) _ => none | .nan _ => none,
      some (.fin false 1 0)) ]

/-- An execution has pushed `w` to q6; memory, the general and mask registers and the other ports stay. -/
def pushed (s u : State) (rest : List SeqItem) (w : Word) : Prop :=
  u.me.seq = rest ∧ u.mem = s.mem ∧ u.me.g = s.me.g ∧ u.me.k = s.me.k ∧ u.me.pc = s.me.pc ∧
  u.myCore.port 6 = s.myCore.port 6 ++ [w] ∧ (∀ p, p ≠ 6 → u.myCore.port p = s.myCore.port p)

/-- A vector store has executed: no register or port has changed, and every byte outside the elements at the offsets of the
active lanes reads as before. -/
def stored (s u : State) (rest : List SeqItem) (p : Word) (x : KReg) (lanes n : Nat) (off : Nat → Int) : Prop :=
  u.me.seq = rest ∧ u.me.g = s.me.g ∧ u.me.pc = s.me.pc ∧ u.me.v = s.me.v ∧ u.me.k = s.me.k ∧
  (∀ q, u.myCore.port q = s.myCore.port q) ∧
  ∀ adr, (∀ i, i < lanes → active s x i →
      adr < sram s.cur.core (elemAt p (off i)) ∨ sram s.cur.core (elemAt p (off i)) + n ≤ adr) →
    readCell u.mem adr = readCell s.mem adr

/-- The comparisons, on integer lanes (22 R394). -/
def compareTable : List ((KReg → VReg → VReg → KReg → LaneType → Instr) × (Int → Int → Bool)) :=
  [ (.vclt, fun x y => decide (x < y)), (.vcle, fun x y => decide (x ≤ y)), (.vceq, fun x y => decide (x = y)) ]

/-- A value rounded to FP32, nearest even. -/
def near32 (x : Machine.Num) : Machine.Num := fp32Fmt.read (fp32Fmt.encode .rne x).1

/-- A sum rounded to FP32. -/
def add32 (x y : Machine.Num) : Machine.Num := near32 (Machine.Num.add .rne x y).1

/-- The tree sum of `2^d` leaves (05 R108): the sums of the lower half and of the upper half, added. -/
def treeOf (add : Machine.Num → Machine.Num → Machine.Num) : Nat → (Nat → Machine.Num) → Machine.Num
  | 0, x => x 0
  | d + 1, x => add (treeOf add d x) (treeOf add d (fun i => x (i + 2 ^ d)))

/-- A number that is not finite. -/
def special (v : Machine.Num) : Bool :=
  match v with
  | .fin _ _ _ => false | .inf _ => true | .nan _ => true

end Sys2Proof.Claims

/-- Every vector and mask instruction that the sequencer executes is passed to it: the slot goes on at once, with the
general source read unless it is q5; it holds while 16 are held, and is illegal while the replay queue is not empty. -/
def StatementParts.VectorIssue : Prop :=
  ∀ (s : State) (i : Instr) (r : Option GReg), passed i = some r →
    (mayPass s →
      ((∀ b, r = some b → b.val = 29) → exec i s = .next (behind s ⟨i, s.me.pc, 0⟩).retire) ∧
      (∀ b, r = some b → b.val ≠ 29 → s.ports [b] [] = .ok () →
        exec i s = .next (behind (s.readG b).2 ⟨i, s.me.pc, (s.readG b).1⟩).retire)) ∧
    (s.me.replay ≠ [] → exec i s = .next (illegalAt s)) ∧
    (s.me.replay = [] → s.me.collect = none → 16 ≤ seqSize s.me.seq → exec i s = .next (heldState s)) ∧
    (∀ b, r = some b → b.val = 25 → mayPass s → exec i s = .next (trapped s 0x02 0 0))

/-- The vector loads and stores on the self window, executed: which bytes each active lane reads or writes, and that no other
byte, lane or register changes. VLD and VST move bits; VGATH and VSCAT index by element, the highest lane that names an
element writing it; VLDC converts from the pointer's format, VSTC into it, and an inexact narrowing without a tag is a
deferred lossy-narrowing trap with nothing stored. An element no region grants, and one out of alignment, is a deferred
trap. -/
def StatementParts.VectorMemory : Prop :=
  ∀ (s : State) (a c : VReg) (b : GReg) (d : Int) (x : KReg) (t : LaneType) (pc : VAddr) (g : Word)
      (rest : List SeqItem), b.val ≠ 29 → noStores s → plain s a → plain s c → fatOk g = true →
    (executes s (.vld a b d x t) pc g rest →
      (∀ i, i < t.lanes → active s x i → elemReady s g (d + (i * (t.width / 8) : Nat)) (t.width / 8) false) →
      ∃ u, s.seqStep = some u ∧
        loaded s u rest a x t (fun i => elemValue s g (d + (i * (t.width / 8) : Nat)) (t.width / 8))) ∧
    (Memory.wf s.mem = true → executes s (.vst a b d x t) pc g rest →
      (∀ i, i < t.lanes → active s x i → elemReady s g (d + (i * (t.width / 8) : Nat)) (t.width / 8) true) →
      ∃ u, s.seqStep = some u ∧ stored s u rest g x t.lanes (t.width / 8) (fun i => d + (i * (t.width / 8) : Nat)) ∧
        ∀ i, i < t.lanes → active s x i →
          elemValue u g (d + (i * (t.width / 8) : Nat)) (t.width / 8) = lane s a t i) ∧
    (executes s (.vgath a b c x t) pc g rest →
      (∀ i, i < t.lanes → active s x i →
        elemReady s g (lane s c t i * (t.width / 8) : Nat) (t.width / 8) false) →
      ∃ u, s.seqStep = some u ∧
        loaded s u rest a x t (fun i => elemValue s g (lane s c t i * (t.width / 8) : Nat) (t.width / 8))) ∧
    (Memory.wf s.mem = true → executes s (.vscat a b c x t) pc g rest →
      (∀ i, i < t.lanes → active s x i →
        elemReady s g (lane s c t i * (t.width / 8) : Nat) (t.width / 8) true) →
      ∃ u, s.seqStep = some u ∧
        stored s u rest g x t.lanes (t.width / 8) (fun i => (lane s c t i * (t.width / 8) : Nat)) ∧
        ∀ i, i < t.lanes → active s x i → (∀ j, i < j → j < t.lanes → active s x j → lane s c t j ≠ lane s c t i) →
          elemValue u g (lane s c t i * (t.width / 8) : Nat) (t.width / 8) = lane s a t i) ∧
    (∀ ty : Option LaneType, vFmtOk g = true → t = rawLane (fatFmt g) ty → (fatBlk g = 0 ∨ ty = none) →
      executes s (.vldc a b d x ty) pc g rest →
      (∀ i, i < t.lanes → active s x i →
        elemReady s g (d + (i * fmtBits (fatFmt g) / 8 : Nat)) (max 1 (fmtBits (fatFmt g) / 8)) false) →
      ∃ u, s.seqStep = some u ∧
        loaded s u rest a x t (fun i =>
          (laneEncode t (roundingOf s.me.rm) (fmtRead (fatFmt g)
            (if fmtBits (fatFmt g) = 4
              then elemValue s g (d + (i * fmtBits (fatFmt g) / 8 : Nat)) 1 / 16 ^ (i % 2) % 16
              else elemValue s g (d + (i * fmtBits (fatFmt g) / 8 : Nat)) (fmtBits (fatFmt g) / 8)))).1)) ∧
    (vFmtOk g = true → fatBlk g = 0 → 8 ≤ fmtBits (fatFmt g) → executes s (.vstc a b d x t) pc g rest →
      (∀ i, i < t.lanes → active s x i →
        elemReady s g (d + (i * (fmtBits (fatFmt g) / 8) : Nat)) (fmtBits (fatFmt g) / 8) true) →
      (Memory.wf s.mem = true →
        (fmtNarrow (fatFmt g) = true → ∀ i, i < t.lanes → active s x i →
          fmtExact (fatFmt g) (laneRead t (lane s a t i))
            (fmtEncode (fatFmt g) (roundingOf s.me.rm) (laneRead t (lane s a t i))).1 = true) →
        ∃ u, s.seqStep = some u ∧
          stored s u rest g x t.lanes (fmtBits (fatFmt g) / 8) (fun i => d + (i * (fmtBits (fatFmt g) / 8) : Nat)) ∧
          ∀ i, i < t.lanes → active s x i →
            elemValue u g (d + (i * (fmtBits (fatFmt g) / 8) : Nat)) (fmtBits (fatFmt g) / 8) =
              (fmtEncode (fatFmt g) (roundingOf s.me.rm) (laneRead t (lane s a t i))).1) ∧
      (fmtNarrow (fatFmt g) = true → (∃ i, i < t.lanes ∧ active s x i ∧
          fmtExact (fatFmt g) (laneRead t (lane s a t i))
            (fmtEncode (fatFmt g) (roundingOf s.me.rm) (laneRead t (lane s a t i))).1 = false) →
        ∃ u, s.seqStep = some u ∧ deferredOnly s u ⟨0x06, 0, pc.setWidth 64⟩)) ∧
    (∀ (i : Instr) (n : Nat), (i = .vld a b d x t ∧ n = 0) ∨ (i = .vst a b d x t ∧ n = 1) → executes s i pc g rest →
      (∀ j, j < t.lanes → active s x j → 0 ≤ (fatVa g : Int) + (d + (j * (t.width / 8) : Nat)) ∧
        (fatVa g : Int) + (d + (j * (t.width / 8) : Nat)) < 2 ^ 48) →
      ((∃ j, j < t.lanes ∧ active s x j ∧ elemAt g (d + (j * (t.width / 8) : Nat)) % (t.width / 8) ≠ 0) →
        ∃ u, s.seqStep = some u ∧ deferredOnly s u ⟨0x02, 0, pc.setWidth 64⟩) ∧
      ((∃ j, j < t.lanes ∧ active s x j) → s.isFw s.cur.core = false →
        (∀ j, j < t.lanes → active s x j → elemAt g (d + (j * (t.width / 8) : Nat)) % (t.width / 8) = 0 ∧
          rowFor (elemAt g (d + (j * (t.width / 8) : Nat))) (t.width / 8) = .self ∧
          s.myCore.grants (localNeeds (n == 0) (n == 1)) (elemAt g (d + (j * (t.width / 8) : Nat))) (t.width / 8) =
            false) →
        ∃ u, s.seqStep = some u ∧ deferredOnly s u ⟨0x04, n, pc.setWidth 64⟩))

/-- Dispatch to the sequencer, and the vector loads and stores executed. -/
def Obligations.VectorDispatch : Prop := StatementParts.VectorIssue ∧ StatementParts.VectorMemory

/-- VLOOP opens a body with its count read when it issues; a body's instructions join it, and the last one passes the loop
to the sequencer, or nothing where the count is 0. An instruction that may not stand in a body, VLOOP, VMOVG and KMOV to a
general register among them, is an illegal instruction there, with its fault in the base word (09 R182). -/
def Obligations.VectorLoop : Prop :=
  ∀ (s : State),
    (∀ (n : Nat) (b : GReg), s.me.replay = [] → s.me.collect = none →
      (b.val ≠ 29 → s.ports [b] [] = .ok () →
        exec (.vloop n b) s =
          .next ((s.readG b).2.modMe (fun t => { t with collect := some ⟨n, (s.readG b).1.toNat, []⟩ })).retire) ∧
      (b.val = 29 → exec (.vloop n b) s = .next (trapped s 0x02 0 0))) ∧
    (∀ (i : Instr) (left reps : Nat) (body : List VEntry), s.me.replay = [] → passed i = some none →
      s.me.collect = some ⟨left, reps, body⟩ → seqSize s.me.seq + body.length < 16 →
      ∃ t, exec i s = .next t ∧ t.me.pc = s.me.npc ∧ t.myCore.retired = s.myCore.retired ∧
        (1 < left → t.me.collect = some ⟨left - 1, reps, body ++ [⟨i, s.me.pc, 0⟩]⟩ ∧ t.me.seq = s.me.seq) ∧
        (left ≤ 1 → t.me.collect = none ∧
          t.me.seq = s.me.seq ++ (if reps = 0 then [] else [.loop (body ++ [⟨i, s.me.pc, 0⟩]) reps 0]))) ∧
    (∀ (ws : List Half) (i : Instr), s.cur.core < 5120 → s.schedule = [] → mayFetch s.catchUp →
      s.catchUp.me.collect ≠ none → decode ws = .ok i ws.length → standsAtPc s.catchUp ws → passed i = none →
      step s = ending s s.catchUp (.next (trapped (fetched s.catchUp ws) 0x01 0
        (BitVec.ofNat 64 (s.catchUp.me.pc.toNat + 2 * (ws.length - 1)))))) ∧
    (∀ (n : Nat) (b : GReg) (a : GReg) (v : VReg) (m : Nat) (t : LaneType) (k : KReg),
      passed (.vloop n b) = none ∧ passed (.vmovg a v m t) = none ∧ passed (.kmovGFromK a k) = none)

/-- The two-source instructions on integer lanes, executed: each active lane takes the exact function of its sources, cut
to the lane, inactive lanes and every other vector register keep their bits, and no flag changes. -/
def StatementParts.IntegerLanes : Prop :=
  ∀ p ∈ laneTable, ∀ (s : State) (a b : VReg) (t : LaneType) (pc : VAddr) (g : Word) (rest : List SeqItem),
    t.isFloat = false → plain s a → plain s b →
    (executes s (p.1 a b none t) pc g rest →
      ∃ u, s.seqStep = some u ∧ ran s u rest ∧ u.me.fflags = s.me.fflags ∧
        (∀ i, i < t.lanes → lane u a t i = p.2 t.width (lane s a t i) (lane s b t i)) ∧
        (∀ v : VReg, v ≠ a → vget u.me.v v.val 0 = vget s.me.v v.val 0)) ∧
    (∀ c : Third, plain s c.reg → executes s (p.1 a b (some c) t) pc g rest →
      ∃ u, s.seqStep = some u ∧ ran s u rest ∧ u.me.fflags = s.me.fflags ∧
        (∀ i, i < t.lanes → active s c.mask i → lane u a t i = p.2 t.width (lane s b t i) (lane s c.reg t i)) ∧
        (∀ i, i < t.lanes → ¬ active s c.mask i → lane u a t i = lane s a t i) ∧
        (∀ v : VReg, v ≠ a → vget u.me.v v.val 0 = vget s.me.v v.val 0))

/-- VCLT, VCLE and VCEQ on integer lanes, executed: bit i of the mask register is the relation for an active lane, keeps
for an inactive one, and is 0 past the last lane. -/
def StatementParts.IntegerCompares : Prop :=
  ∀ p ∈ compareTable, ∀ (s : State) (a : KReg) (b c : VReg) (x : KReg) (t : LaneType) (pc : VAddr) (g : Word)
      (rest : List SeqItem),
    t.isFloat = false → plain s b → plain s c → executes s (p.1 a b c x t) pc g rest →
    ∃ u, s.seqStep = some u ∧ ran s u rest ∧ u.me.fflags = s.me.fflags ∧ u.me.v = s.me.v ∧
      (∀ i, i < t.lanes → active s x i →
        (vget u.me.k a.val 0).getLsbD i = p.2 (signedLane t.width (lane s b t i)) (signedLane t.width (lane s c t i))) ∧
      (∀ i, i < t.lanes → ¬ active s x i → (vget u.me.k a.val 0).getLsbD i = (vget s.me.k a.val 0).getLsbD i) ∧
      (∀ i, t.lanes ≤ i → (vget u.me.k a.val 0).getLsbD i = false) ∧
      (∀ k : KReg, k ≠ a → vget u.me.k k.val 0 = vget s.me.k k.val 0)

/-- VFMA, VABS, VNEG and VCVT between integer lane types, executed: multiply and add modulo 2^w, magnitude and negation modulo
2^w, and conversion with saturation, lanes past the source's being 0; inactive lanes and other registers keep. -/
def StatementParts.IntegerOps : Prop :=
  ∀ (s : State) (a b c : VReg) (x : KReg) (t ts : LaneType) (pc : VAddr) (g : Word) (rest : List SeqItem),
    t.isFloat = false → ts.isFloat = false → plain s a → plain s b → plain s c →
    (executes s (.vfma a b c x t) pc g rest →
      ∃ u, s.seqStep = some u ∧ u.me.fflags = s.me.fflags ∧
        loaded s u rest a x t (fun i => (lane s a t i + lane s b t i * lane s c t i) % 2 ^ t.width)) ∧
    (executes s (.vabs a b x t) pc g rest →
      ∃ u, s.seqStep = some u ∧ u.me.fflags = s.me.fflags ∧
        loaded s u rest a x t (fun i => (signedLane t.width (lane s b t i)).natAbs)) ∧
    (executes s (.vneg a b x t) pc g rest →
      ∃ u, s.seqStep = some u ∧ u.me.fflags = s.me.fflags ∧
        loaded s u rest a x t (fun i => (2 ^ t.width - lane s b t i) % 2 ^ t.width)) ∧
    (executes s (.vcvt a b ts x t) pc g rest →
      ∃ u, s.seqStep = some u ∧
        loaded s u rest a x t (fun i => if i < ts.lanes
          then patternLane t.width (clampLane t.width (signedLane ts.width (lane s b ts i))) else 0))

/-- VHAD and VIHAD on integer lanes, executed: each active lane takes its row of the Hadamard product of its block, signed
by the seed before (VHAD) or after (VIHAD), saturated to the lane; VIHAD's row is divided by the block size, here where that
is exact. A named seed that is zero is a deferred trap. -/
def StatementParts.Hadamard : Prop :=
  ∀ (s : State) (a b : VReg) (blk : Nat) (n : Fin 16) (x : KReg) (t : LaneType) (pc : VAddr) (g : Word)
      (rest : List SeqItem),
    t.isFloat = false → plain s a → plain s b → 2 ^ (blk + 3) ≤ t.lanes →
    ((n = 0 ∨ seedAt s n ≠ 0) →
      (executes s (.vhad a b blk n x t) pc g rest →
        ∃ u, s.seqStep = some u ∧ loaded s u rest a x t (fun i =>
          patternLane t.width (clampLane t.width (hadamardRow (2 ^ (blk + 3))
            (fun p => sigma (seedAt s n) p *
              signedLane t.width (lane s b t (i / 2 ^ (blk + 3) * 2 ^ (blk + 3) + p))) (i % 2 ^ (blk + 3)))))) ∧
      (∀ z : Nat → Int, executes s (.vihad a b blk n x t) pc g rest →
        (∀ i, i < t.lanes → hadamardRow (2 ^ (blk + 3))
          (fun p => signedLane t.width (lane s b t (i / 2 ^ (blk + 3) * 2 ^ (blk + 3) + p))) (i % 2 ^ (blk + 3)) =
            2 ^ (blk + 3) * z i) →
        ∃ u, s.seqStep = some u ∧ loaded s u rest a x t (fun i =>
          patternLane t.width (clampLane t.width (sigma (seedAt s n) (i % 2 ^ (blk + 3)) * z i))))) ∧
    (n ≠ 0 → seedAt s n = 0 →
      (executes s (.vhad a b blk n x t) pc g rest ∨ executes s (.vihad a b blk n x t) pc g rest) →
      ∃ u, s.seqStep = some u ∧ deferredOnly s u ⟨0x09, 0, pc.setWidth 64⟩)

/-- Integer lanes: results, compares, conversions and rotations. -/
def Obligations.IntegerVectors : Prop := StatementParts.IntegerLanes ∧ StatementParts.IntegerCompares ∧ StatementParts.IntegerOps ∧ StatementParts.Hadamard

/-- Mask instructions and lane moves: KAND, KOR, KNOT, KMOV to a mask register, VBCAST, VMOVV and VSEL as executed; VMOVG
and KMOV gA, kB complete in the integer pipe once the sequencer is empty. -/
def StatementParts.MaskMoves : Prop :=
  ∀ (s : State) (pc : VAddr) (g : Word) (rest : List SeqItem),
    (∀ (a b : KReg) (i : Instr) (w : Word),
      ((i = .kand a b none ∧ w = vget s.me.k a.val 0 &&& vget s.me.k b.val 0) ∨
        (i = .kor a b none ∧ w = vget s.me.k a.val 0 ||| vget s.me.k b.val 0) ∨
        (∃ c : KReg, i = .kand a b (some c) ∧ w = vget s.me.k b.val 0 &&& vget s.me.k c.val 0) ∨
        (∃ c : KReg, i = .kor a b (some c) ∧ w = vget s.me.k b.val 0 ||| vget s.me.k c.val 0) ∨
        (i = .knot a b ∧ w = ~~~ vget s.me.k b.val 0) ∨
        (i = .kmovKFromK a b ∧ w = vget s.me.k b.val 0) ∨
        (∃ c : GReg, c.val ≠ 29 ∧ i = .kmovKFromG a c ∧ w = g)) →
      executes s i pc g rest →
      ∃ u, s.seqStep = some u ∧ ran s u rest ∧ u.me.v = s.me.v ∧ vget u.me.k a.val 0 = w ∧
        (∀ k : KReg, k ≠ a → vget u.me.k k.val 0 = vget s.me.k k.val 0)) ∧
    (∀ (a : VReg) (b : GReg) (t : LaneType), b.val ≠ 29 → plain s a → executes s (.vbcast a b t) pc g rest →
      ∃ u, s.seqStep = some u ∧ ran s u rest ∧ ∀ i, i < t.lanes → lane u a t i = g.toNat % 2 ^ t.width) ∧
    (∀ (a : VReg) (b : GReg) (n : Nat) (t : LaneType), b.val ≠ 29 → n < t.lanes → plain s a →
      executes s (.vmovv a b n t) pc g rest →
      ∃ u, s.seqStep = some u ∧ ran s u rest ∧ lane u a t n = g.toNat % 2 ^ t.width ∧
        ∀ i, i < t.lanes → i ≠ n → lane u a t i = lane s a t i) ∧
    (∀ (a b c : VReg) (x : KReg) (t : LaneType), plain s a → plain s b → plain s c →
      executes s (.vsel a b c x t) pc g rest →
      ∃ u, s.seqStep = some u ∧ ran s u rest ∧
        ∀ i, i < t.lanes → (active s x i → lane u a t i = lane s b t i) ∧ (¬ active s x i → lane u a t i = lane s c t i)) ∧
    (∀ (a : GReg) (b : VReg) (n : Nat) (t : LaneType), s.me.replay = [] → s.me.seq = [] → s.ports [] [a] = .ok () →
      a.val ≠ 29 → a.val ≠ 25 → plain s b →
      exec (.vmovg a b n t) s = .next (put s a (if t.isFloat then BitVec.ofNat 64 (lane s b t n)
        else BitVec.ofInt 64 (signedLane t.width (lane s b t n)))).retire) ∧
    (∀ (a : GReg) (b : KReg), s.me.replay = [] → s.me.seq = [] → s.ports [] [a] = .ok () → a.val ≠ 29 → a.val ≠ 25 →
      exec (.kmovGFromK a b) s = .next (put s a (vget s.me.k b.val 0)).retire) ∧
    (∀ (a : GReg) (b : KReg), s.me.replay = [] → s.me.seq ≠ [] → exec (.kmovGFromK a b) s = .next (heldState s))

/-- VPACK, VCMPK, VRSUM, VRMAX, VARGMX and GMASK, executed with room in q6, on which those but GMASK wait: VPACK moves the
active lanes down and pushes their number; VCMPK keeps the two largest magnitudes of every four lanes, the lower position
first among equals, and pushes their positions; the reductions of integer lanes push the sum modulo 2^64, the largest lane and
its lowest index; GMASK writes minus infinity where the mask word has a 0. -/
def StatementParts.LaneReductions : Prop :=
  ∀ (s : State) (a b : VReg) (x : KReg) (t : LaneType) (pc : VAddr) (g : Word) (rest : List SeqItem),
    plain s a → plain s b →
    (s.myCore.inUse 6 < 16 →
      (executes s (.vpack a b x t) pc g rest →
        ∃ u n, s.seqStep = some u ∧ pushed s u rest (BitVec.ofNat 64 n) ∧ n ≤ t.lanes ∧
          (∃ f : Nat → Nat, (∀ j, j < n → f j < t.lanes ∧ active s x (f j) ∧ lane u a t j = lane s b t (f j)) ∧
            (∀ i j, i < j → j < n → f i < f j) ∧ (∀ i, i < t.lanes → active s x i → ∃ j, j < n ∧ f j = i)) ∧
          (∀ j, n ≤ j → j < t.lanes → lane u a t j = 0) ∧
          (∀ v : VReg, v ≠ a → vget u.me.v v.val 0 = vget s.me.v v.val 0)) ∧
      (t.isFloat = false → executes s (.vcmpk a b x t) pc g rest →
        ∃ (u : State) (w : Word), s.seqStep = some u ∧ pushed s u rest w ∧ w.toNat < 2 ^ t.lanes ∧
          (∀ j, j < t.lanes / 4 → ∀ i0 i1 : Nat, i0 = w.toNat / 2 ^ (4 * j) % 4 → i1 = w.toNat / 2 ^ (4 * j + 2) % 4 →
            ∀ inp : Nat → Nat, (∀ p, (active s x (4 * j + p) → inp p = lane s b t (4 * j + p)) ∧
                (¬ active s x (4 * j + p) → inp p = 0)) →
              i0 < i1 ∧ lane u a t (2 * j) = inp i0 ∧ lane u a t (2 * j + 1) = inp i1 ∧
                ∀ p q, p < 4 → p ≠ i0 → p ≠ i1 → (q = i0 ∨ q = i1) →
                  (signedLane t.width (inp p)).natAbs < (signedLane t.width (inp q)).natAbs ∨
                  ((signedLane t.width (inp p)).natAbs = (signedLane t.width (inp q)).natAbs ∧ q < p)) ∧
          (∀ j, t.lanes / 4 * 2 ≤ j → j < t.lanes → lane u a t j = 0) ∧
          (∀ v : VReg, v ≠ a → vget u.me.v v.val 0 = vget s.me.v v.val 0)) ∧
      (t.isFloat = false →
        (executes s (.vrsum b x t) pc g rest →
          ∀ f : Nat → Int, (∀ i, (active s x i → f i = signedLane t.width (lane s b t i)) ∧ (¬ active s x i → f i = 0)) →
            ∃ u, s.seqStep = some u ∧ u.me.v = s.me.v ∧
              pushed s u rest (BitVec.ofInt 64 ((List.range t.lanes).map f).sum)) ∧
        (executes s (.vrmax b x t) pc g rest →
          ((∀ i, i < t.lanes → ¬ active s x i) →
            ∃ u, s.seqStep = some u ∧ u.me.v = s.me.v ∧
              pushed s u rest (BitVec.ofInt 64 (-(2 ^ (t.width - 1) : Nat)))) ∧
          (∀ i, i < t.lanes → active s x i →
            (∀ j, j < t.lanes → active s x j →
              signedLane t.width (lane s b t j) ≤ signedLane t.width (lane s b t i)) →
            ∃ u, s.seqStep = some u ∧ u.me.v = s.me.v ∧
              pushed s u rest (BitVec.ofInt 64 (signedLane t.width (lane s b t i))))) ∧
        (executes s (.vargmx b x t) pc g rest →
          ((∀ i, i < t.lanes → ¬ active s x i) →
            ∃ u, s.seqStep = some u ∧ u.me.v = s.me.v ∧ pushed s u rest 0xFFFFFFFFFFFFFFFF) ∧
          (∀ i, i < t.lanes → active s x i →
            (∀ j, j < t.lanes → active s x j →
              signedLane t.width (lane s b t j) ≤ signedLane t.width (lane s b t i) ∧
              (j < i → signedLane t.width (lane s b t j) < signedLane t.width (lane s b t i))) →
            ∃ u, s.seqStep = some u ∧ u.me.v = s.me.v ∧ pushed s u rest (BitVec.ofNat 64 i))))) ∧
    (16 ≤ s.myCore.inUse 6 →
      ∀ i ∈ ([.vpack a b x t, .vcmpk a b x t, .vrsum b x t, .vrmax b x t, .vargmx b x t] : List Instr),
        executes s i pc g rest → s.seqStep = none) ∧
    (∀ c : GReg, c.val ≠ 29 → noStores s → fatOk g = true → elemReady s g 0 2 false → executes s (.gmask a c) pc g rest →
      ∃ u, s.seqStep = some u ∧ ran s u rest ∧
        (∀ i, i < 16 → lane u a .fp32 i =
          (if (elemValue s g 0 2).testBit i then lane s a .fp32 i else 0xFF800000)) ∧
        (∀ v : VReg, v ≠ a → vget u.me.v v.val 0 = vget s.me.v v.val 0))

/-- Mask instructions, lane moves, packs, reductions and GMASK. -/
def Obligations.MaskAndMoves : Prop := StatementParts.MaskMoves ∧ StatementParts.LaneReductions

/-- NaNs in VADD, VSUB and VMUL on float lanes: with FMODE's enables clear, an active lane with a NaN source takes the
canonical NaN of the lane type, and one with a signalling NaN sets NV in FFLAGS. -/
def StatementParts.NanResults : Prop :=
  ∀ mk ∈ ([.vadd, .vsub, .vmul] : List (VReg → VReg → Option Third → LaneType → Instr)),
    ∀ (s : State) (a b : VReg) (t : LaneType) (m : FloatFmt) (pc : VAddr) (g : Word) (rest : List SeqItem),
      laneFmt t = some m → plain s a → plain s b → s.me.fen = 0 → executes s (mk a b none t) pc g rest →
      ∃ u, s.seqStep = some u ∧ ran s u rest ∧
        (∀ i, i < t.lanes → ((m.read (lane s a t i)).isNan = true ∨ (m.read (lane s b t i)).isNan = true) →
          lane u a t i = m.nanCode) ∧
        (∀ i, i < t.lanes → (m.read (lane s a t i) = .nan true ∨ m.read (lane s b t i) = .nan true) →
          u.me.fflags.getLsbD 4 = true) ∧
        (∀ j, s.me.fflags.getLsbD j = true → u.me.fflags.getLsbD j = true)

/-- VABS and VNEG on float lanes change the sign bit alone, and a NaN to the canonical one; VEXP, VLN, VRCP and VRSQ take the
special results of 22 R397, with DZ and NV, here with FMODE's enables clear. -/
def StatementParts.FloatSpecials : Prop :=
  ∀ (s : State) (a b : VReg) (x : KReg) (t : LaneType) (m : FloatFmt) (pc : VAddr) (g : Word) (rest : List SeqItem),
    laneFmt t = some m → plain s a → plain s b → s.me.fen = 0 →
    (∀ i ∈ ([.vabs a b x t, .vneg a b x t] : List Instr), executes s i pc g rest →
      ∃ u, s.seqStep = some u ∧ ran s u rest ∧
        ∀ j, j < t.lanes → active s x j →
          ((m.read (lane s b t j)).isNan = true → lane u a t j = m.nanCode) ∧
          ((m.read (lane s b t j)).isNan = false →
            (i = .vabs a b x t → lane u a t j = lane s b t j % 2 ^ (t.width - 1)) ∧
            (i = .vneg a b x t → lane u a t j = (lane s b t j + 2 ^ (t.width - 1)) % 2 ^ t.width))) ∧
    (∀ p ∈ functionTable, executes s (p.1 a b x t) pc g rest →
      ∃ u, s.seqStep = some u ∧ ran s u rest ∧
        (∀ j, j < t.lanes → active s x j →
          ((m.read (lane s b t j)).isNan = true → lane u a t j = m.nanCode) ∧
          (m.read (lane s b t j) = .nan true → u.me.fflags.getLsbD 4 = true) ∧
          (∀ r f, p.2.1 (m.read (lane s b t j)) = some (r, f) →
            lane u a t j = (m.encode .rne r).1 ∧ u.me.fflags &&& f = f) ∧
          (∀ r, p.2.2 = some r → lane s b t j = (m.encode .rne (.fin false 1 0)).1 →
            lane u a t j = (m.encode .rne r).1)) ∧
        (∀ j, s.me.fflags.getLsbD j = true → u.me.fflags.getLsbD j = true) ∧
        (∀ j, j < t.lanes → ¬ active s x j → lane u a t j = lane s a t j))

/-- VADD, VSUB, VMUL, VMIN, VMAX, VFMA, the comparisons, VCVT and the reductions on float lanes with no NaN among their sources
and FMODE's enables clear: each active lane is the exact result rounded once by FMODE.RM, the flags are those of the roundings,
inactive lanes keep, and VRSUM adds its tree with a rounding at each node (05 R100, R111, 22 R389-R398, R404). -/
def StatementParts.FloatLanes : Prop :=
  ∀ (s : State) (a b c : VReg) (x : KReg) (t : LaneType) (m : FloatFmt) (pc : VAddr) (g : Word) (rest : List SeqItem)
      (rm : Rounding), laneFmt t = some m → plain s a → plain s b → plain s c → s.me.fen = 0 → rm = roundingOf s.me.rm →
    (∀ p ∈ ([(.vadd, fun y z => Machine.Num.add rm y z), (.vsub, fun y z => Machine.Num.sub rm y z), (.vmul, fun y z => Machine.Num.mul y z)] :
        List ((VReg → VReg → Option Third → LaneType → Instr) × (Machine.Num → Machine.Num → Machine.Num × Flags))),
      (executes s (p.1 a b none t) pc g rest →
        ∃ u, s.seqStep = some u ∧ ran s u rest ∧
          (∀ i, i < t.lanes →
            lane u a t i = (m.encode rm (p.2 (m.read (lane s a t i)) (m.read (lane s b t i))).1).1) ∧
          (∀ j, u.me.fflags.getLsbD j = true ↔ s.me.fflags.getLsbD j = true ∨ ∃ i, i < t.lanes ∧
            (m.finish rm (p.2 (m.read (lane s a t i)) (m.read (lane s b t i)))).2.getLsbD j = true)) ∧
      (executes s (p.1 a b (some ⟨c, x⟩) t) pc g rest →
        ∃ u, s.seqStep = some u ∧ loaded s u rest a x t (fun i =>
          (m.encode rm (p.2 (m.read (lane s b t i)) (m.read (lane s c t i))).1).1))) ∧
    (∀ p ∈ ([(.vmin, fun y z => Num.below z y), (.vmax, fun y z => Num.below y z)] :
        List ((VReg → VReg → Option Third → LaneType → Instr) × (Machine.Num → Machine.Num → Bool))),
      executes s (p.1 a b none t) pc g rest →
      ∃ u, s.seqStep = some u ∧ ran s u rest ∧ ∀ i, i < t.lanes →
        (m.read (lane s a t i)).isNan = false → (m.read (lane s b t i)).isNan = false →
        lane u a t i = (if p.2 (m.read (lane s a t i)) (m.read (lane s b t i)) then lane s b t i else lane s a t i)) ∧
    (executes s (.vfma a b c x t) pc g rest →
      ∃ u, s.seqStep = some u ∧ loaded s u rest a x t (fun i =>
        (m.encode rm (Machine.Num.add rm (m.read (lane s a t i))
          (Machine.Num.mul (m.read (lane s b t i)) (m.read (lane s c t i))).1).1).1)) ∧
    (∀ ts : LaneType, executes s (.vcvt a b ts x t) pc g rest →
      ∃ u, s.seqStep = some u ∧ loaded s u rest a x t (fun i =>
        if i < ts.lanes then (m.encode rm (laneRead ts (lane s b ts i))).1 else 0)) ∧
    (∀ p ∈ ([(.vclt, fun y z => y.lt z), (.vcle, fun y z => !z.lt y), (.vceq, fun y z => !y.lt z && !z.lt y)] :
        List ((KReg → VReg → VReg → KReg → LaneType → Instr) × (Machine.Num → Machine.Num → Bool))),
      ∀ d : KReg, executes s (p.1 d b c x t) pc g rest →
      ∃ u, s.seqStep = some u ∧ ran s u rest ∧ u.me.v = s.me.v ∧
        (∀ i, i < t.lanes → active s x i → (vget u.me.k d.val 0).getLsbD i =
          (!(m.read (lane s b t i)).isNan && !(m.read (lane s c t i)).isNan &&
            p.2 (m.read (lane s b t i)) (m.read (lane s c t i)))) ∧
        (∀ i, i < t.lanes → ¬ active s x i → (vget u.me.k d.val 0).getLsbD i = (vget s.me.k d.val 0).getLsbD i)) ∧
    (s.myCore.inUse 6 < 16 →
      (executes s (.vrsum b x t) pc g rest → ∀ leaf : Nat → Machine.Num,
        (∀ i, (active s x i → leaf i = m.read (lane s b t i)) ∧ (¬ active s x i → leaf i = .fin true 0 0)) →
        (∃ i, i < t.lanes ∧ active s x i) →
        ∃ u, s.seqStep = some u ∧ u.me.v = s.me.v ∧ pushed s u rest (BitVec.ofNat 64 ((sumFmt t).encode rm
          (treeOf (fun y z => (sumFmt t).read ((sumFmt t).encode rm (Machine.Num.add rm y z).1).1) (Nat.log2 t.lanes)
            leaf)).1)) ∧
      (∀ i, i < t.lanes → active s x i →
        (∀ j, j < t.lanes → active s x j → (m.read (lane s b t j)).isNan = false ∧
          Num.below (m.read (lane s b t i)) (m.read (lane s b t j)) = false ∧
          (j < i → Num.below (m.read (lane s b t j)) (m.read (lane s b t i)) = true)) →
        (executes s (.vrmax b x t) pc g rest →
          ∃ u, s.seqStep = some u ∧ u.me.v = s.me.v ∧
            pushed s u rest (BitVec.ofNat 64 ((sumFmt t).encode .rne (m.read (lane s b t i))).1)) ∧
        (executes s (.vargmx b x t) pc g rest →
          ∃ u, s.seqStep = some u ∧ u.me.v = s.me.v ∧ pushed s u rest (BitVec.ofNat 64 i))))

/-- Rounding into fp64, fp32, bf16 and fp16 (05 R100): a code that is no NaN encodes to itself under every mode, with no flag;
and a finite number whose code is finite lies on the side that the mode asks for, NX being set exactly where the code has
another value. -/
def StatementParts.FloatRounding : Prop :=
  ∀ f ∈ [fp64Fmt, fp32Fmt, bf16Fmt, fp16Fmt], ∀ rm : Rounding,
    (∀ c, c < 2 ^ (1 + f.w + f.m) → (f.read c).isNan = false → f.encode rm (f.read c) = (c, 0)) ∧
    (∀ (n : Bool) (m : Nat) (e : Int) (v : Machine.Num) (y : Machine.Num), v = .fin n m e → y = f.read (f.encode rm v).1 →
      special y = false →
      (rm = .rdn → v.lt y = false) ∧ (rm = .rup → y.lt v = false) ∧ (rm = .rtz → v.abs.lt y.abs = false) ∧
      ((f.encode rm v).2.getLsbD 0 = false ↔ y.same v = true))

/-- Float lanes: NaNs, signs, the special results of the functions, finite results, reductions, and rounding. -/
def Obligations.FloatVectors : Prop := StatementParts.NanResults ∧ StatementParts.FloatSpecials ∧ StatementParts.FloatLanes ∧ StatementParts.FloatRounding

/-- A vector instruction that reads the exhausted stream of its slot, or reads a stream bound for writing, records a
deferred trap and takes no effect; so does one whose two-field form names a bound register as its destination. -/
def StatementParts.StreamTraps : Prop :=
  ∀ (s : State) (a b : VReg) (x : Stream) (t : LaneType) (pc : VAddr) (g : Word) (rest : List SeqItem),
    (∀ p ∈ laneTable, s.me.bound a = some x → executes s (p.1 a b none t) pc g rest →
      ∃ u, s.seqStep = some u ∧ deferredOnly s u ⟨0x02, 0, pc.setWidth 64⟩) ∧
    (executes s (.vadd a b none t) pc g rest → plain s a → s.me.bound b = some x →
    (x.writes = true →
      ∃ u, s.seqStep = some u ∧ u.me.deferred = some ⟨0x02, 0, pc.setWidth 64⟩ ∧ u.me.seq = s.me.seq ∧
        u.me.v = s.me.v ∧ u.mem = s.mem) ∧
    (x.writes = false → 8 * x.bytes = t.width → x.total ≤ x.pos →
      ∃ u, s.seqStep = some u ∧ u.me.deferred = some ⟨0x0B, b.val, pc.setWidth 64⟩ ∧ u.me.seq = s.me.seq ∧
        u.me.v = s.me.v ∧ u.mem = s.mem ∧ (vget u.me.streams b.val Stream.reset).ovr = true))

/-- SCFG loads the 64-byte descriptor of a stream that is not enabled, with its position at 0, and waits for the stream's own
markers; SEN passes a marker to the sequencer, behind the replay entries where there are any; SEN to 1 of an enabled or
unconfigured stream traps, SEN to 0 waits for the vector work and the elements pushed; a marker enables or disables when it is
reached. That a stream counts as enabled from its SEN on is the model's choice (log 16). -/
def StatementParts.StreamSetup : Prop :=
  ∀ (s : State) (n : Fin 4),
    (∀ (b : GReg) (adr : Nat), s.ports [b] [] = .ok () → ea (s.readG b).1 0 0 0 = .ok adr → adr % 64 = 0 →
      selfReady s adr 64 true false → s.me.willBeEnabled n = false →
      (streamBad (BitVec.ofNat 512 (bytesAt s (sram s.cur.core adr) 64)) = false →
        ∃ t, exec (.scfg n b) s = .next t ∧ t.mem = s.mem ∧ t.me.g = s.me.g ∧ t.me.pc = s.me.npc ∧
          vget t.me.streams n.val Stream.reset =
            ⟨BitVec.ofNat 512 (bytesAt s (sram s.cur.core adr) 64), true, false, false, 0, []⟩ ∧
          (∀ m : Fin 4, m ≠ n → vget t.me.streams m.val Stream.reset = vget s.me.streams m.val Stream.reset)) ∧
      (streamBad (BitVec.ofNat 512 (bytesAt s (sram s.cur.core adr) 64)) = true →
        exec (.scfg n b) s = .next (trapped s 0x02 0 0))) ∧
    (∀ b : GReg, s.ports [b] [] = .ok () →
      (s.me.marks n = true → exec (.scfg n b) s = .next (heldState s)) ∧
      (s.me.marks n = false → s.me.willBeEnabled n = true → exec (.scfg n b) s = .next (trapped s 0x02 0 0))) ∧
    (s.me.willBeEnabled n = false → (vget s.me.streams n.val Stream.reset).configured = true →
      (s.me.replay = [] →
        exec (.senEnable n) s = .next (s.modMe (fun t => { t with seq := t.seq ++ [.mark n true] })).retire) ∧
      (s.me.replay ≠ [] →
        exec (.senEnable n) s = .next (s.modMe (fun t => { t with replay := t.replay ++ [.mark n true] })).retire)) ∧
    ((s.me.willBeEnabled n = true ∨ (vget s.me.streams n.val Stream.reset).configured = false) →
      exec (.senEnable n) s = .next (trapped s 0x02 0 0)) ∧
    (s.me.seq = [] → s.me.replay = [] → s.me.willBeEnabled n = (vget s.me.streams n.val Stream.reset).en ∧
      s.me.marks n = false) ∧
    (s.me.seq = [] → s.me.replay = [] → s.pushesOut n = false →
      exec (.senDisable n) s = .next (s.modMe (fun t => { t with seq := [.mark n false] })).retire) ∧
    ((s.me.seq ≠ [] ∨ s.me.replay ≠ [] ∨ s.pushesOut n = true) → exec (.senDisable n) s = .next (heldState s)) ∧
    (∀ (e : Bool) (rest : List SeqItem), s.me.seq = .mark n e :: rest → s.me.deferred = none → s.me.run = .running →
      s.frozen s.cur.core = false → (∀ a, s.me.wait ≠ .page a) → s.me.vmiss = false →
      ∃ u, s.seqStep = some u ∧ u.me.seq = rest ∧ (vget u.me.streams n.val Stream.reset).en = e ∧
        (e = true → (vget u.me.streams n.val Stream.reset).pos = 0))

/-- SCFG and SEN, and the traps of streams. That a stream counts as enabled from its SEN on is the model's choice (log 16). -/
def Obligations.Streams : Prop := StatementParts.StreamSetup ∧ StatementParts.StreamTraps

namespace Sys2Proof.Claims

/-- Nothing that decides about tile `n` is in flight, and it is not the odd half of an FP64 pair (09 R166, R168). -/
def tileFree (s : State) (n : Nat) : Prop :=
  (s.myCore.planned.tileOf n).kind ≠ .odd ∧ s.myCore.inFlight n = false

/-- The registers, memory and other cores as before; the pc moves on. -/
def tileFrame (s t : State) : Prop :=
  t.me.g = s.me.g ∧ t.me.v = s.me.v ∧ t.mem = s.mem ∧ t.me.pc = s.me.npc ∧
  (∀ c, c ≠ s.cur.core → t.coreOf c = s.coreOf c)

/-- The running command of core `c` is `m`, of code `code`, and every read it makes can be made (21 R348-R352). -/
def mxRuns (s : State) (c : Nat) (m : MxRun) (code : Nat) : Prop :=
  (s.coreOf c).mxRun = some m ∧ recCode m.cmd.record = code ∧ m.done = none ∧ m.missing = false ∧ s.frozen c = false ∧
  (s.coreOf c).mxHem m.cmd.record = .ready ∧
  ∀ p ∈ s.mxReads c m.cmd.record, ∃ a, s.mxPlace c m.refused p.2.1 p.2.2 = .at a ∧ s.poisonedIn a p.2.2 = false

/-- 32-bit saturation (05 R110). -/
def clamp32 (v : Int) : Int := max (-2147483648) (min 2147483647 v)

/-- `v / 2^b`, rounded to nearest even. -/
def divEven (v : Int) (b : Nat) : Int :=
  let q := v / (2 ^ b : Nat)
  let r := v % (2 ^ b : Nat)
  if 2 * r < (2 ^ b : Nat) ∨ (2 * r = (2 ^ b : Nat) ∧ q % 2 = 0) then q else q + 1

/-- An INT32 element: groups of `g` products, or one block of `2^b` products where the operands carry K tags of that block-log,
summed exactly, each added with saturation (21 R350). -/
def mmaiSpec (a b : Nat → Int) (k g kb : Nat) (old : Int) : Int :=
  let n := if kb = 0 then g else 2 ^ kb
  (List.range ((k + n - 1) / n)).foldl
    (fun acc q => clamp32 (acc +
      divEven ((List.range n).map (fun i => if q * n + i < k then a (q * n + i) * b (q * n + i) else 0)).sum kb))
    old

/-- Step 3 of 05 R109: the sum of a group times the powers of two that apply to it; a scale that is the NaN makes a NaN. -/
def scaled32 (x : Machine.Num) (p q : Option Int) (kb : Nat) : Machine.Num :=
  match p, q with
  | some i, some j => near32 (x.scale (i + j - kb))
  | none, _ => .nan false
  | some _, none => .nan false

/-- An FP32 element of MMA and MMAS: the tree sums of groups of `g` products, scaled, added in turn; pruned products and
those past K are -0 (05 R109, 21 R348, R349). -/
def mmaSpec (a : Nat → Option Machine.Num) (b : Nat → Machine.Num) (sa sb : Nat → Option Int) (k g kb : Nat)
    (old : Machine.Num) : Machine.Num :=
  (List.range ((k + g - 1) / g)).foldl
    (fun acc q => add32 acc (scaled32
      (treeOf add32 (Nat.log2 g) (fun i =>
        if q * g + i < k then
          match a (q * g + i) with
          | some x => (Machine.Num.mul x (b (q * g + i))).1
          | none => .fin true 0 0
        else .fin true 0 0))
      (sa (q * g)) (sb (q * g)) kb))
    old

/-- An FP64 element of MMAD: one fused product at a time, K ascending (05 R110, 21 R351). -/
def mmadSpec (a b : Nat → Machine.Num) (k old : Nat) : Nat :=
  (List.range k).foldl (fun acc i => (fp64Fmt.encode .rne (Num.fma .rne (a i) (b i) (fp64Fmt.read acc)).1).1) old

/-- The element that a command of code `code` on core `c` leaves at row `i` and column `j` of its `M` by `N` (21 R345-R351). -/
def mxValue (s : State) (c code : Nat) (r : Rec) (g i j old : Nat) : Nat :=
  let kb : Nat := match (mxA r).kTag with | some (b, _) => b | none => 0
  if code = 3 then mmadSpec (s.mxAt c (mxA r) i) (s.mxAt c (mxB r) j) (mxK r) old
  else if code = 4 then
    patternLane 32 (mmaiSpec (fun k => (s.mxAt c (mxA r) i k).toInt) (fun k => (s.mxAt c (mxB r) j k).toInt) (mxK r) g
      kb (signedLane 32 (old % 2 ^ 32)))
  else
    (fp32Fmt.encode .rne (mmaSpec (s.mxAk c r i) (s.mxAt c (mxB r) j) (s.mxScale c r (mxA r) i)
      (s.mxScale c r (mxB r) j) (mxK r) g kb (fp32Fmt.read old))).1

/-- The command accumulates into its tile: it does not clear it, and the tile is valid and of its kind. -/
def mxKeeps (s : State) (c code : Nat) (r : Rec) : Bool :=
  !recClear r && ((s.coreOf c).tileOf (recTile r)).valid && ((s.coreOf c).tileOf (recTile r)).kind == mxKind code

/-- A 64-byte record in the self window that EPUSH may push: aligned, readable, with its checks passed. -/
def recordAt (s : State) (n : Nat) (p : Nat) (r : Rec) : Prop :=
  p % 64 = 0 ∧ p ≤ 0xFFFC0 ∧ selfReady s p 64 true false ∧ r = BitVec.ofNat 512 (bytesAt s (sram s.cur.core p) 64) ∧
  s.recordChecks n r = .ok () ∧ s.releaseReady s.cur.core s.cur.slot.val = true

end Sys2Proof.Claims

/-- TZERO, TWAIT and TDROP complete on a tile with nothing in flight: all zeros and valid, unchanged, not valid. They hold
while a command into it is in flight, and trap on the odd half of a pair. -/
def StatementParts.TileInstructions : Prop :=
  ∀ (s : State) (t : TReg),
    (tileFree s t.val →
      (∃ u, exec (.tzero t) s = .next u ∧ tileFrame s u ∧ (u.myCore.tileOf t.val).valid = true ∧
        (u.myCore.tileOf t.val).dirty = false ∧ (u.myCore.tileOf t.val).kind = .fp32 ∧
        (u.myCore.tileOf t.val).blk = 0 ∧ (∀ i, (u.myCore.tileOf t.val).elem i = 0)) ∧
      (exec (.twait t) s = .next s.retire) ∧
      (∃ u, exec (.tdrop t) s = .next u ∧ tileFrame s u ∧ (u.myCore.tileOf t.val).valid = false) ∧
      ((s.myCore.tileOf t.val).kind ≠ .fp64 → ∀ m : TReg, m ≠ t →
        ∃ u w, exec (.tzero t) s = .next u ∧ exec (.tdrop t) s = .next w ∧
          u.myCore.tileOf m.val = s.myCore.tileOf m.val ∧ w.myCore.tileOf m.val = s.myCore.tileOf m.val)) ∧
    ((s.myCore.planned.tileOf t.val).kind ≠ .odd → s.myCore.inFlight t.val = true →
      exec (.tzero t) s = .next (heldState s) ∧ exec (.twait t) s = .next (heldState s) ∧
      exec (.tdrop t) s = .next (heldState s)) ∧
    ((s.myCore.planned.tileOf t.val).kind = .odd →
      exec (.tzero t) s = .next (trapped s 0x02 0 0) ∧ exec (.twait t) s = .next (trapped s 0x02 0 0) ∧
      exec (.tdrop t) s = .next (trapped s 0x02 0 0))

/-- TSTAT completes; with an empty matrix unit its bits are V, dirty, F, the kind, the block code and the seed. -/
def StatementParts.TileStatus : Prop :=
  ∀ (s : State) (a : GReg) (t : TReg), s.ports [] [a] = .ok () → a.val ≠ 25 →
    exec (.tstat a t) s = .next (put s a (s.myCore.tstat t.val)).retire ∧
    (s.myCore.mxRun = none → s.myCore.mxQueue = [] → (s.myCore.tileOf t.val).blk < 8 →
      (s.myCore.tileOf t.val).seed < 16 →
      (s.myCore.tstat t.val).getLsbD 0 =
        ((s.myCore.tileOf t.val).valid && (s.myCore.tileOf t.val).kind != .odd) ∧
      (s.myCore.tstat t.val).getLsbD 1 = (s.myCore.tileOf t.val).dirty ∧
      (s.myCore.tstat t.val).getLsbD 2 = false ∧
      bits (s.myCore.tstat t.val) 4 4 = kindCode (s.myCore.tileOf t.val).kind ∧
      bits (s.myCore.tstat t.val) 8 3 = (s.myCore.tileOf t.val).blk ∧
      bits (s.myCore.tstat t.val) 11 4 = (s.myCore.tileOf t.val).seed)

/-- TZERO, TWAIT, TDROP and TSTAT. -/
def Obligations.Tiles : Prop := StatementParts.TileInstructions ∧ StatementParts.TileStatus

/-- TLOAD and TSAVE of an untagged FP32 image in the self window: element i lies at 4 i, little-endian; TSAVE clears the
dirty bit and writes no other byte. -/
def Obligations.TileImages : Prop :=
  ∀ (s : State) (t : TReg) (b : GReg) (d : Int) (e : Nat),
    s.ports [b] [] = .ok () → ea (s.readG b).1 d 0 0 = .ok e → fatFmt (s.readG b).1 = 2 → fatBlk (s.readG b).1 = 0 →
    e % 64 = 0 → tileFree s t.val →
    (selfReady s e 8192 true false →
      ∃ u, exec (.tload t b d) s = .next u ∧ tileFrame s u ∧ (u.myCore.tileOf t.val).valid = true ∧
        (u.myCore.tileOf t.val).dirty = false ∧ (u.myCore.tileOf t.val).kind = .fp32 ∧
        (u.myCore.tileOf t.val).blk = 0 ∧
        ∀ i, i < 2048 → (u.myCore.tileOf t.val).elem i =
          (fp32Fmt.encode .rne (fp32Fmt.read (bytesAt s (sram s.cur.core (e + 4 * i)) 4))).1) ∧
    (Memory.wf s.mem = true → selfReady s e 8192 false true → (s.myCore.tileOf t.val).valid = true →
      (s.myCore.tileOf t.val).kind = .fp32 → (s.myCore.planned.tileOf t.val).kind = .fp32 →
      (s.myCore.tileOf t.val).blk = 0 →
      ∃ u, exec (.tsave t b d) s = .next u ∧ u.me.g = s.me.g ∧ u.me.pc = s.me.npc ∧
        (u.myCore.tileOf t.val).dirty = false ∧ (u.myCore.tileOf t.val).data = (s.myCore.tileOf t.val).data ∧
        sameOutside s u (sram s.cur.core e) 8192 ∧
        ∀ i, i < 2048 → bytesAt u (sram s.cur.core (e + 4 * i)) 4 =
          (fp32Fmt.encode .rne (fp32Fmt.read ((s.myCore.tileOf t.val).elem i))).1) ∧
    (selfReady s e 8192 false true → (s.myCore.tileOf t.val).valid = false →
      (s.myCore.planned.tileOf t.val).kind = .fp32 → exec (.tsave t b d) s = .next (trapped s 0x02 0 0))

/-- EPUSH of a good record with room in its engine completes: the matrix unit, the copy engine or the lexicon engine holds
it behind earlier commands. Without room it holds; an address out of place and a bad header trap. -/
def StatementParts.EpushResults : Prop :=
  ∀ (s : State) (n : Fin 3) (b : GReg) (r : Rec), s.ports [b] [] = .ok () →
    (recordAt s n.val (s.readG b).1.toNat r → (n ≠ 0 → s.isDet s.cur.core = false) →
      (s.engineRoom n.val = true →
        ∃ t, exec (.epush n b) s = .next t ∧ t.me.g = s.me.g ∧ t.mem = s.mem ∧ t.me.pc = s.me.npc ∧
          (n = 0 → s.myCore.mxRun ≠ none →
            t.myCore.mxQueue = s.myCore.mxQueue ++ [⟨r, s.cur.slot.val, s.me.pc, []⟩] ∧
            t.myCore.mxRun = s.myCore.mxRun) ∧
          (n = 0 → s.myCore.mxRun = none →
            t.myCore.mxRun = some ⟨⟨r, s.cur.slot.val, s.me.pc, []⟩, none, false, false, false, [], []⟩ ∧
            t.myCore.mxQueue = s.myCore.mxQueue) ∧
          (n = 1 → ∃ x, t.copies = s.copies ++ [x] ∧ x.record = r ∧ x.number = s.fresh ∧ x.done = none ∧
            x.pusher = .slot s.cur.core s.cur.slot.val ∧ x.cluster = clusterOf s.cur.core) ∧
          (n = 2 → ∃ x, t.lexicons = s.lexicons ++ [x] ∧ x.record = r ∧ x.number = s.fresh ∧ x.done = none ∧
            x.pusher = .slot s.cur.core s.cur.slot.val ∧ x.cluster = clusterOf s.cur.core)) ∧
      (s.engineRoom n.val = false → exec (.epush n b) s = .next (heldState s))) ∧
    (((s.readG b).1.toNat % 64 ≠ 0 ∨ 0xFFFC0 < (s.readG b).1.toNat) →
      exec (.epush n b) s = .next (trapped s 0x02 0 (s.readG b).1)) ∧
    ((s.readG b).1.toNat % 64 = 0 → selfReady s (s.readG b).1.toNat 64 true false →
      engineOf (bytesAt s (sram s.cur.core (s.readG b).1.toNat) 1) ≠ some n.val →
      exec (.epush n b) s = .next (trapped s 0x02 0 0))

/-- QPUSH of 64 bytes in the self window completes: the packet stands at WRIDX of the queue's ring, and WRIDX counts it.
A full ring holds the slot; an absent queue or one of another claim is an illegal operand. -/
def StatementParts.QpushResults : Prop :=
  ∀ (s : State) (a b : GReg), s.ports [b, a] [] = .ok () →
    (∀ ad : Nat, Memory.wf s.mem = true →
      ((s.readG b).2.readG a).1.toNat < 1024 →
      (s.queueOf ((s.readG b).2.readG a).1.toNat).state = .active →
      (s.queueOf ((s.readG b).2.readG a).1.toNat).claim = s.claimId s.cur.core →
      (s.readG b).1.toNat % 64 = 0 → selfReady s (s.readG b).1.toNat 64 true false →
      s.releaseReady s.cur.core s.cur.slot.val = true → s.isDet s.cur.core = false →
      s.ringAddr ((s.readG b).2.readG a).1.toNat (s.queueOf ((s.readG b).2.readG a).1.toNat).wr true = some ad →
      ((s.queueOf ((s.readG b).2.readG a).1.toNat).wr - (s.queueOf ((s.readG b).2.readG a).1.toNat).rd <
          2 ^ (s.queueOf ((s.readG b).2.readG a).1.toNat).logsize →
        ∃ t, exec (.qpush a b) s = .next t ∧ t.me.g = s.me.g ∧ t.me.pc = s.me.npc ∧
          bytesAt t ad 64 = bytesAt s (sram s.cur.core (s.readG b).1.toNat) 64 ∧ sameOutside s t ad 64 ∧
          (t.queueOf ((s.readG b).2.readG a).1.toNat).wr =
            (s.queueOf ((s.readG b).2.readG a).1.toNat).wr + 1) ∧
      (2 ^ (s.queueOf ((s.readG b).2.readG a).1.toNat).logsize ≤
          (s.queueOf ((s.readG b).2.readG a).1.toNat).wr - (s.queueOf ((s.readG b).2.readG a).1.toNat).rd →
        exec (.qpush a b) s = .next (heldState s))) ∧
    ((1023 < ((s.readG b).2.readG a).1.toNat ∨ (s.queueOf ((s.readG b).2.readG a).1.toNat).state = .absent ∨
        (s.queueOf ((s.readG b).2.readG a).1.toNat).claim ≠ s.claimId s.cur.core) →
      exec (.qpush a b) s = .next (trapped s 0x02 0 0))

/-- EPUSH and QPUSH: accepted, held, or refused. -/
def Obligations.Pushes : Prop := StatementParts.EpushResults ∧ StatementParts.QpushResults

/-- The running stage: MMA, MMAS, MMAD and MMAI with their reads possible leave their tile valid and dirty, of their kind,
and an element of ERR 0 with the tile number. Inside M by N each element is the command's function of the two lines and of the
old element, which is 0 where the command does not accumulate: group tree sums scaled and added in FP32, fused FP64 products,
or exact group sums added with saturation. Outside M by N an element keeps, or is 0. An absent hem entry keeps the command
waiting. -/
def Obligations.MatrixRuns : Prop :=
  ∀ p ∈ ([(Instr.mma, 1), (Instr.mmas, 2), (Instr.mmad, 3), (Instr.mmai, 4)] : List ((Nat → Instr) × Nat)),
    ∀ (s : State) (c : Nat) (m : MxRun),
      (mxRuns s c m p.2 →
        ∃ t, exec (p.1 c) s = .next t ∧ t.mem = s.mem ∧
          ((t.coreOf c).tileOf (recTile m.cmd.record)).valid = true ∧
          ((t.coreOf c).tileOf (recTile m.cmd.record)).dirty = true ∧
          ((t.coreOf c).tileOf (recTile m.cmd.record)).kind = mxKind p.2 ∧
          (∃ w x, (t.coreOf c).mxRun = some x ∧ x.done = some w ∧ elementErr w = 0 ∧
            bits w 0 32 = recTile m.cmd.record ∧ bits w 48 16 = recTag m.cmd.record ∧ x.cmd = m.cmd) ∧
          (∀ g, mxG p.2 (mxA m.cmd.record).fmt (mxB m.cmd.record).fmt = some g →
            ∀ w i j old, w = (if p.2 = 3 then 32 else 64) → i < 32 → j < w →
              old = (if mxKeeps s c p.2 m.cmd.record then
                ((s.coreOf c).tileOf (recTile m.cmd.record)).elem (w * i + j) else 0) →
              ((t.coreOf c).tileOf (recTile m.cmd.record)).elem (w * i + j) =
                if i < mxM m.cmd.record ∧ j < mxN m.cmd.record then
                  mxValue s c p.2 m.cmd.record g i j old % 2 ^ 64 else old)) ∧
      ((s.coreOf c).mxRun = none → exec (p.1 c) s = .next s) ∧
      ((s.coreOf c).mxRun = some m → recCode m.cmd.record = p.2 → m.done = none → m.missing = false →
        s.frozen c = false → (s.coreOf c).mxHem m.cmd.record = .absent →
        ∃ t x, exec (p.1 c) s = .next t ∧ (t.coreOf c).mxRun = some x ∧ x.done = none ∧ x.hemWait = true ∧
          t.mem = s.mem ∧ ∀ n, (t.coreOf c).tileOf n = (s.coreOf c).tileOf n)

/-- Completions: MATRIX_COMPLETION counts the command once, pushes its element to q2 where it asks for it and there is
room, and lets the next command run; COPY_COMPLETION and LEXICON_COMPLETION take the command out of its engine and count
it; a nonzero ERR sets EERR, in every slot of the core (log 53, the model's choice). A hem tile enters a buffer of 16 after
the data writes of its COPYH, and is dropped and reported where the claim's map does not hold its destination; until it has
entered, the COPYH does not complete (06 R129). -/
def Obligations.Completions : Prop :=
  ∀ (s : State) (c : Nat),
    (∀ (m : MxRun) (w : Word), (s.coreOf c).mxRun = some m → m.done = some w → m.ended = false → s.frozen c = false →
      recNotify m.cmd.record = true → (s.coreOf c).inUse 2 < 8 →
      ∃ t, exec (.matrixCompletion c) s = .next t ∧ (t.coreOf c).port 2 = (s.coreOf c).port 2 ++ [w] ∧
        (t.coreOf c).mxDone = (s.coreOf c).mxDone + 1 ∧
        (t.coreOf c).mxQueue = (s.coreOf c).mxQueue.drop 1 ∧
        (t.coreOf c).mxRun.map (·.cmd) = (s.coreOf c).mxQueue.head? ∧
        (elementErr w ≠ 0 → (t.coreOf c).lastErr = w ∧ ∀ k : Fin 4, (t.slotOf c k.val).eerr = true) ∧
        (elementErr w = 0 → ∀ k : Fin 4, (t.slotOf c k.val).eerr = (s.slotOf c k.val).eerr)) ∧
    (∀ (x : EngineCmd) (w : Word) (d k : Nat), endedOf c s.copies = some x → x.done = some w → x.pusher = .slot d k →
      x.orphan = false → (∃ h ∈ s.hems, h.number = x.number) → exec (.copyCompletion c) s = .next s) ∧
    (∀ (x : EngineCmd) (w : Word) (d k : Nat), endedOf c s.copies = some x → x.done = some w → x.pusher = .slot d k →
      x.orphan = false → (∀ h ∈ s.hems, h.number ≠ x.number) →
      (s.coreOf c).copyBuf = [] → (s.coreOf c).lexBuf = [] →
      ∃ t, exec (.copyCompletion c) s = .next t ∧ (t.coreOf c).copyDone = (s.coreOf c).copyDone + 1 ∧
        t.copies = s.copies.filter (fun y => y.number != x.number) ∧ t.mem = s.mem ∧
        (recNotify x.record = true → ((s.coreOf c).port 3).length < 8 →
          (t.coreOf c).port 3 = (s.coreOf c).port 3 ++ [w] ∧ (t.coreOf c).copyBuf = []) ∧
        (recNotify x.record = true → 8 ≤ ((s.coreOf c).port 3).length →
          (t.coreOf c).port 3 = (s.coreOf c).port 3 ∧ (t.coreOf c).copyBuf = [w]) ∧
        (elementErr w ≠ 0 → (t.coreOf c).lastErr = w ∧ ∀ j : Fin 4, (t.slotOf c j.val).eerr = true)) ∧
    (∀ (x : EngineCmd) (w : Word), endedOf c s.lexicons = some x → x.done = some w → x.orphan = false →
      (s.coreOf c).copyBuf = [] → (s.coreOf c).lexBuf = [] →
      ∃ t, exec (.lexiconCompletion c) s = .next t ∧ (t.coreOf c).lexDone = (s.coreOf c).lexDone + 1 ∧
        t.lexicons = s.lexicons.filter (fun y => y.number != x.number) ∧ t.mem = s.mem ∧
        (recNotify x.record = true → ((s.coreOf c).port 3).length < 8 →
          (t.coreOf c).port 3 = (s.coreOf c).port 3 ++ [w] ∧ (t.coreOf c).lexBuf = []) ∧
        (elementErr w ≠ 0 → (t.coreOf c).lastErr = w)) ∧
    (∀ (n : Nat) (h : HemMsg), s.hems[n]? = some h →
      (∀ y ∈ s.hems.take n, y.dst = h.dst → y.tile.src ≠ h.tile.src) →
      (∀ x ∈ s.copies, x.number = h.number → x.pend = []) →
      (s.routerBit h.dst h.claim = true → s.away h.dst = false →
        ((s.coreOf h.dst).hem.length < 16 →
          ∃ t, exec (.hemTileArrival n) s = .next t ∧ (t.coreOf h.dst).hem = (s.coreOf h.dst).hem ++ [h.tile] ∧
            t.hems = s.hems.eraseIdx n ∧ t.mem = s.mem) ∧
        (16 ≤ (s.coreOf h.dst).hem.length → exec (.hemTileArrival n) s = .next s)) ∧
      (s.routerBit h.dst h.claim = false →
        ∃ t, exec (.hemTileArrival n) s = .next t ∧ t.cores = s.cores ∧ t.hems = s.hems.eraseIdx n ∧
          t.reports = s.reports ++ [.remoteRefused]))

namespace Sys2Proof.Claims

/-- A command of an engine is at its start, has read no word before and writes its results at once; no slot of its core has
read a word ahead, and no wake latch holds a write (08 R151, R160, R163, 09 R184; log 2). -/
def freshCmd (s : State) (x : EngineCmd) : Prop :=
  x.early = [] ∧ x.slow = false ∧ x.pend = [] ∧ x.next = 0 ∧ x.out = 0 ∧ x.flags = 0 ∧ x.scales = [] ∧
  (∀ c k, x.pusher = .slot c k → ∀ j : Fin 4, (s.slotOf c j.val).early = []) ∧ s.latches = []

/-- Command `x` of number `n` and code `code` may run now in the copy engine, from its start. -/
def copyRuns (s : State) (n : Nat) (x : EngineCmd) (code : Nat) : Prop :=
  s.copies.find? (fun y => y.number == n) = some x ∧ recCode x.record = code ∧ s.engReady x = true ∧
  s.copyMayStart x = true ∧ freshCmd s x

/-- `t` is a state in which command `n` of the copy engine has run and carries the element `w`. -/
def copyCarries (t : State) (n : Nat) (w : Word) : Prop :=
  (t.copies.find? (fun y => y.number == n)).bind (·.done) = some w

/-- Element `e` of the array that pointer `p`, three byte strides from byte `o` of the record on, and N0 to N2 describe
(20 R309). -/
def elementVa (r : Rec) (p o e : Nat) : Int :=
  (recField r p 6 : Int) + (e % recField r 24 4 : Nat) * recSigned r o 4 +
    (e / recField r 24 4 % recField r 28 2 : Nat) * recSigned r (o + 4) 4 +
    (e / recField r 24 4 / recField r 28 2 : Nat) * recSigned r (o + 8) 4

/-- E, the number of elements (20 R309). -/
def elementCount (r : Rec) : Nat := recField r 24 4 * recField r 28 2 * recField r 30 2

/-- The command reads `n` bytes at `va`, and finds them at `a`. -/
def readsAt (s : State) (x : EngineCmd) (va n a : Nat) : Prop :=
  s.engPlace x va n false = .ok a ∧ s.poisonedIn a n = false

/-- Where the elements of a copy and its scale bytes in memory stand: each source element and scale byte can be read, each
destination one written, and no two bytes written are one. -/
def copyPlaces (s : State) (x : EngineCmd) (src dst scale : Nat → Nat) : Prop :=
  let a := copySrc x.record
  let b := copyDst x.record
  let inMem (o : CopyOp) : Prop := o.scaled = true ∧ copyIsHem x.record = false
  (∀ e, e < copyCount x.record → 0 ≤ a.addr x.record e ∧ 0 ≤ b.addr x.record e ∧
    readsAt s x (a.addr x.record e).toNat a.size (src e) ∧
    s.engPlace x (b.addr x.record e).toNat b.size true = .ok (dst e)) ∧
  (∀ q, 32 * q < copyCount x.record →
    (inMem a → readsAt s x (bits (copyScale x.record) 0 48 + q) 1 (scale q)) ∧
    (inMem b → s.engPlace x (bits (copyScale x.record) 0 48 + q) 1 true = .ok (scale q))) ∧
  (∀ e d, e < d → d < copyCount x.record → dst e + b.size ≤ dst d ∨ dst d + b.size ≤ dst e ∨
    (b.bits = 4 ∧ dst e = dst d ∧ e % copyN0 x.record % 2 ≠ d % copyN0 x.record % 2)) ∧
  (inMem b → ∀ q e, 32 * q < copyCount x.record → e < copyCount x.record →
    scale q < dst e ∨ dst e + b.size ≤ scale q) ∧
  (inMem b → ∀ q p, q < p → 32 * p < copyCount x.record → scale q ≠ scale p)

/-- The code of element `e` of an operand in the bytes at `adr`: two 4-bit elements share a byte, the even one low (20 R309). -/
def codeAt (s : State) (r : Rec) (o : CopyOp) (e adr : Nat) : Nat :=
  if o.bits = 4 then bytesAt s adr 1 / 16 ^ (e % copyN0 r % 2) % 16 else bytesAt s adr o.size

/-- Scale byte `q` of a scaled source: in memory, or of the oldest hem entry of the record's source, 0xFF past its length
(06 R128-R130). -/
def scaleByteAt (s : State) (x : EngineCmd) (scale : Nat → Nat) (q : Nat) : Nat :=
  if copyIsHem x.record then
    ((((s.coreOf x.home).hemFrom (copyHsrc x.record)).bind (fun h => h.bytes[q]?)).getD 0xFF).toNat
  else (readCell s.mem (scale q)).toNat

/-- The value of source element `e`: its code's, times the scale of its block of 32; the scale 0xFF makes a NaN (05 R97). -/
def sourceValue (s : State) (x : EngineCmd) (src scale : Nat → Nat) (e : Nat) : Machine.Num :=
  let o := copySrc x.record
  let v := fmtRead o.fmt (codeAt s x.record o e (src e))
  if o.scaled then
    (if scaleByteAt s x scale (e / 32) = 255 then .nan false
     else v.scale ((scaleByteAt s x scale (e / 32) : Int) - 127))
  else v

/-- The value that element `e` takes under the destination's tag: that of its unit, turned from the one tag to the other (06
R119, R122). -/
def unitValue (x : EngineCmd) (v : Nat → Machine.Num) (e : Nat) : Machine.Num :=
  let r := x.record
  let a := copySrc r
  let b := copyDst r
  let u := e / copyUnit r * copyUnit r
  if a.tag = b.tag then v e
  else
    ((retag x.seeds (fmtInt a.fmt && fmtInt b.fmt) .rne a.tag b.tag
      ((List.range (min (copyUnit r) (copyCount r - u))).map (fun i => v (u + i)))).1[e - u]?).getD (.nan false)

/-- The scale byte of a block (05 R106): 0xFF where an element is not finite, 0 where all are zero, else the exponent of the
largest magnitude less the format's largest one, within -127 and 127, plus 127. -/
def blockScale (f : Nat) (l : List Machine.Num) : Nat :=
  if l.any special then 0xFF
  else
    match l.filterMap Num.top with
    | [] => 0
    | t :: ts => (max (-127) (min 127 (ts.foldl max t - scaledEmax f)) + 127).toNat

/-- The code of a value in a block of a scaled format, and whether it is exact (05 R106, 06 R121). -/
def blockCode (f : Nat) (l : List Machine.Num) (v : Machine.Num) : Nat × Bool :=
  if l.any special then (0, special v)
  else if l.all (fun y => y.isZero) then (0, true)
  else
    let w := v.scale (127 - blockScale f l)
    ((fmtEncode f .rne w).1, fmtExact f w (fmtEncode f .rne w).1)

/-- The values of scale block `q`: those of its elements that the command has. -/
def blockOf (x : EngineCmd) (y : Nat → Machine.Num) (q : Nat) : List Machine.Num :=
  (List.range (min 32 (copyCount x.record - 32 * q))).map (fun i => y (32 * q + i))

/-- The code of element `e` of the destination, and whether it is exact. -/
def targetCode (x : EngineCmd) (y : Nat → Machine.Num) (e : Nat) : Nat × Bool :=
  let f := (copyDst x.record).fmt
  if (copyDst x.record).scaled then blockCode f (blockOf x y (e / 32)) (y e)
  else ((fmtEncode f .rne (y e)).1, fmtExact f (y e) (fmtEncode f .rne (y e)).1)

/-- Command `x` is the one that the lexicon engine of cluster `cl` serves next, of code `code`, from its start. -/
def lexServes (s : State) (cl : Nat) (x : EngineCmd) (code : Nat) : Prop :=
  s.lexicons.find? (fun y => y.cluster == cl && !y.written && !s.detOwned y) = some x ∧
  s.lexicons.find? (fun y => y.number == x.number) = some x ∧
  recCode x.record = code ∧ s.engReady x = true ∧ freshCmd s x

/-- `t` is a state in which lexicon command `x` has run and carries an element with an ERR and a VALUE. -/
def lexCarries (t : State) (x : EngineCmd) (err value : Nat) : Prop :=
  (t.lexicons.find? (fun y => y.number == x.number)).bind (·.done) =
    some (element (recTag x.record) (recCode x.record) err false 0 value)

/-- The spelling of a token: a byte, or the one that the vocabulary gives it (09 R186, R410). -/
def spells (v : Vocab) (id : Nat) (sp : List Byte) : Prop :=
  (id < 256 ∧ sp = [BitVec.ofNat 8 id]) ∨ (256 ≤ id ∧ ∃ ctl, v.tokens[id - 256]? = some (sp, ctl))

/-- The token takes part: its spelling is no control spelling, or CTL is set (09 R187). -/
def admits (v : Vocab) (ctl : Bool) (id : Nat) : Prop :=
  id < 256 ∨ ctl = true ∨ ∃ sp, v.tokens[id - 256]? = some (sp, false)

/-- `ids` encode the input as far as `rest`: each is a token that takes part whose spelling is the longest prefix of what is
left (09 R187, 21 R339). -/
def encodesTo (v : Vocab) (ctl : Bool) : List Byte → List Nat → List Byte → Prop
  | w, [], rest => rest = w
  | w, id :: ids, rest => ∃ sp tail, spells v id sp ∧ admits v ctl id ∧ w = sp ++ tail ∧
      (∀ id' sp', spells v id' sp' → admits v ctl id' → sp' <+: w → sp'.length ≤ sp.length) ∧
      encodesTo v ctl tail ids rest

/-- `out` is the spellings of `ids`, one after the other (09 R188). -/
def decodesTo (v : Vocab) : List Nat → List Byte → Prop
  | [], out => out = []
  | id :: ids, out => ∃ sp tail, spells v id sp ∧ out = sp ++ tail ∧ decodesTo v ids tail

end Sys2Proof.Claims

/-- COPY of raw elements runs: where source and destination do not overlap, each destination byte holds its source byte, the
last element that names it, and no other byte changes; the element carries ERR 0 and VALUE E. A command that may not run does
nothing. -/
def StatementParts.CopyRaw : Prop :=
  (∀ (s : State) (n : Nat) (x : EngineCmd) (src dst : Nat → Nat), Memory.wf s.mem = true →
    copyRuns s n x 0x10 → fatFmt (recWord x.record 8) = 0 → fatFmt (recWord x.record 16) = 0 →
    (∀ e, e < elementCount x.record → 0 ≤ elementVa x.record 8 32 e ∧
      readsAt s x (elementVa x.record 8 32 e).toNat 1 (src e)) →
    (∀ e, e < elementCount x.record → 0 ≤ elementVa x.record 16 44 e ∧
      s.engPlace x (elementVa x.record 16 44 e).toNat 1 true = .ok (dst e)) →
    (∀ e d, e < elementCount x.record → d < elementCount x.record → src e ≠ dst d) →
    ∃ t, exec (.copy n) s = .next t ∧ t.cores = s.cores ∧
      copyCarries t n (element (recTag x.record) 0x10 0 false 0 (elementCount x.record)) ∧
      (∀ e, e < elementCount x.record → (∀ d, e < d → d < elementCount x.record → dst d ≠ dst e) →
        readCell t.mem (dst e) = readCell s.mem (src e)) ∧
      (∀ a, (∀ e, e < elementCount x.record → dst e ≠ a) → readCell t.mem a = readCell s.mem a)) ∧
  (∀ (s : State) (n : Nat) (x : EngineCmd), s.copies.find? (fun y => y.number == n) = some x → s.engReady x = false →
    exec (.copy n) s = .next s ∧ exec (.copyh n) s = .next s)

/-- COPY and COPYH run in every format. Bits move unchanged between operands of one format and tag. Otherwise each element
takes its value, turned from the source's tag to the destination's, in the destination's format, and a scaled destination a
scale byte for every block of 32, in memory or in one tile sent over the hem. Where the narrowing rule asks for exact elements
and one is not, the element carries ERR 3 and the first such one as VALUE, and the units before it are written; otherwise ERR
0 and VALUE E. No other byte changes. A COPYH whose hem entry is of another sequence ends with ERR 1 and writes nothing. That
the positions a short last block lacks are not written is the model's choice (log 100). -/
def StatementParts.CopyConverts : Prop :=
  ∀ p ∈ ([(Instr.copy, 0x10), (Instr.copyh, 0x11)] : List ((Nat → Instr) × Nat)),
    ∀ (s : State) (n : Nat) (x : EngineCmd), copyRuns s n x p.2 →
      (∀ (src dst scale : Nat → Nat) (y : Nat → Machine.Num), Memory.wf s.mem = true → copyPlaces s x src dst scale →
        (p.2 = 0x11 → (copySrc x.record).scaled = true →
          (s.coreOf x.home).hemCheck (copyHsrc x.record) (copySeq x.record) = .ready) →
        y = unitValue x (sourceValue s x src scale) →
        ∃ t err value f done, exec (p.1 n) s = .next t ∧
          copyCarries t n (element (recTag x.record) p.2 err false f value) ∧
          (p.2 = 0x10 → t.cores = s.cores ∧ t.hems = s.hems) ∧
          ((copyRaw x.record = true ∨ fmtNarrow (copyDst x.record).fmt = false ∨ (copyDst x.record).tag ≠ none ∨
              ∀ e, e < copyCount x.record → (targetCode x y e).2 = true) →
            err = 0 ∧ value = copyCount x.record ∧ done = copyCount x.record) ∧
          (copyRaw x.record = false → fmtNarrow (copyDst x.record).fmt = true → (copyDst x.record).tag = none →
            ∀ e, e < copyCount x.record → (targetCode x y e).2 = false → (∀ d, d < e → (targetCode x y d).2 = true) →
              err = 3 ∧ value = e ∧ done = e / copyUnit x.record * copyUnit x.record) ∧
          (∀ e, e < done → codeAt t x.record (copyDst x.record) e (dst e) =
            if copyRaw x.record then codeAt s x.record (copySrc x.record) e (src e) else (targetCode x y e).1) ∧
          (copyRaw x.record = false → p.2 = 0x10 → (copyDst x.record).scaled = true → ∀ q, 32 * q < done →
            (readCell t.mem (scale q)).toNat = blockScale (copyDst x.record).fmt (blockOf x y q)) ∧
          (∀ a, (∀ e, e < done → a < dst e ∨ dst e + (copyDst x.record).size ≤ a) →
            ((copyDst x.record).scaled = true → p.2 = 0x10 → ∀ q, 32 * q < done → a ≠ scale q) →
            readCell t.mem a = readCell s.mem a) ∧
          (p.2 = 0x11 → (copyDst x.record).scaled = true → (copySrc x.record).scaled = false → err = 0 →
            x.orphan = false →
            ∃ h, t.hems = s.hems ++ [h] ∧ h.claim = x.claim ∧ h.number = x.number ∧
              h.tile.src = s.logical x.home ∧ h.tile.seqno = copySeq x.record ∧
              h.tile.bytes.length = (copyCount x.record + 31) / 32 ∧
              (∀ q, 32 * q < copyCount x.record →
                (h.tile.bytes[q]?).map (·.toNat) = some (blockScale (copyDst x.record).fmt (blockOf x y q))) ∧
              ∀ cl, s.claim? x.claim = some cl →
                h.dst = cl.rect.coreOf (sliceOf (fatVa (copyDst x.record).ptr)))) ∧
      (p.2 = 0x11 → (copySrc x.record).scaled = true →
        (∀ src found expect, (s.coreOf x.home).hemCheck (copyHsrc x.record) (copySeq x.record) =
            .mismatch src found expect →
          ∃ t, exec (.copyh n) s = .next t ∧ t.mem = s.mem ∧
            copyCarries t n (element (recTag x.record) 0x11 1 false 0 0)))

/-- LEXE runs: the tokens written are the longest-match encoding of the input, all of it with ERR 0 and VALUE the number of
tokens, or a full output with ERR 4 and VALUE the bytes consumed; no other byte changes. -/
def StatementParts.LexeRuns : Prop :=
  ∀ (s : State) (cl : Nat) (x : EngineCmd) (v : Vocab) (w : List Byte) (src dst : Nat → Nat), Memory.wf s.mem = true →
    lexServes s cl x 0x20 → s.lexVocab x = some v → w.length = lexCount x.record →
    (∀ i, i < w.length → readsAt s x (lexIn x.record + i) 1 (src i) ∧ some (readCell s.mem (src i)) = w[i]?) →
    (∀ o, o < lexCap x.record → s.engPlace x (lexOut x.record + 4 * o) 4 true = .ok (dst o)) →
    (∀ o o', o < o' → o' < lexCap x.record → dst o + 4 ≤ dst o' ∨ dst o' + 4 ≤ dst o) →
    (∀ i o, i < w.length → o < lexCap x.record → src i < dst o ∨ dst o + 4 ≤ src i) →
    ∃ t ids rest, exec (.lexe cl) s = .next t ∧ t.cores = s.cores ∧
      encodesTo v (lexCtl x.record) w ids rest ∧ ids.length ≤ lexCap x.record ∧
      (rest = [] → lexCarries t x 0 ids.length) ∧
      (rest ≠ [] → ids.length = lexCap x.record ∧ lexCarries t x 4 (w.length - rest.length)) ∧
      (∀ o id, ids[o]? = some id → bytesAt t (dst o) 4 = id % 2 ^ 32) ∧
      (∀ a, (∀ o, o < ids.length → a < dst o ∨ dst o + 4 ≤ a) → readCell t.mem a = readCell s.mem a)

/-- LEXD runs: the bytes written are the spellings of the first tokens, one after the other: all of them with ERR 0 and VALUE
the number of bytes, up to an id outside the vocabulary with ERR 5 and VALUE its index, or up to a spelling that would pass
the capacity with ERR 4 and VALUE the bytes written; no other byte changes. -/
def StatementParts.LexdRuns : Prop :=
  ∀ (s : State) (cl : Nat) (x : EngineCmd) (v : Vocab) (ids : List Nat) (src dst : Nat → Nat), Memory.wf s.mem = true →
    lexServes s cl x 0x21 → s.lexVocab x = some v → ids.length = lexCount x.record →
    (∀ j, j < ids.length → readsAt s x (lexIn x.record + 4 * j) 4 (src j) ∧
      some (bytesAt s (src j) 4) = ids[j]?) →
    (∀ o, o < lexCap x.record → s.engPlace x (lexOut x.record + o) 1 true = .ok (dst o)) →
    (∀ o o', o < o' → o' < lexCap x.record → dst o ≠ dst o') →
    (∀ j o, j < ids.length → o < lexCap x.record → dst o < src j ∨ src j + 4 ≤ dst o) →
    ∃ t j out, exec (.lexd cl) s = .next t ∧ t.cores = s.cores ∧ j ≤ ids.length ∧ decodesTo v (ids.take j) out ∧
      out.length ≤ lexCap x.record ∧
      (j = ids.length → lexCarries t x 0 out.length) ∧
      (∀ id, ids[j]? = some id →
        ((∀ sp, ¬ spells v id sp) ∧ lexCarries t x 5 j) ∨
        (∃ sp, spells v id sp ∧ lexCap x.record < out.length + sp.length ∧ lexCarries t x 4 out.length)) ∧
      (∀ o b, out[o]? = some b → readCell t.mem (dst o) = b) ∧
      (∀ a, (∀ o, o < out.length → dst o ≠ a) → readCell t.mem a = readCell s.mem a)

/-- A lexicon command whose vocabulary is absent fails with ERR 6 and VALUE 0 and writes nothing. -/
def StatementParts.LexiconAbsent : Prop :=
  ∀ p ∈ ([(Instr.lexe, 0x20), (Instr.lexd, 0x21)] : List ((Nat → Instr) × Nat)),
    ∀ (s : State) (cl : Nat) (x : EngineCmd), lexServes s cl x p.2 → s.lexVocab x = none →
      ∃ t, exec (p.1 cl) s = .next t ∧ t.mem = s.mem ∧ t.cores = s.cores ∧ lexCarries t x 6 0

/-- The copy and lexicon engines. What a short last block of a scaled operand writes is the model's choice (log 100). -/
def Obligations.EngineRuns : Prop := StatementParts.CopyRaw ∧ StatementParts.CopyConverts ∧ StatementParts.LexeRuns ∧ StatementParts.LexdRuns ∧ StatementParts.LexiconAbsent

namespace Sys2Proof.Claims

/-- The slot of the step stands on a core of the committee `cm`, which its claim and index name. -/
def onCommittee (s : State) (cm : Committee) : Prop :=
  s.committeeOf s.cur.core = some cm ∧ s.committee? cm.claim cm.index = some cm

/-- Batch slot `b` of the committee that `cm` names, as `t` holds it. -/
def slotAt (t : State) (cm : Committee) (b : Nat) : Option BatchSlot :=
  (t.committee? cm.claim cm.index).bind (fun y => y.slot? b)

/-- What q7 of a core holds and what waits there: for room, or for the end of the quantum. -/
def q7Of (t : State) (c : Nat) : List Word := (t.coreOf c).port 7 ++ (t.coreOf c).backlog ++ (t.coreOf c).coming

/-- Member `m` is ACTIVE or LAGGING in the sequence. -/
def mayArrive (y : BatchSlot) (m : Nat) : Prop := y.eligible m = true ∧ y.pending m = 0

end Sys2Proof.Claims

/-- ASSCFG completes on an assay core with a good expression: the core holds the operations and constants of the 32 bytes,
and A receives the number of operations. Elsewhere it traps. -/
def StatementParts.AssayConfig : Prop :=
  ∀ (s : State) (a b : GReg) (y : Committee), s.ports [b] [a] = .ok () → a.val ≠ 25 →
    s.committeeOf s.cur.core = some y →
    (∀ (ops : List Nat) (adr : Nat), y.aseat.has s.cur.core = true → ea (s.readG b).1 0 0 0 = .ok adr → adr % 32 = 0 →
      selfReady s adr 32 true false →
      assayOps ((List.range 16).map (fun i => bytesAt s (sram s.cur.core (adr + i)) 1)) = some ops →
      ∃ t x, exec (.asscfg a b) s = .next t ∧ t.mem = s.mem ∧ t.me.pc = s.me.npc ∧ t.myCore.assay = some x ∧
        x.ops = ops.map (BitVec.ofNat 8) ∧
        (∀ i : Fin 4, (vget x.consts i.val 0).toNat =
          bytesAt s (sram s.cur.core (adr + 16 + 4 * i.val)) 4) ∧
        (0 < a.val → a.val < 24 → (vget t.me.g a.val 0) = BitVec.ofNat 64 ops.length)) ∧
    (y.aseat.has s.cur.core = false → exec (.asscfg a b) s = .next (trapped s 0x02 0 0))

/-- ASSAY completes where its reads and writes are allowed: the 4096 words of the result buffer hold the values in token
order, and no other byte changes. -/
def StatementParts.AssayResults : Prop :=
  ∀ (s : State) (a b : GReg) (cm : Committee) (x : Assay) (rs : List Nat),
    Memory.wf s.mem = true → s.ports [b, a] [] = .ok () → onCommittee s cm → s.myCore.assay = some x →
    cm.aseat.has s.cur.core = true → elKind (s.readG b).1 = 1 → (cm.slot? (elSlot (s.readG b).1)).isSome = true →
    ((s.readG b).2.readG a).1.toNat ≤ elCount (s.readG b).1 →
    (∀ m, m < 8 → elMask (s.readG b).1 m = true → cm.valid m = true) → noPending s →
    s.assayTokens cm x ((s.readG b).2.readG a).1.toNat (4096 * cm.aseat.index s.cur.core)
      (cm.weights ((List.range 8).filter (elMask (s.readG b).1))) (List.range 4096) = .ok rs →
    ∃ t, exec (.assay a b) s = .next t ∧ t.me.g = s.me.g ∧ t.me.pc = s.me.npc ∧ rs.length = 4096 ∧
      sameOutside s t (sram s.cur.core (cm.resultBuf ((s.readG b).2.readG a).1.toNat)) 16384 ∧
      ∀ k, k < 4096 →
        bytesAt t (sram s.cur.core (cm.resultBuf ((s.readG b).2.readG a).1.toNat + 4 * k)) 4 =
          (rs[k]?.getD 0) % 2 ^ 32

/-- ASSCFG and ASSAY. -/
def Obligations.Assay : Prop := StatementParts.AssayConfig ∧ StatementParts.AssayResults

/-- CARRIVE at a member's root completes, as a release, and puts its arrival on its way; a slot that is not occupied, high
bits, and a PROPOSE of a member that is not the draft trap. CWAIT completes with the oldest element of q7, holds while
there is none, and traps where the element is of another batch slot. -/
def StatementParts.ArriveAndWait : Prop :=
  ∀ (s : State) (a b : GReg) (cm : Committee) (m : Nat), onCommittee s cm → cm.memberAt s.cur.core = some m →
    (∀ st : Word, s.ports [b, a] [] = .ok () → st = ((s.readG b).2.readG a).1 →
      ((cm.slot? (s.readG b).1.toNat).isSome = true → (st = 0 ∨ st = 1) →
        s.releaseReady s.cur.core s.cur.slot.val = true →
        ∃ t, exec (.carrive a b) s = .next t ∧ t.me.g = s.me.g ∧ t.mem = s.mem ∧ t.me.pc = s.me.npc ∧
          t.arrivals = s.arrivals ++ [⟨cm.claim, cm.index, m, (s.readG b).1.toNat, st.toNat, 0⟩]) ∧
      ((cm.slot? (s.readG b).1.toNat).isSome = true → cm.spec = true → m = cm.draft → st.toNat % 16 = 2 →
        1 ≤ st.toNat / 16 → st.toNat / 16 ≤ 8 → s.releaseReady s.cur.core s.cur.slot.val = true →
        ∃ t, exec (.carrive a b) s = .next t ∧ t.mem = s.mem ∧ t.me.pc = s.me.npc ∧
          t.arrivals = s.arrivals ++ [⟨cm.claim, cm.index, m, (s.readG b).1.toNat, 2, st.toNat / 16⟩]) ∧
      (((cm.slot? (s.readG b).1.toNat).isSome = false ∨ 256 ≤ st.toNat ∨ st.toNat % 4 = 3 ∨
          (st.toNat % 4 = 2 ∧ (cm.spec = false ∨ m ≠ cm.draft))) →
        exec (.carrive a b) s = .next (trapped s 0x02 0 0))) ∧
    (s.ports [b] [a] = .ok () → a.val ≠ 25 →
      (∀ (w : Word) (ws : List Word), (s.readG b).2.inPort 7 = w :: ws →
        ((s.readG b).1 = 256 ∨ ((s.readG b).1.toNat < 256 ∧ (cm.slot? (s.readG b).1.toNat).isSome = true ∧
          elSlot w = (s.readG b).1.toNat)) →
        exec (.cwait a b) s = .next (put ((s.readG b).2.takeG 31) a w).retire) ∧
      ((s.readG b).1 = 256 → (s.readG b).2.inPort 7 = [] → exec (.cwait a b) s = .next (heldState s)) ∧
      (∀ (w : Word) (ws : List Word), (s.readG b).2.inPort 7 = w :: ws → (s.readG b).1.toNat < 256 →
        elSlot w ≠ (s.readG b).1.toNat → exec (.cwait a b) s = .next (trapped s 0x02 0 0)))

/-- DRAW at an assay core completes, as a release: the core counts once; with the last core's the draw engine runs. CPOST
at the assay root of a draw that does not end the sequence: POS advances past the accepted tokens and the drawn one, every
eligible member's root gets the post, and the slot is idle again. That a post reaches its root at once, and that it carries
MASK of the members present with DL and SHORT of its step, is the model's choice (log 70, log 71). -/
def StatementParts.DrawAndPost : Prop :=
  ∀ (s : State) (a b : GReg) (cm : Committee) (y : BatchSlot), onCommittee s cm → s.ports [b, a] [] = .ok () →
    s.releaseReady s.cur.core s.cur.slot.val = true →
    (∀ p : Word, p = ((s.readG b).2.readG a).1 → cm.slot? (elSlot (s.readG b).1) = some y →
      cm.aseat.has s.cur.core = true → elKind (s.readG b).1 = 1 → y.state = .combine → bits p 16 16 = 0 →
      topPOk (bits p 32 32) = true → y.draws.contains s.cur.core = false →
      ∃ t z, exec (.draw a b) s = .next t ∧ t.me.g = s.me.g ∧ t.me.pc = s.me.npc ∧
        slotAt t cm (elSlot (s.readG b).1) = some z ∧ z.draws = y.draws ++ [s.cur.core] ∧
        (s.cur.core = cm.aseat.root → z.params = p) ∧ (s.cur.core ≠ cm.aseat.root → z.params = y.params) ∧
        z.state = (if y.draws.length + 1 = cm.aseat.w * cm.aseat.h then .drawing else .combine) ∧
        z.pos = y.pos ∧ z.members = y.members) ∧
    (∀ d : Word, d = ((s.readG b).2.readG a).1 → (s.readG b).1 = 0 → cm.slot? (elSlot d) = some y →
      cm.aseat.root = s.cur.core → elKind d = 2 → y.state = .drawn → cm.stopping = [] → elReason d = 0 →
      cm.quorum ≤ y.electors.length → (∀ m, y.pending m < 8) →
      ∃ t z, exec (.cpost a b) s = .next t ∧ t.me.g = s.me.g ∧ t.me.pc = s.me.npc ∧
        slotAt t cm (elSlot d) = some z ∧ z.pos = y.pos + BitVec.ofNat 64 (elCount d + 1) ∧ z.state = .idle ∧
        z.arrived = [] ∧ z.present = [] ∧
        (∀ m ∈ y.electors, z.pending m = y.pending m + 1 ∧
          q7Element 3 (elSlot d) (elCount d) 0 y.dl y.short (maskOf y.present) (elValue d) ∈ q7Of t (cm.rootOf m))) ∧
    (∀ d : Word, d = ((s.readG b).2.readG a).1 → cm.slot? (elSlot d) = some y →
      (cm.aseat.root ≠ s.cur.core ∨ elKind d ≠ 2 ∨ y.state ≠ .drawn) →
      exec (.cpost a b) s = .next (trapped s 0x02 0 0))

/-- CARRIVE, CWAIT, DRAW and CPOST. When their elements arrive, and their MASK, DL and SHORT, are the model's
choice (logs 70 and 71). -/
def Obligations.CommitteeInstructions : Prop := StatementParts.ArriveAndWait ∧ StatementParts.DrawAndPost

namespace Sys2Proof.Claims

/-- `n` bytes of the self window that the slot may read now, as a number. -/
def reads (s : State) (adr n v : Nat) : Prop := selfReady s adr n true false ∧ bytesAt s (sram s.cur.core adr) n = v

/-- The grammar of the committee has its header in the self window: the bitmaps at `bm`, 2^`logb` entries at `tr`, and
`states` states (10 R203). -/
def grammarIs (s : State) (cm : Committee) (bm tr : Word) (states logb : Nat) : Prop :=
  fatOk cm.grammar = true ∧ fatVa cm.grammar % 8 = 0 ∧ fatOk bm = true ∧ fatOk tr = true ∧ fatVa tr % 4 = 0 ∧
  reads s (fatVa cm.grammar) 8 bm.toNat ∧ reads s (fatVa cm.grammar + 8) 8 tr.toNat ∧
  reads s (fatVa cm.grammar + 16) 4 states ∧ reads s (fatVa cm.grammar + 20) 1 logb

/-- Byte of the allowed bitmap of state `st` that holds the bit of token `t`. -/
def bitmapByte (cm : Committee) (bm : Word) (st t : Nat) : Nat :=
  fatVa bm + st * ((cm.vocab + 4095) / 4096) * 512 + 512 * (t / 4096) + t % 4096 / 8

/-- Probe `k` of the transition table for a state and a token: its entry's address. -/
def probeAt (tr : Word) (logb st t k : Nat) : Nat :=
  fatVa tr + 16 * ((xorshift ((st * 2 ^ 32 ||| t) % 2 ^ 64) + k) % 2 ^ logb)

/-- The entry of probe `k` holds a state and a token. -/
def probeHolds (s : State) (tr : Word) (logb st t k x y : Nat) : Prop :=
  reads s (probeAt tr logb st t k) 4 x ∧ reads s (probeAt tr logb st t k + 4) 4 y

end Sys2Proof.Claims

/-- GSTEP, its grammar in the self window: all ones for a state or a token outside the grammar, and for a token whose bit is
clear in the state's bitmap; else NEXT of the first entry, from the hashed bucket upward, that holds the state and the token,
and all ones at the first empty entry before one, or where no entry holds them. Without a grammar it traps, and so does a
port in field A. -/
def Obligations.GrammarStep : Prop :=
  ∀ (s : State) (a b : GReg) (cm : Committee) (bm tr : Word) (states logb st t : Nat),
    s.committeeOf s.cur.core = some cm →
    (24 ≤ a.val → exec (.gstep a b) s = .next (trapped s 0x02 0 0)) ∧
    (a.val < 24 → s.ports [b] [] = .ok () → cm.grammar = 0 → exec (.gstep a b) s = .next (trapped s 0x02 0 0)) ∧
    (a.val < 24 → s.ports [b] [] = .ok () → cm.grammar ≠ 0 → grammarIs s cm bm tr states logb →
      st = (s.peekG a).toNat → t = (s.readG b).1.toNat →
      ((states ≤ st ∨ st = 0xFFFFFFFF ∨ cm.vocab ≤ t) →
        exec (.gstep a b) s = .next (put (s.readG b).2 a 0xFFFFFFFF).retire) ∧
      (st < states → st ≠ 0xFFFFFFFF → t < cm.vocab →
        (∀ m, reads s (bitmapByte cm bm st t) 1 m → m.testBit (t % 8) = false →
          exec (.gstep a b) s = .next (put (s.readG b).2 a 0xFFFFFFFF).retire) ∧
        (∀ m, reads s (bitmapByte cm bm st t) 1 m → m.testBit (t % 8) = true →
          (∀ k n, k < 2 ^ logb → probeHolds s tr logb st t k st t → reads s (probeAt tr logb st t k + 8) 4 n →
            (∀ j, j < k → ∃ x y, probeHolds s tr logb st t j x y ∧ x ≠ 0xFFFFFFFF ∧ (x ≠ st ∨ y ≠ t)) →
            exec (.gstep a b) s = .next (put (s.readG b).2 a (BitVec.ofNat 64 n)).retire) ∧
          (∀ k, k < 2 ^ logb → reads s (probeAt tr logb st t k) 4 0xFFFFFFFF →
            (∀ j, j < k → ∃ x y, probeHolds s tr logb st t j x y ∧ x ≠ 0xFFFFFFFF ∧ (x ≠ st ∨ y ≠ t)) →
            exec (.gstep a b) s = .next (put (s.readG b).2 a 0xFFFFFFFF).retire) ∧
          ((∀ j, j < 2 ^ logb → ∃ x y, probeHolds s tr logb st t j x y ∧ x ≠ 0xFFFFFFFF ∧ (x ≠ st ∨ y ≠ t)) →
            exec (.gstep a b) s = .next (put (s.readG b).2 a 0xFFFFFFFF).retire))))

/-- The gather: a counted DELIVER marks its member arrived and present and opens the step; one that leaves arrivals
missing keeps it gathering, the last one combines it and sends the gather element to every assay core; a deadline that has
passed combines it too, does nothing before, and makes a DELIVER that comes later a stale one (10 R199). That the element
reaches the assay cores at once is the model's choice (log 70), and so is what keeps a member from delivering (log 83). -/
def StatementParts.Gather : Prop :=
  ∀ (s : State) (cm : Committee) (y : BatchSlot),
    (∀ (n m b : Nat), s.arrivals[n]? = some ⟨cm.claim, cm.index, m, b, 0, 0⟩ →
      (∀ h ∈ s.arrivals.take n, h.claim = cm.claim → h.index = cm.index → h.member ≠ m) →
      s.committee? cm.claim cm.index = some cm → s.isDet (cm.rootOf m) = false → cm.slot? b = some y →
      (y.kv[m]?).any (·.withdraw) = false → mayArrive y m → m < y.members.length →
      cm.spec = false → cm.quorum ≤ y.electors.length → b < 256 → y.chain < 16 →
      ((y.state = .idle ∨ y.state = .gather) → s.deadlineOf cm = none →
        (∃ i ∈ y.electors, i ≠ m ∧ y.arrived.contains i = false) →
        ∃ t z, exec (.gatherArrival n) s = .next t ∧ slotAt t cm b = some z ∧ z.state = .gather ∧ m ∈ z.arrived ∧
          m ∈ z.present ∧ z.run m = .active ∧ t.arrivals = s.arrivals.eraseIdx n) ∧
      ((y.state = .idle ∨ y.state = .gather) → s.deadlineOf cm = none →
        (∀ i ∈ y.electors, i ≠ m → y.arrived.contains i = true) →
        ∃ t z w, exec (.gatherArrival n) s = .next t ∧ slotAt t cm b = some z ∧ z.state = .combine ∧ m ∈ z.present ∧
          elKind w = 1 ∧ elSlot w = b ∧ (∀ c ∈ cm.aseat.cores, w ∈ q7Of t c)) ∧
      (s.deadlinePassed cm y = true →
        ∃ t z, exec (.gatherArrival n) s = .next t ∧ slotAt t cm b = some z ∧ z.state = .combine ∧ z.dl = true ∧
          z.arrived = y.arrived ∧ z.present = y.present ∧ z.run m = .lagging ∧ t.arrivals = s.arrivals.eraseIdx n)) ∧
    (∀ b : Nat, s.committee? cm.claim cm.index = some cm → cm.slot? b = some y → s.deadlinePassed cm y = true →
      ∃ t z, exec (.gatherDeadline cm.claim cm.index b) s = .next t ∧ slotAt t cm b = some z ∧ z.state = .combine ∧
        z.dl = true ∧ z.present = y.present) ∧
    (∀ b : Nat, s.committee? cm.claim cm.index = some cm → cm.slot? b = some y → s.deadlinePassed cm y = false →
      exec (.gatherDeadline cm.claim cm.index b) s = .next s)

/-- A failed member leaves the sequence's eligible set; the draw engine's end sends the draw element to every assay core; at a
release of the assay seat's DOM0 the swapper admits the oldest waiting sequence into the lowest free slot when its pages fit.
That the draw element arrives at once with MASK, DL and SHORT of its step is the model's choice (log 70, log 71), and so is
which sequences a release lets it move (log 79); what a draw reads in several places follows log 78. -/
def StatementParts.CommitteeEvents : Prop :=
  ∀ (s : State) (cm : Committee), s.committee? cm.claim cm.index = some cm →
    (∀ (m b : Nat) (y : BatchSlot), (cm.members[m]?).any (·.faulted) = true → cm.slots = [(b, y)] →
      y.state = .idle → m < y.members.length → cm.quorum ≤ (y.setMember m .failed 0).electors.length →
      ∃ t z, exec (.memberFailed cm.claim cm.index m) s = .next t ∧ slotAt t cm b = some z ∧ z.run m = .failed ∧
        z.state = .idle ∧
        ((t.committee? cm.claim cm.index).bind (fun x => x.members[m]?)).any (fun z => !z.faulted) = true) ∧
    (∀ m : Nat, (cm.members[m]?).any (·.faulted) = false → exec (.memberFailed cm.claim cm.index m) s = .next s) ∧
    (∀ (b : Nat) (y : BatchSlot), cm.slot? b = some y → y.state = .drawing → s.isDet cm.aseat.root = false →
      s.poisoned = [] →
      ∃ t z, exec (.drawEnd cm.claim cm.index b) s = .next t ∧ slotAt t cm b = some z ∧ z.state = .drawn ∧
        z.members = y.members ∧ z.pos = y.pos ∧
        ∀ c ∈ cm.aseat.cores, q7Element 2 b (s.drawChain cm b y y.chain 0).1 (s.drawChain cm b y y.chain 0).2.2
          y.dl y.short (maskOf y.present) (s.drawChain cm b y y.chain 0).2.1 ∈ q7Of t c) ∧
    (∀ (w : Waiting) (b : Nat), 2 ≤ cm.window → w.entry = none → s.ready.getLsbD 2 = true → cm.waiting = [w] →
      cm.freeSlot = some b → s.kvHeld + cm.kvNeed ≤ Config.kvPages → w.slotout = 0 →
      ∃ t z, exec (.batchSwap cm.claim cm.index) s = .next t ∧ slotAt t cm b = some z ∧ z.seqid = w.seqid ∧
        z.seed = w.seed ∧ z.pos = 0 ∧ z.state = .idle ∧ z.packet = w.packet ∧
        (t.committee? cm.claim cm.index).any (fun x => x.waiting.isEmpty && x.window == 0) = true) ∧
    (cm.window = 0 → exec (.batchSwap cm.claim cm.index) s = .next s)

/-- The gather, and the committee events of the firmware. What they rest on that the spec leaves open is the model's
choice (logs 70, 71, 78, 79 and 83). -/
def Obligations.CommitteeRows : Prop := StatementParts.Gather ∧ StatementParts.CommitteeEvents

namespace Sys2Proof.Claims

/-- Timer `n` is due at this turn of the wheel (11 R209, R210). -/
def timerDue (s : State) (n : Nat) (t : Timer) : Prop :=
  s.timers[n]? = some t ∧ s.timeHold = none ∧ s.time % 64 = 0 ∧ t.due ≤ s.time ∧ t.earliest ≤ s.time ∧ t.spent = false

/-- A good record of `k` tokens for an installed stream (11 R211, R212). -/
def goodRecord (m : Media) (r : BitVec 256) (k : Nat) : Prop :=
  mediaField r 8 1 = m.handle ∧ mediaField r 9 1 = k ∧ mediaField r 10 6 = 0 ∧ 1 ≤ k ∧ k ≤ 4 ∧
  ∀ i, i < 4 → mediaField r (16 + 4 * i) 4 < 0xFFFFFFFE

/-- Interval of a record. -/
def intervalOf (m : Media) (r : BitVec 256) : Nat := (mediaField r 0 8 - m.phase) / m.period

end Sys2Proof.Claims

/-- Device time at lock: from free running it steps to TAI where TAI is not behind, and holds where it is; TIME_FOLLOW ends
the hold once TAI has reached it; holdover and the regained lock change the mode alone. -/
def StatementParts.DeviceTime : Prop :=
  ∀ (s : State) (tai : Word),
    (s.timeMode = .free → s.timeHold = none → s.time ≤ tai.toNat →
      exec (.timeLock tai) s = .next { s with time := tai.toNat, timeMode := .locked }) ∧
    (s.timeMode = .free → s.timeHold = none → tai.toNat < s.time →
      exec (.timeLock tai) s = .next { s with timeHold := some tai.toNat }) ∧
    (∀ t, s.timeHold = some t → s.time ≤ t →
      exec .timeFollow s = .next { s with timeHold := none, timeMode := .locked }) ∧
    (∀ t, s.timeHold = some t → t < s.time → exec .timeFollow s = .next s) ∧
    (s.timeMode = .locked → exec .timeHoldover s = .next { s with timeMode := .holdover }) ∧
    (s.timeMode = .holdover → exec .lockRegained s = .next { s with timeMode := .locked }) ∧
    (s.timeMode ≠ .free → exec (.timeLock tai) s = .next s)

/-- The wheel: a due timer that targets a running core pushes its element to q4; a periodic one skips to its first due time
past now and counts what it skipped, an absolute one leaves the wheel; one that is not due, or between turns, does not
release. That turns are the multiples of 64 ns, and that an absolute timer whose release pushed nothing stays in its place,
spent, is the model's choice (log 56). -/
def StatementParts.TimerWheel : Prop :=
  ∀ (s : State) (n : Nat) (t : Timer) (c : Nat),
    (timerDue s n t → t.target = .element c → s.runsFor t.claim c = true →
      ((s.coreOf c).port 4).length < 8 → (s.coreOf c).notes = [] →
      (t.period = 0 →
        ∃ u, exec (.timerRelease n) s = .next u ∧ u.timers = s.timers.eraseIdx n ∧ u.mem = s.mem ∧
          (u.coreOf c).port 4 = (s.coreOf c).port 4 ++ [timerElement t.id 0 s.time]) ∧
      (0 < t.period →
        ∃ u x, exec (.timerRelease n) s = .next u ∧ u.timers = s.timers.set n x ∧ u.mem = s.mem ∧
          x.id = t.id ∧ x.period = t.period ∧ s.time < x.due ∧ x.due ≤ s.time + t.period ∧
          (∃ j, x.due = t.due + j * t.period) ∧ x.spent = false ∧
          (u.coreOf c).port 4 =
            (s.coreOf c).port 4 ++ [timerElement t.id ((s.time - t.due) / t.period) s.time])) ∧
    (s.timers[n]? = some t → (s.time % 64 ≠ 0 ∨ s.time < t.due) → exec (.timerRelease n) s = .next s) ∧
    (timerDue s n t → t.target = .element c → s.runsFor t.claim c = false →
      ∃ u x, exec (.timerRelease n) s = .next u ∧ u.timers = s.timers.set n x ∧ u.reports = s.reports ++ [.elementDropped] ∧
        u.cores = s.cores ∧ (t.period = 0 → x.spent = true))

/-- A packet that a timer released enters its queue's ring once there is room. -/
def StatementParts.TimerAppend : Prop :=
  ∀ (s : State) (n : Nat) (x : Append) (ad : Nat), Memory.wf s.mem = true → s.appends[n]? = some x →
    (s.queueOf x.queue).claim = x.claim → (s.queueOf x.queue).state = .active →
    ((s.queueOf x.queue).wr - (s.queueOf x.queue).rd < 2 ^ (s.queueOf x.queue).logsize →
      s.ringAddr x.queue (s.queueOf x.queue).wr true = some ad →
      ∃ t, exec (.timerQueueAppend n) s = .next t ∧ t.appends = s.appends.eraseIdx n ∧
        (t.queueOf x.queue).wr = (s.queueOf x.queue).wr + 1 ∧ bytesAt t ad 64 = x.packet.toNat ∧
        sameOutside s t ad 64) ∧
    (2 ^ (s.queueOf x.queue).logsize ≤ (s.queueOf x.queue).wr - (s.queueOf x.queue).rd →
      exec (.timerQueueAppend n) s = .next s)

/-- Device time, the wheel and the appends of its releases. Turns and spent timers are the model's choice (log 56). -/
def Obligations.DeviceTimeAndWheel : Prop := StatementParts.DeviceTime ∧ StatementParts.TimerWheel ∧ StatementParts.TimerAppend

/-- A good media record of an installed stream, the service being ready, is deposited in its interval, or counted as late,
early or full, by the first case that applies; what is not deposited leaves memory as it was. A record that breaks its table,
or whose stream is not installed, is dropped and reported. -/
def Obligations.MediaRecords : Prop :=
  ∀ (s : State) (id k : Nat) (r : BitVec 256) (m : Media), s.ready.getLsbD 3 = true →
    s.media? id (mediaField r 8 1) = some m → m.claim = id → goodRecord m r k →
    ((mediaField r 0 8 < m.phase ∨ intervalOf m r < m.sealCount) →
      ∃ t x, exec (.mediaRecord id r) s = .next t ∧ t.media? id m.handle = some x ∧ x.late = m.late + 1 ∧
        x.early = m.early ∧ x.full = m.full ∧ x.fill = m.fill ∧ t.mem = s.mem) ∧
    (m.phase ≤ mediaField r 0 8 → m.sealCount ≤ intervalOf m r → m.sealCount + m.depth ≤ intervalOf m r →
      ∃ t x, exec (.mediaRecord id r) s = .next t ∧ t.media? id m.handle = some x ∧ x.early = m.early + 1 ∧
        x.late = m.late ∧ x.full = m.full ∧ x.fill = m.fill ∧ t.mem = s.mem) ∧
    (m.phase ≤ mediaField r 0 8 → m.sealCount ≤ intervalOf m r → intervalOf m r < m.sealCount + m.depth →
      m.slots < m.filled (intervalOf m r) + k →
      ∃ t x, exec (.mediaRecord id r) s = .next t ∧ t.media? id m.handle = some x ∧ x.full = m.full + 1 ∧
        x.late = m.late ∧ x.early = m.early ∧ x.fill = m.fill ∧ t.mem = s.mem) ∧
    (Memory.wf s.mem = true → m.phase ≤ mediaField r 0 8 → m.sealCount ≤ intervalOf m r →
      intervalOf m r < m.sealCount + m.depth → m.filled (intervalOf m r) + k ≤ m.slots →
      ∃ t x, exec (.mediaRecord id r) s = .next t ∧ t.media? id m.handle = some x ∧
        x.filled (intervalOf m r) = m.filled (intervalOf m r) + k ∧ x.late = m.late ∧ x.early = m.early ∧
        x.full = m.full ∧ sameOutside s t (s.mediaPlace m (intervalOf m r) (m.filled (intervalOf m r))) (4 * k) ∧
        ∀ i, i < k → bytesAt t (s.mediaPlace m (intervalOf m r) (m.filled (intervalOf m r)) + 4 * i) 4 =
          mediaField r (16 + 4 * i) 4) ∧
    (∀ z : BitVec 256, (s.media? id (mediaField z 8 1) = none ∨ mediaField z 10 6 ≠ 0 ∨ mediaField z 9 1 = 0 ∨
        4 < mediaField z 9 1 ∨ ∃ i, i < 4 ∧ 0xFFFFFFFE ≤ mediaField z (16 + 4 * i) 4) →
      exec (.mediaRecord id z) s = .next { s with reports := s.reports ++ [.recordDropped] })

/-- A media tick seals the open intervals that have ended, in order: GAP in their empty positions, the reader at the start of
the last, and what was not read counted. Its element waits, and goes to q4 of the note core of a running launch with room.
Which intervals one tick seals, and that UNREAD counts the positions not read of tokens alone, is the model's reading (log
83). -/
def StatementParts.MediaTicks : Prop :=
  ∀ (s : State) (m : Media), s.media? m.claim m.handle = some m → s.ready.getLsbD 3 = true →
    (∀ (t : Nat) (ts : List Nat) (n : Nat), Memory.wf s.mem = true → m.ticks = t :: ts → m.tick = 0 → m.win % 4 = 0 →
      n ≤ m.depth → (0 < n → m.phase + (m.sealCount + n) * m.period ≤ t) →
      (n < m.depth → t < m.phase + (m.sealCount + n + 1) * m.period) →
      ∃ u x, exec (.mediaTick m.claim m.handle) s = .next u ∧ u.media? m.claim m.handle = some x ∧
        x.sealCount = m.sealCount + n ∧ x.ticks = ts ∧ x.late = m.late ∧ x.early = m.early ∧ x.full = m.full ∧
        x.pendingNote = (m.pendingNote || m.note / 2 ^ 15 % 2 == 1) ∧
        (0 < n → x.readPos = 0 ∧ x.current = m.filled (m.sealCount + n - 1) ∧
          x.unread = m.unread + (if 0 < m.sealCount then BitVec.ofNat 64 (m.current - m.readPos) else 0) +
            ((List.range (n - 1)).map (fun j => BitVec.ofNat 64 (m.filled (m.sealCount + j)))).sum) ∧
        (n = 0 → u.mem = s.mem ∧ x.readPos = m.readPos ∧ x.unread = m.unread) ∧
        ∀ j, j < n → ∀ i, i < m.slots - m.filled (m.sealCount + j) →
          bytesAt u (s.mediaPlace m (m.sealCount + j) (m.filled (m.sealCount + j)) + 4 * i) 4 = 0xFFFFFFFE) ∧
    (m.ticks = [] → exec (.mediaTick m.claim m.handle) s = .next s) ∧
    (∀ cl : Claim, s.claim? m.claim = some cl → m.pendingNote = true →
      s.runsFor m.claim (cl.rect.coreOf (m.note % 2 ^ 13)) = true →
      ((s.coreOf (cl.rect.coreOf (m.note % 2 ^ 13))).port 4).length < 8 →
      (s.coreOf (cl.rect.coreOf (m.note % 2 ^ 13))).notes = [] →
      ∃ u x, exec (.mediaTickElement m.claim m.handle) s = .next u ∧ u.media? m.claim m.handle = some x ∧
        x.pendingNote = false ∧ x.unreported = 0 ∧
        (u.coreOf (cl.rect.coreOf (m.note % 2 ^ 13))).port 4 =
          (s.coreOf (cl.rect.coreOf (m.note % 2 ^ 13))).port 4 ++ [m.element]) ∧
    (m.pendingNote = false → exec (.mediaTickElement m.claim m.handle) s = .next s)

/-- MPOP reads the next position of the sealed interval with its number, or GAP with the end flag once the interval is read
out; MPOP of a handle that is not installed traps. MSTAT reads a counter; it traps where bits past its fields are set. -/
def StatementParts.MediaReads : Prop :=
  ∀ (s : State) (a b : GReg), s.ports [b] [a] = .ok () → a.val ≠ 25 → s.isDet s.cur.core = false →
    (∀ m : Media, s.media? (s.claimId s.cur.core) (s.readG b).1.toNat = some m → m.claim = s.claimId s.cur.core →
      m.handle = (s.readG b).1.toNat → m.handle < 64 →
      (0 < m.sealCount → m.readPos ≠ m.slots →
        s.poisonedIn (s.mediaPlace m (m.sealCount - 1) m.readPos) 4 = false →
        ∃ t x, exec (.mpop a b) s = .next t ∧ t.me.pc = s.me.npc ∧ t.mem = s.mem ∧
          t.media? m.claim m.handle = some x ∧ x.readPos = m.readPos + 1 ∧ x.sealCount = m.sealCount ∧
          (0 < a.val → a.val < 24 →
            (vget t.me.g a.val 0).toNat =
              (m.sealCount - 1) % 2 ^ 24 * 2 ^ 40 +
                bytesAt s (s.mediaPlace m (m.sealCount - 1) m.readPos) 4)) ∧
      (0 < m.sealCount → m.readPos = m.slots →
        exec (.mpop a b) s =
          .next (put (s.readG b).2 a (BitVec.ofNat 64
            ((m.sealCount - 1) % 2 ^ 24 * 2 ^ 40 + 2 ^ 32 + 0xFFFFFFFE))).retire)) ∧
    (s.media? (s.claimId s.cur.core) (s.readG b).1.toNat = none →
      exec (.mpop a b) s = .next (trapped s 0x02 0 0)) ∧
    (∀ m : Media, (s.readG b).1.toNat / 2 ^ 11 = 0 → (s.readG b).1.toNat / 2 ^ 6 % 4 = 0 →
      s.media? (s.claimId s.cur.core) ((s.readG b).1.toNat % 64) = some m →
      ∀ p ∈ ([(0, m.late), (1, m.early), (2, m.full), (3, m.unread), (4, BitVec.ofNat 64 m.sink), (5, m.slid)] :
          List (Nat × Word)),
        (s.readG b).1.toNat / 2 ^ 8 = p.1 →
        exec (.mstat a b) s = .next (put (s.readG b).2 a p.2).retire) ∧
    ((s.readG b).1.toNat / 2 ^ 11 ≠ 0 → exec (.mstat a b) s = .next (trapped s 0x02 0 0))

/-- Ticks of a media stream, and MPOP and MSTAT. Which intervals a tick seals, and UNREAD, are the model's choice
(log 83). -/
def Obligations.MediaEvents : Prop := StatementParts.MediaTicks ∧ StatementParts.MediaReads

namespace Sys2Proof.Claims

/-- The only request under way to an event unit: that of slot `k` of core `c` for the item at `off`, a store of `data` or a
load; the cluster has power and, for a load, the slot waits (02 R22, R23). -/
def oneRequest (s : State) (c : Nat) (k : Fin 4) (off : Nat) (data : Option Word) : Prop :=
  s.unitReqs = [⟨c, k.val, off, data, false⟩] ∧ s.gated.contains (clusterOf c) = false ∧
  (data = none → (s.slotOf c k.val).wait = .request)

/-- Line `i` of the set that serves core `c`. -/
def lineOf (s : State) (c i : Nat) : Option Word := vget (s.unitOf c).lines i none
/-- Mutex `i` is held. -/
def mutexOf (s : State) (c i : Nat) : Bool := vget (s.unitOf c).mutexes i false
/-- Barrier `i`. -/
def barrierOf (s : State) (c i : Nat) : ClusterBarrier := vget (s.unitOf c).barriers i ⟨0, 0, []⟩

/-- The slot's load has its value, and nothing is under way. -/
def answered (t : State) (c : Nat) (k : Fin 4) (v : Word) : Prop :=
  (t.slotOf c k.val).wait = .reply v ∧ t.unitReqs = []

/-- Request `n` in flight may be performed: no earlier one of its slot touches its bytes, the receiver allows it, and what it
reads can be corrected (07 R140); nothing that the slot's sequencer owes goes before it, no earlier one touches its 8-byte
words (08 R159), and the receiver has power. -/
def remoteDue (s : State) (n : Nat) (r : Remote) : Prop :=
  s.remotes[n]? = some r ∧ r.after = 0 ∧ s.gated.contains (clusterOf r.dst) = false ∧
  (∀ x ∈ s.remotes.take n, x.core = r.core → x.slot = r.slot → x.dst = r.dst →
    x.off + x.req.size ≤ r.off / 8 * 8 ∨ r.off + r.req.size ≤ x.off / 8 * 8) ∧
  s.remoteOk (s.claimId r.core) r.dst r.off r.req = true ∧
  (r.req.reads = true → s.poisonedIn (sram r.dst r.off) r.req.size = false)

/-- Word `i` of a save area, as a number. -/
def areaWord (s : State) (p o i : Nat) : Nat := bytesAt s (firmwareBase + p + o + 8 * i) 8

/-- The core has not arrived at DOM0, and neither a release nor an exchange phase of it runs. -/
def notArrived (s : State) (c : Nat) : Prop :=
  (domValid ((s.coreOf c).dom 0) = false ∨ (s.coreOf c).arrivedAt 0 = false) ∧
  let r := (s.coreOf c).runOf 0
  r.exchange = false ∧ r.releasing = false ∧ r.counted = false ∧ r.sent = false

end Sys2Proof.Claims

/-- The event unit: lines are set, cleared, tested and waited for; a free mutex is taken, a held one is waited for, and freed
when nobody waits; a barrier counts, waits for its count and answers its generation, and one with no count answers -1. -/
def Obligations.EventUnit : Prop :=
  ∀ (s : State) (c : Nat) (k : Fin 4) (i : Nat) (v : Word), i < 16 →
    (oneRequest s c k (8 * i) (some v) →
      ∃ t, exec (.eventLineSet c k) s = .next t ∧ lineOf t c i = some v ∧ t.unitReqs = [] ∧
        ∀ j, j < 16 → j ≠ i → lineOf t c j = lineOf s c j) ∧
    (oneRequest s c k (8 * i) none → lineOf s c i = some v →
      ∃ t, exec (.eventLineWait c k) s = .next t ∧ answered t c k v ∧ lineOf t c i = some v) ∧
    (oneRequest s c k (8 * i) none → lineOf s c i = none →
      ∃ t, exec (.eventLineWait c k) s = .next t ∧ t.unitReqs = [⟨c, k.val, 8 * i, none, true⟩] ∧
        (t.slotOf c k.val).wait = .request) ∧
    (oneRequest s c k (0x80 + 8 * i) (some v) →
      ∃ t, exec (.eventLineClear c k) s = .next t ∧ lineOf t c i = none ∧ t.unitReqs = [] ∧
        ∀ j, j < 16 → j ≠ i → lineOf t c j = lineOf s c j) ∧
    (oneRequest s c k (0x80 + 8 * i) none →
      ∃ t, exec (.eventLineTest c k) s = .next t ∧ answered t c k (if (lineOf s c i).isSome then 1 else 0) ∧
        lineOf t c i = lineOf s c i) ∧
    (oneRequest s c k (0x100 + 8 * i) none →
      (mutexOf s c i = false →
        ∃ t, exec (.mutexTake c k) s = .next t ∧ answered t c k 1 ∧ mutexOf t c i = true) ∧
      (mutexOf s c i = true →
        ∃ t, exec (.mutexTake c k) s = .next t ∧ t.unitReqs = [⟨c, k.val, 0x100 + 8 * i, none, true⟩] ∧
          mutexOf t c i = true)) ∧
    (oneRequest s c k (0x100 + 8 * i) (some v) →
      ∃ t, exec (.mutexFree c k) s = .next t ∧ mutexOf t c i = false ∧ t.unitReqs = []) ∧
    (i < 4 → oneRequest s c k (0x180 + 8 * i) (some v) → 1 ≤ v.toNat → v.toNat ≤ 64 →
      (barrierOf s c i).waiters.length < v.toNat →
      ∃ t, exec (.clusterBarrierCount c k) s = .next t ∧ (barrierOf t c i).count = v.toNat ∧
        (barrierOf t c i).waiters = (barrierOf s c i).waiters ∧ t.unitReqs = []) ∧
    (i < 4 → oneRequest s c k (0x180 + 8 * i) none →
      ((barrierOf s c i).count = 0 →
        ∃ t, exec (.clusterBarrierArrive c k) s = .next t ∧ answered t c k 0xFFFFFFFFFFFFFFFF) ∧
      ((barrierOf s c i).waiters.length + 1 < (barrierOf s c i).count →
        ∃ t, exec (.clusterBarrierArrive c k) s = .next t ∧
          (barrierOf t c i).waiters = (barrierOf s c i).waiters ++ [(c, k.val)] ∧
          (t.slotOf c k.val).wait = .request) ∧
      ((barrierOf s c i).waiters.length + 1 = (barrierOf s c i).count →
        ∃ t, exec (.clusterBarrierArrive c k) s = .next t ∧
          answered t c k ((barrierOf s c i).gen.setWidth 64) ∧ (barrierOf t c i).waiters = [] ∧
          (barrierOf t c i).gen = (barrierOf s c i).gen + 1))

/-- A remote request at its receiver: a store writes its bytes and no others, a load and an atomic answer the old value, and
one that the receiver refuses ends the sender's launch with a protection trap in its queue's fault record. That the record
holds the pc of the sending instruction, and the receiving core's id, is the model's choice (logs 47 and 102). -/
def StatementParts.RemoteAccesses : Prop :=
  ∀ (s : State) (n : Nat) (r : Remote),
    (remoteDue s n r → Memory.wf s.mem = true →
      (∀ (w : Nat) (v : Word), w ≤ 8 → r.req = .store w v → r.reply = .nobody →
        ∃ t, exec (.remoteAccess n) s = .next t ∧ t.remotes = s.remotes.eraseIdx n ∧
          bytesAt t (sram r.dst r.off) w = v.toNat % 2 ^ (8 * w) ∧ sameOutside s t (sram r.dst r.off) w ∧
          t.cores = s.cores) ∧
      (∀ w : Nat, w ≤ 8 → r.req = .load w → r.reply = .pipe → r.slot < 4 →
        (s.slotOf r.core r.slot).wait = .request →
        ∃ t, exec (.remoteAccess n) s = .next t ∧ t.mem = s.mem ∧
          (t.slotOf r.core r.slot).wait = .reply (BitVec.ofNat 64 (bytesAt s (sram r.dst r.off) w))) ∧
      (∀ (v x : Word), r.req = .atomic 0 8 false v x → r.reply = .pipe → r.slot < 4 →
        (s.slotOf r.core r.slot).wait = .request →
        ∃ t, exec (.remoteAccess n) s = .next t ∧
          (t.slotOf r.core r.slot).wait = .reply (BitVec.ofNat 64 (bytesAt s (sram r.dst r.off) 8)) ∧
          bytesAt t (sram r.dst r.off) 8 = (bytesAt s (sram r.dst r.off) 8 + v.toNat) % 2 ^ 64 ∧
          sameOutside s t (sram r.dst r.off) 8)) ∧
    (∀ (l : Launch) (w : Nat) (v : Word), s.remotes = [r] → r.after = 0 →
      s.gated.contains (clusterOf r.dst) = false → r.req = .store w v →
      s.remoteOk (s.claimId r.core) r.dst r.off r.req = false → s.residentOf r.core = some l →
      ∃ t, exec (.remoteAccess 0) s = .next t ∧ t.launch? l.id = none ∧
        (t.queueOf l.queue).fault =
          some ⟨causeWord false 1 0x04, r.pc.setWidth 64, BitVec.ofNat 64 r.dst, s.logical r.core⟩)

/-- The page-fault service maps the page of a miss: the entry stands in its way of the bucket, and the slot goes on; a
refusal ends the slot's launch with a translation fault. -/
def StatementParts.PageService : Prop :=
  ∀ (s : State) (n c k : Nat) (claim va : Nat) (w : Bool) (pc : VAddr), s.ready.getLsbD 1 = true → k < 4 →
    s.misses[n]? = some ⟨.slot c k, claim, va, w, pc⟩ →
    (∀ (e : Entry) (a : Nat), Memory.wf s.mem = true → entMatches claim (entSize e) va e = true → entOk e = true →
      s.walk claim va = none → s.entClash e = false → s.entWay e = some a → (s.slotOf c k).wait = .page va →
      ∃ t, exec (.pageFaultService n (some e)) s = .next t ∧ bytesAt t a 16 = e.toNat ∧ sameOutside s t a 16 ∧
        (t.slotOf c k).wait = .none ∧ t.misses = s.misses.eraseIdx n) ∧
    (∀ l : Launch, s.residentOf c = some l →
      ∃ t, exec (.pageFaultService n none) s = .next t ∧ t.launch? l.id = none ∧
        (t.queueOf l.queue).fault =
          some ⟨causeWord false 0 0x05, pc.setWidth 64, BitVec.ofNat 64 va, s.logical c⟩)

/-- Remote accesses at the receiver, and the page-fault service. The pc and the core id of the record of a refused
access are the model's choice (logs 47 and 102). -/
def Obligations.RemoteAndPageRows : Prop := StatementParts.RemoteAccesses ∧ StatementParts.PageService

/-- TLBI and PROTW at firmware privilege: every core forgets the claim's translations and no other; a region of the target
core is what stands at the pointer. Bad operands trap. -/
def Obligations.FirmwareMemory : Prop :=
  ∀ (s : State) (a b : GReg), s.isFw s.cur.core = true → s.ports [b, a] [] = .ok () →
    (∀ w : Word, w = ((s.readG b).2.readG a).1 → w.toNat / 2 ^ 8 = 1 → (s.readG b).1.toNat < 2 ^ 48 →
      ∃ t, exec (.tlbi a b) s = .next t ∧ t.mem = s.mem ∧ t.me.g = s.me.g ∧ t.me.pc = s.me.npc ∧
        ∀ (c : Nat) (e : Entry), e ∈ (t.coreOf c).tlb ↔ (e ∈ (s.coreOf c).tlb ∧ entClaim e ≠ w.toNat % 2 ^ 8)) ∧
    (∀ w : Word, w = ((s.readG b).2.readG a).1 → (2 ^ 11 ≤ w.toNat ∨ bits w 9 2 = 3) →
      exec (.tlbi a b) s = .next (trapped s 0x02 0 0)) ∧
    (∀ (w : Word) (c i e : Nat), w = ((s.readG b).2.readG a).1 → i < 8 → c < numCores → s.absent.contains c = false →
      w.toNat = c + 2 ^ 16 * i → (s.readG b).1.toNat % 16 = 0 → ea (s.readG b).1 0 0 0 = .ok e →
      selfReady s e 16 true false →
      (regionBad (BitVec.ofNat 128 (bytesAt s (sram s.cur.core e) 16)) = false →
        ∃ t, exec (.protw a b) s = .next t ∧ t.mem = s.mem ∧ t.me.pc = s.me.npc ∧
          vget (t.coreOf c).regions i 0 = BitVec.ofNat 128 (bytesAt s (sram s.cur.core e) 16) ∧
          ∀ j, j < 8 → j ≠ i → vget (t.coreOf c).regions j 0 = vget (s.coreOf c).regions j 0) ∧
      (regionBad (BitVec.ofNat 128 (bytesAt s (sram s.cur.core e) 16)) = true →
        exec (.protw a b) s = .next (trapped s 0x02 0 0)))

/-- CTXS of a stopped core puts each slot's pc and general registers at their places of the save area and leaves the core
idle; CTXL into an idle core takes them from there. That a slot that has ended is saved at the exit address is the model's
choice (log 13). CTXS of a clean pre-emption holds while the core still has work to do. -/
def StatementParts.SaveAndRestore : Prop :=
  ∀ (s : State) (a b : GReg) (c : Nat), s.isFw s.cur.core = true → s.ports [b, a] [] = .ok () →
    ((s.readG b).2.readG a).1.toNat = c → c < numCores → c ≠ s.cur.core → (s.readG b).1.toNat % 256 = 0 →
    0x800000000000 ≤ (s.readG b).1.toNat → (s.readG b).1.toNat + 0x14000 ≤ 2 ^ 48 → Memory.wf s.mem = true →
    (∀ l : Launch, s.residentOf c = some l → (s.coreOf c).stopped = true → l.preempt = .saved →
      ∃ t, exec (.ctxs a b) s = .next t ∧ t.me.pc = s.me.npc ∧ (t.coreOf c).resident = none ∧
        (t.coreOf c).stopped = false ∧
        (∀ k : Fin 4, areaWord t (s.readG b).1.toNat (0x400 + 0xE00 * k.val) 0 =
            (if (s.slotOf c k.val).run = .ended then 0x800000000000 else (s.slotOf c k.val).pc.toNat) ∧
          ∀ r : Fin 24, r.val ≠ 0 →
            areaWord t (s.readG b).1.toNat (0x400 + 0xE00 * k.val) r.val = (vget (s.slotOf c k.val).g r.val 0).toNat)) ∧
    ((s.coreOf c).resident = none → s.isFw c = false → s.absent.contains c = false →
      readCell s.mem (firmwareBase + (s.readG b).1.toNat) = Config.step → (∀ x ∈ s.latches, x.1 ≠ clusterOf c) →
      ∃ t, exec (.ctxl a b) s = .next t ∧ t.me.pc = s.me.npc ∧ t.mem = s.mem ∧
        t.gated = s.gated.filter (fun x => x != clusterOf c) ∧
        (∀ k : Fin 4,
          (t.slotOf c k.val).pc.toNat = areaWord s (s.readG b).1.toNat (0x400 + 0xE00 * k.val) 0 % 2 ^ 48 ∧
          ∀ r : Fin 24, r.val ≠ 0 → (vget (t.slotOf c k.val).g r.val 0).toNat =
            areaWord s (s.readG b).1.toNat (0x400 + 0xE00 * k.val) r.val)) ∧
    (∀ l : Launch, s.residentOf c = some l → (s.coreOf c).stopped = true → l.preempt = .clean → s.saveHeld c = true →
      exec (.ctxs a b) s = .next (heldState s)) ∧
    ((s.coreOf c).resident = none → exec (.ctxs a b) s = .next (trapped s 0x02 0 0))

/-- Pre-emption: a request is classed by what it finds, once: clean where every member of every group's DOM0 has arrived, one
of them by an instruction, or its release or exchange phase runs, and forced where one is still computing; a forced one takes effect outside a
deterministic launch when nothing of the launch travels, and stops every core of it. -/
def StatementParts.Preemption : Prop :=
  ∀ (s : State) (l : Launch), s.launch? l.id = some l → (∀ g ∈ l.groups, g.entered = true) →
    (l.preempt = .none →
      ∃ t x, exec (.preemptRequest l.id) s = .next t ∧ t.launch? l.id = some { l with preempt := x } ∧
        t.cores = s.cores ∧ t.mem = s.mem ∧ (x = .clean ∨ x = .forced) ∧
        ((∃ c ∈ l.cores, notArrived s c) → x = .forced) ∧
        ((∀ g ∈ l.groups, (∀ c ∈ g.rect.cores, domValid ((s.coreOf c).dom 0) = true ∧ (s.coreOf c).arrivedAt 0 = true) ∧
            ∃ c ∈ g.rect.cores, ((s.coreOf c).runOf 0).executed = true) → x = .clean) ∧
        ((∀ g ∈ l.groups, g.rect.cores ≠ [] ∧ ∀ c ∈ g.rect.cores,
            ((s.coreOf c).runOf 0).exchange = true ∨ ((s.coreOf c).runOf 0).releasing = true) → x = .clean)) ∧
    (l.preempt ≠ .none → exec (.preemptRequest l.id) s = .next s) ∧
    (l.preempt = .forced → l.det = false → s.drained l = true →
      ∃ t x, exec (.forcedPreempt l.id) s = .next t ∧ t.launch? l.id = some x ∧ x.preempt = .saved ∧
        x.groups = l.groups ∧ x.queue = l.queue ∧
        ((∀ c ∈ l.cores, ∀ k : Fin 4, (s.slotOf c k.val).buffer = []) → t.mem = s.mem) ∧
        ∀ c ∈ l.cores, (t.coreOf c).stopped = true ∧
          ∀ k : Fin 4, (t.slotOf c k.val).g = (s.slotOf c k.val).g ∧ (t.slotOf c k.val).crew = none) ∧
    ((l.preempt ≠ .forced ∨ l.det = true ∨ s.drained l = false) → exec (.forcedPreempt l.id) s = .next s)

/-- CTXS and CTXL, and the two pre-emptions. How an ended slot is saved is the model's choice (log 13). -/
def Obligations.SavePreemptRestore : Prop := StatementParts.SaveAndRestore ∧ StatementParts.Preemption

namespace Sys2Proof.Claims

/-- A command of code `code` at host address `p`, submitted and ready to be taken: its record `r`, whose bytes outside its
named fields are zero (12 R231). -/
def commandAt (s : State) (p code : Nat) (fields : List (Nat × Nat)) (r : Rec) : Prop :=
  p ∈ s.commands ∧ s.ready.getLsbD 0 = true ∧ r = s.recordAt p ∧ recField r 0 1 = code ∧ recField r 1 7 = 0 ∧
  ∀ i, i < 48 → (∀ f ∈ fields, ¬ (f.1 ≤ 16 + i ∧ 16 + i < f.2)) → recField r (16 + i) 1 = 0

/-- The command has been taken, and, where it names no signal, nothing of memory changed but by its own effect. -/
def taken (s t : State) (p : Nat) : Prop := t.commands = s.commands.erase p

/-- Packet `n` of queue `q`, of record `r`, starts next and is well formed; its CSIG is 0 (12 R220-R222). -/
def packetAt (s : State) (q n : Nat) (r : Rec) (ty op : Nat) : Prop :=
  s.nextPacket q = some (n, r) ∧ packetType r = ty ∧ packetOp r = op ∧ packetBad r = false ∧ packetSignal r = 0 ∧
  (∀ x ∈ (s.queueOf q).running, x.number ≠ n) ∧ (s.queueOf q).state = .active

/-- The packet has started and completed: RDIDX passes it, and it does not run. -/
def packetDone (s t : State) (q n : Nat) : Prop :=
  (t.queueOf q).rd = n + 1 ∧ (t.queueOf q).running = (s.queueOf q).running ∧ (t.queueOf q).state = .active ∧
  (t.queueOf q).wr = (s.queueOf q).wr

/-- The rows of the packet processor that start a packet, with the TYPE and the OP that they take. -/
def packetTable : List ((Nat → Instr) × Nat × Option Nat) :=
  [(.barrier, 2, none), (.copyPacket, 3, none), (.timerArmAbsolute, 4, some 0), (.timerArmPeriodic, 4, some 1),
   (.timerDisarm, 4, some 2), (.signalStore, 5, some 0), (.signalAdd, 5, some 1), (.signalDecrement, 5, some 2),
   (.committeeStart, 6, some 0), (.committeeSequence, 6, some 1), (.committeeStop, 6, some 2), (.nop, 7, none)]

/-- The state in which a packet's own effect takes place. -/
def started (s : State) (q n : Nat) (r : Rec) : State := s.startPacket q n r none

end Sys2Proof.Claims

/-- CLAIM and UNCLAIM: a grantable rectangle becomes a claim with every seed 0 and no vocabulary; UNCLAIM leaves no claim,
launch, committee, media stream or miss of its id. Where a command of its launches still writes, the launches are killed and
the command stays submitted until those writes are done: two events are the model's choice (log 132). -/
def StatementParts.ClaimCommands : Prop :=
  ∀ (s : State) (p : Nat) (r : Rec),
    (commandAt s p 1 [(16, 22)] r → s.claim? (recField r 16 1) = none → recField r 21 1 ≤ 1 →
      s.grantable ⟨recField r 17 1, recField r 18 1, recField r 19 1, recField r 20 1⟩ = true →
      ∃ t, exec (.claim p) s = .next t ∧ taken s t p ∧ t.launches = s.launches ∧
        t.claims = s.claims ++ [⟨recField r 16 1,
          ⟨recField r 17 1, recField r 18 1, recField r 19 1, recField r 20 1⟩, recField r 21 1 == 1,
          Vector.replicate 16 0, [], false, 0⟩]) ∧
    (commandAt s p 1 [(16, 22)] r → s.grantable ⟨recField r 17 1, recField r 18 1, recField r 19 1, recField r 20 1⟩ = false →
      ∃ t, exec (.claim p) s = .next t ∧ taken s t p ∧ t.claims = s.claims) ∧
    (commandAt s p 2 [(16, 17)] r → (s.claim? (recField r 16 1)).isSome = true →
      (∀ x ∈ s.closing, x.claim ≠ recField r 16 1) →
      (∀ l ∈ s.launches, l.claim = recField r 16 1 → s.unwritten l.cores = []) →
      ∃ t, exec (.unclaim p) s = .next t ∧ taken s t p ∧ t.claim? (recField r 16 1) = none ∧
        (∀ l ∈ t.launches, l.claim ≠ recField r 16 1) ∧ (∀ m ∈ t.media, m.claim ≠ recField r 16 1) ∧
        (∀ y ∈ t.committees, y.claim ≠ recField r 16 1) ∧ (∀ m ∈ t.misses, m.claim ≠ recField r 16 1)) ∧
    (commandAt s p 2 [(16, 17)] r → (s.claim? (recField r 16 1)).isSome = true →
      (∃ l ∈ s.launches, l.claim = recField r 16 1 ∧ s.unwritten l.cores ≠ []) →
      ∃ t, exec (.unclaim p) s = .next t ∧ t.commands = s.commands ∧ (t.claim? (recField r 16 1)).isSome = true ∧
        ∀ l ∈ t.launches, l.claim ≠ recField r 16 1) ∧
    (p ∉ s.commands → exec (.claim p) s = .next s ∧ exec (.unclaim p) s = .next s)

/-- QCREATE, QRESET and QDESTROY: an ABSENT queue becomes ACTIVE and empty; a queue with nothing running becomes ACTIVE with
its ring empty; a destroyed one is ABSENT, or DRAINING while a packet runs. A QCREATE that breaks its table is refused, and
that a good one waits for its claim is the model's choice (log 110). -/
def StatementParts.QueueCommands : Prop :=
  ∀ (s : State) (p : Nat) (r : Rec),
    (commandAt s p 3 [(16, 22), (24, 32)] r → recField r 16 2 ≤ 1023 →
      (s.queueOf (recField r 16 2)).state = .absent → 1 ≤ recField r 18 1 → recField r 18 1 ≤ 16 → recField r 19 1 ≤ 3 →
      (s.claim? (recField r 20 1)).isSome = true → recField r 21 1 = 1 → recField r 24 8 % 64 = 0 →
      ∃ t, exec (.qcreate p) s = .next t ∧ taken s t p ∧
        t.queueOf (recField r 16 2) =
          { state := .active, base := BitVec.ofNat 64 (recField r 24 8), host := true, logsize := recField r 18 1,
            prio := recField r 19 1, claim := recField r 20 1, wr := 0, rd := 0, running := [], placing := none,
            noted := none, fault := none } ∧
        ∀ q, q ≠ recField r 16 2 → t.queueOf q = s.queueOf q) ∧
    (commandAt s p 3 [(16, 22), (24, 32)] r → s.claim? (recField r 20 1) = none →
      (s.queueForm r = true → exec (.qcreate p) s = .next s) ∧
      ((1023 < recField r 16 2 ∨ recField r 18 1 = 0 ∨ 16 < recField r 18 1 ∨ 3 < recField r 19 1 ∨ 1 < recField r 21 1 ∨
          recField r 24 8 % 64 ≠ 0) →
        ∃ t, exec (.qcreate p) s = .next t ∧ taken s t p ∧ ∀ q, t.queueOf q = s.queueOf q)) ∧
    (commandAt s p 4 [(16, 18)] r → recField r 16 2 ≤ 1023 → (s.queueOf (recField r 16 2)).state ≠ .absent →
      (s.queueOf (recField r 16 2)).running = [] →
      ∃ t, exec (.qreset p) s = .next t ∧ taken s t p ∧ (t.queueOf (recField r 16 2)).state = .active ∧
        (t.queueOf (recField r 16 2)).rd = (t.queueOf (recField r 16 2)).wr ∧
        (t.queueOf (recField r 16 2)).wr = (s.queueOf (recField r 16 2)).wr) ∧
    (commandAt s p 5 [(16, 18)] r → recField r 16 2 ≤ 1023 → (s.queueOf (recField r 16 2)).state ≠ .absent →
      ∃ t, exec (.qdestroy p) s = .next t ∧ taken s t p ∧
        ((s.queueOf (recField r 16 2)).running = [] → (t.queueOf (recField r 16 2)).state = .absent) ∧
        ((s.queueOf (recField r 16 2)).running ≠ [] → (t.queueOf (recField r 16 2)).state = .draining))

/-- The host commands for claims and queues. That a good QCREATE waits for its claim, and that an UNCLAIM takes place in two
events where commands still write, is the model's choice (logs 110 and 132). -/
def Obligations.ClaimsAndQueues : Prop := StatementParts.ClaimCommands ∧ StatementParts.QueueCommands

/-- SEED, VOCAB, MEDIA, MAP and ATTEST take their effect, and a command's signal falls by 1, or becomes -1 where the command
is refused. That a MEDIA of a handle that is installed already replaces its stream, and the constants and layout of the
digests and signatures of ATTEST, are the model's (logs 27 and 109). -/
def Obligations.ClaimData : Prop :=
  ∀ (s : State) (p : Nat) (r : Rec) (x : Claim),
    (commandAt s p 6 [(16, 18), (24, 32)] r → s.claim? (recField r 16 1) = some x → Memory.wf s.mem = true →
      (1 ≤ recField r 17 1 → recField r 17 1 ≤ 15 →
        ∃ t y, exec (.seed p) s = .next t ∧ taken s t p ∧ t.claim? (recField r 16 1) = some y ∧
          vget y.seeds (recField r 17 1) 0 = recWord r 24 ∧
          (∀ n, n < 16 → n ≠ recField r 17 1 → vget y.seeds n 0 = vget x.seeds n 0) ∧
          (recField r 8 8 = 0 → t.mem = s.mem) ∧
          (recField r 8 8 ≠ 0 →
            (bytesAt t (hostBase + recField r 8 8) 8 + 1) % 2 ^ 64 = bytesAt s (hostBase + recField r 8 8) 8)) ∧
      ((recField r 17 1 = 0 ∨ 15 < recField r 17 1) →
        ∃ t, exec (.seed p) s = .next t ∧ taken s t p ∧ t.claims = s.claims ∧
          (recField r 8 8 ≠ 0 → bytesAt t (hostBase + recField r 8 8) 8 = 2 ^ 64 - 1))) ∧
    (∀ v : Vocab, commandAt s p 7 [(16, 18), (24, 36)] r → s.claim? (recField r 16 1) = some x →
      recField r 17 1 ≤ 15 →
      vocabFrom (recField r 17 1) (s.readBytes (hostBase + recField r 24 8) (recField r 32 4)) = some v →
      ∃ t y, exec (.vocab p) s = .next t ∧ taken s t p ∧ t.claim? (recField r 16 1) = some y ∧
        y.vocabs = v :: x.vocabs.filter (fun z => z.id != recField r 17 1)) ∧
    (∀ m : Media, commandAt s p 8 [(16, 18), (24, 32)] r → s.claim? (recField r 16 1) = some x →
      recField r 17 1 ≤ 63 → s.timers.length < 4096 →
      s.streamFrom x (recField r 17 1) (BitVec.ofNat 512 (bytesAt s (hostBase + recField r 24 8) 64)) = some m →
      ∃ t, exec (.media p) s = .next t ∧ taken s t p ∧ t.media? (recField r 16 1) (recField r 17 1) = some m ∧
        ∃ u ∈ t.timers, u.target = .media (recField r 17 1) ∧ u.period = m.period ∧ u.claim = recField r 16 1) ∧
    (∀ (e : Entry) (a : Nat), commandAt s p 9 [(16, 17), (18, 20), (24, 32)] r → recField r 18 2 = 1 →
      recField r 8 8 = 0 → Memory.wf s.mem = true → s.claim? (recField r 16 1) = some x →
      e = BitVec.ofNat 128 (bytesAt s (hostBase + recField r 24 8) 16) → entInvalid (recField r 16 1) e = false →
      entV e = true → s.entClash e = false → s.entWay e = some a →
      ∃ t, exec (.map p) s = .next t ∧ taken s t p ∧ bytesAt t a 16 = e.toNat ∧ sameOutside s t a 16 ∧
        ∀ c, ∀ y ∈ (t.coreOf c).tlb, entClaim y ≠ recField r 16 1) ∧
    (commandAt s p 10 [(16, 32)] r → recField r 8 8 = 0 → Memory.wf s.mem = true → recField r 24 8 % 64 = 0 →
      ∃ t, exec (.attest p) s = .next t ∧ taken s t p ∧ bytesAt t (hostBase + recField r 24 8) 4 = 1 ∧
        bytesAt t (hostBase + recField r 24 8 + 4) 8 = Config.serial.toNat ∧
        bytesAt t (hostBase + recField r 24 8 + 112) 48 = bytesAt s (hostBase + recField r 16 8) 48 ∧
        t.readBytes (hostBase + recField r 24 8 + 16) 48 = sha384 Config.romBytes ∧
        t.readBytes (hostBase + recField r 24 8 + 64) 48 = sha384 (Config.tableBytes s.wide) ∧
        bytesAt t (hostBase + recField r 24 8 + 160) 8 = s.time % 2 ^ 64 ∧
        sameOutside s t (hostBase + recField r 24 8) 272)

/-- The command doorbell queues its record; a queue doorbell moves WRIDX where it may and changes no queue where it goes
back; a store of the host, and a store, AADD, ACAS and load of a peer, do to memory what they say and nothing else; a store into a
power-gated cluster waits in its wake latch. -/
def Obligations.HostAccesses : Prop :=
  ∀ (s : State),
    (∀ p : Nat, p % 64 = 0 → s.commands.length < 64 →
      exec (.commandDoorbell p) s = .next { s with commands := s.commands ++ [p] }) ∧
    (∀ (q : Nat) (w : Word), q < 1024 → (s.queueOf q).state = .active → (s.queueOf q).wr ≤ w.toNat →
      w.toNat ≤ (s.queueOf q).rd + 2 ^ (s.queueOf q).logsize →
      exec (.queueDoorbell q w) s = .next (s.setQueue q { s.queueOf q with wr := w.toNat })) ∧
    (∀ (q : Nat) (w : Word), q < 1024 → (s.queueOf q).state = .active → w.toNat < (s.queueOf q).wr →
      ∃ t, exec (.queueDoorbell q w) s = .next t ∧ t.queues = s.queues ∧ t.mem = s.mem) ∧
    (∀ (p n : Nat) (w : Word), Memory.wf s.mem = true → n ∈ [1, 2, 4, 8] → p % n = 0 → memoryHas true p n = true →
      s.gatedAt p = none →
      ∃ t, exec (.hostStore p n w) s = .next t ∧ bytesAt t p n = w.toNat % 2 ^ (8 * n) ∧ sameOutside s t p n ∧
        t.cores = s.cores) ∧
    (∀ (p c : Nat) (w x : Word), p % 8 = 0 → s.gatedAt p = some c → (∀ z ∈ s.latches, z.1 ≠ c) →
      exec (.hostStore p 8 w) s = .next { s with latches := s.latches ++ [(c, .host p 8 w)] } ∧
      exec (.peerAccess p 8 8 w x) s = .next { s with latches := s.latches ++ [(c, .host p 8 w)] } ∧
      exec (.peerAccess p 8 11 w x) s = .next s) ∧
    (∀ (p : Nat) (w x : Word), Memory.wf s.mem = true → p % 8 = 0 → memoryHas false p 8 = true → s.gatedAt p = none →
      (∃ t, exec (.peerAccess p 8 8 w x) s = .next t ∧ bytesAt t p 8 = w.toNat ∧ sameOutside s t p 8) ∧
      (s.poisonedIn p 8 = false →
        (∃ t, exec (.peerAccess p 8 0 w x) s = .next t ∧ bytesAt t p 8 = (bytesAt s p 8 + w.toNat) % 2 ^ 64 ∧
          sameOutside s t p 8) ∧
        exec (.peerAccess p 8 11 w x) s = .next s ∧
        (bytesAt s p 8 = x.toNat →
          ∃ t, exec (.peerAccess p 8 7 w x) s = .next t ∧ bytesAt t p 8 = w.toNat ∧ sameOutside s t p 8) ∧
        (bytesAt s p 8 ≠ x.toNat → exec (.peerAccess p 8 7 w x) s = .next s)))

/-- NOP, SIGNAL and BARRIER packets: each starts in ring order and completes; a SIGNAL writes, adds or decrements its word;
a BARRIER waits until every signal reads 0. A SIGNAL that has to read a word that cannot be corrected completes with ABORT
(log 123, the model's choice), and so does every packet with a zero field set or an OP outside its table: its signal becomes
-1, and the queue goes on. -/
def Obligations.PacketResults : Prop :=
  ∀ (s : State) (q n : Nat) (r : Rec) (a : Nat), Memory.wf s.mem = true →
    (packetAt s q n r 7 (packetOp r) → ∃ t, exec (.nop q) s = .next t ∧ packetDone s t q n ∧ t.mem = s.mem) ∧
    (s.signalPlace (s.queueOf q).claim (recWord r 24) = some a →
      (packetAt s q n r 5 0 →
        ∃ t, exec (.signalStore q) s = .next t ∧ packetDone s t q n ∧ bytesAt t a 8 = recField r 32 8 ∧
          sameOutside s t a 8) ∧
      (packetAt s q n r 5 1 → s.poisonedIn a 8 = false →
        ∃ t, exec (.signalAdd q) s = .next t ∧ packetDone s t q n ∧
          bytesAt t a 8 = (bytesAt s a 8 + recField r 32 8) % 2 ^ 64 ∧ sameOutside s t a 8) ∧
      (packetAt s q n r 5 2 → s.poisonedIn a 8 = false →
        ∃ t, exec (.signalDecrement q) s = .next t ∧ packetDone s t q n ∧
          (bytesAt t a 8 + 1) % 2 ^ 64 = bytesAt s a 8 ∧ sameOutside s t a 8) ∧
      (s.poisonedIn a 8 = true →
        (packetAt s q n r 5 1 → ∃ t, exec (.signalAdd q) s = .next t ∧ packetDone s t q n ∧ t.mem = s.mem) ∧
        (packetAt s q n r 5 2 → ∃ t, exec (.signalDecrement q) s = .next t ∧ packetDone s t q n ∧ t.mem = s.mem) ∧
        (∀ b : Nat, s.nextPacket q = some (n, r) → packetType r = 5 → packetBad r = false →
          (∀ x ∈ (s.queueOf q).running, x.number ≠ n) → packetSignal r ≠ 0 →
          s.signalPlace (s.queueOf q).claim (packetSignal r) = some b →
          (packetOp r = 1 → ∃ t, exec (.signalAdd q) s = .next t ∧ bytesAt t b 8 = 2 ^ 64 - 1 ∧ sameOutside s t b 8 ∧
            (t.queueOf q).rd = n + 1 ∧ (t.queueOf q).state = .active) ∧
          (packetOp r = 2 → ∃ t, exec (.signalDecrement q) s = .next t ∧ bytesAt t b 8 = 2 ^ 64 - 1 ∧
            sameOutside s t b 8 ∧ (t.queueOf q).rd = n + 1 ∧ (t.queueOf q).state = .active)))) ∧
    (packetAt s q n r 2 (packetOp r) →
      ∃ t x, exec (.barrier q) s = .next t ∧ t.mem = s.mem ∧ (t.queueOf q).rd = n + 1 ∧
        (t.queueOf q).running = (s.queueOf q).running ++ [x] ∧ x.number = n ∧
        x.barrier = some ([recWord r 16, recWord r 24, recWord r 32].filter (fun w => w != 0))) ∧
    (∀ (x : Running) (l : List Word), (s.queueOf q).running = [x] → x.number = n → x.csig = 0 → x.barrier = some l →
      (s.queueOf q).state = .active → s.ready.getLsbD 0 = true →
      ((∀ w ∈ l, s.signalValue (s.queueOf q).claim w = some 0) →
        ∃ t, exec (.barrierComplete q n) s = .next t ∧ (t.queueOf q).running = [] ∧ t.mem = s.mem ∧
          (t.queueOf q).state = .active) ∧
      ((∃ w ∈ l, ∃ v : Word, s.signalValue (s.queueOf q).claim w = some v ∧ v ≠ 0 ∧ v.msb = false) →
        (∀ w ∈ l, ∃ v : Word, s.signalValue (s.queueOf q).claim w = some v ∧ v.msb = false) →
        exec (.barrierComplete q n) s = .next s)) ∧
    (∀ x ∈ packetTable, s.nextPacket q = some (n, r) → (∀ y ∈ (s.queueOf q).running, y.number ≠ n) →
      x.2.1 = packetType r → (x.2.2 = none ∨ x.2.2 = some (packetOp r) ∨ x.2.2 = some 0 ∧ 2 < packetOp r) →
      (packetBad r = true ∨ x.2.2 = some 0 ∧ 2 < packetOp r) →
      (packetSignal r = 0 →
        ∃ t, exec (x.1 q) s = .next t ∧ (t.queueOf q).rd = n + 1 ∧ (t.queueOf q).running = (s.queueOf q).running ∧
          (t.queueOf q).state = .active ∧ t.mem = s.mem) ∧
      (∀ b : Nat, packetSignal r ≠ 0 → s.signalPlace (s.queueOf q).claim (packetSignal r) = some b →
        ∃ t, exec (x.1 q) s = .next t ∧ (t.queueOf q).rd = n + 1 ∧ (t.queueOf q).running = (s.queueOf q).running ∧
          (t.queueOf q).state = .active ∧ bytesAt t b 8 = 2 ^ 64 - 1 ∧ sameOutside s t b 8))

/-- COPY, TIMER and COMMITTEE packets that are good: the record goes to its cluster's engine, a timer is armed or disarmed, a
committee is installed, a sequence waits, a stop of a committee with nothing in it completes. -/
def Obligations.FirmwarePackets : Prop :=
  ∀ (s : State) (q n : Nat) (r : Rec) (cl : Claim), s.claim? (s.queueOf q).claim = some cl →
    (∀ bs : List Byte, packetAt s q n r 3 (packetOp r) → recField r 16 8 % 64 = 0 →
      (started s q n r).firmwareRead (s.queueOf q).claim (recField r 16 8) 64 = some bs →
      s.clusterInClaim (s.queueOf q).claim (recField r 24 2) = true → headerBad 1 (recOf bs) = false →
      (started s q n r).copyChecks (s.queueOf q).claim (Vector.ofFn (fun i : Fin 16 => seedOf cl.seeds i.val))
        (recOf bs) = .ok () →
      ∃ t x, exec (.copyPacket q) s = .next t ∧ t.copies = s.copies ++ [x] ∧ x.record = recOf bs ∧
        x.pusher = .packet q n ∧ x.cluster = recField r 24 2 ∧ x.done = none ∧ (t.queueOf q).rd = n + 1) ∧
    (∀ x : TimerTarget, s.timerTarget (s.queueOf q).claim r = some x → s.timers.length < 4096 →
      (packetAt s q n r 4 0 →
        ((started s q n r).firmwareWrite (s.queueOf q).claim (recField r 56 8) (leBytes 8 s.timerId)).isSome = true →
        ∃ t z, exec (.timerArmAbsolute q) s = .next t ∧ t.timers = s.timers ++ [z] ∧ z.period = 0 ∧
          z.due = recField r 24 8 ∧ z.target = x ∧ z.claim = (s.queueOf q).claim ∧ packetDone s t q n) ∧
      (packetAt s q n r 4 1 → periodOk (recField r 32 8) = true →
        ((started s q n r).firmwareWrite (s.queueOf q).claim (recField r 56 8) (leBytes 8 s.timerId)).isSome = true →
        ∃ t z, exec (.timerArmPeriodic q) s = .next t ∧ t.timers = s.timers ++ [z] ∧ z.period = recField r 32 8 ∧
          z.due = firstDue (recField r 24 8) (recField r 32 8) s.time ∧ z.target = x ∧ packetDone s t q n)) ∧
    (∀ y ∈ s.timers, packetAt s q n r 4 2 → y.id = recField r 48 2 → y.claim = (s.queueOf q).claim →
      recField r 17 1 ≤ 1 →
      ∃ t, exec (.timerDisarm q) s = .next t ∧ packetDone s t q n ∧ t.mem = s.mem ∧
        ∀ z, z ∈ t.timers ↔ (z ∈ s.timers ∧ (z.id ≠ recField r 48 2 ∨ z.claim ≠ (s.queueOf q).claim))) ∧
    (∀ (d : List Byte) (cm : Committee), packetAt s q n r 6 0 → recField r 17 1 ≤ 15 →
      (started s q n r).firmwareRead (s.queueOf q).claim (recField r 24 8) 576 = some d →
      s.committee? (s.queueOf q).claim (recField r 17 1) = none →
      (started s q n r).committeeFrom cl (recField r 17 1) d = some cm →
      ∃ t, exec (.committeeStart q) s = .next t ∧ packetDone s t q n ∧ t.committees = s.committees ++ [cm]) ∧
    (∀ cm : Committee, s.committee? (s.queueOf q).claim (recField r 17 1) = some cm →
      (packetAt s q n r 6 1 → cm.stopping = [] →
        ∃ t y, exec (.committeeSequence q) s = .next t ∧ (t.queueOf q).rd = n + 1 ∧
          t.committee? (s.queueOf q).claim (recField r 17 1) = some y ∧
          y.waiting = cm.waiting ++ [⟨recWord r 32, recWord r 40, recWord r 48, (q, n), none⟩]) ∧
      (packetAt s q n r 6 2 → cm.waiting = [] → cm.slots = [] → cm.stopping = [] →
        ∃ t, exec (.committeeStop q) s = .next t ∧ packetDone s t q n ∧ t.mem = s.mem))

/-- Placement, entry and end of a launch: one whose queue is the claim's only one is placed where it fits; the entry release
starts its slots with the values of the entry state; the end frees its cores and takes its packet out of
the running ones, and waits for writes in flight and for cores that a restore has not brought back; a quantum end with
nothing to serve counts the quantum. When the firmware reads the image (log 85), what a launch waits for at its end (log 86),
and what a quantum end finds over and serves (logs 29 and 30) are the model's choices. -/
def Obligations.LaunchLife : Prop :=
  ∀ (s : State),
    (∀ (id q n : Nat) (r : Rec) (cl : Claim) (p : Placing) (rects : List Rect) (m : Image) (s0 : State),
      s.claim? id = some cl → s.ready.getLsbD 0 = true → s.pwr ≠ 2 → s.roundDue cl = true → s.roundOrder id = [q] →
      s0 = s.modClaim id (fun x => { x with ended := false, rounds := s.time / 10000 }) →
      s.latches = [] → s0.launchHead q = some (n, r) → (s.queueOf q).placing = none → s0.firstTry cl q n r = some p →
      s0.tryPlace cl q r p = some rects → s0.imageOf cl.id r = some m →
      ∃ t l, exec (.placementRound id) s = .next t ∧ t.launches = s.launches ++ [l] ∧
        l.groups = rects.map (fun x => ⟨x, false, Phase.start s.time⟩) ∧ l.queue = q ∧ l.number = n ∧ l.claim = cl.id ∧
        l.entry = recField r 24 4 ∧ l.w = recField r 28 1 ∧ l.h = recField r 29 1 ∧ l.id = s.fresh ∧
        (t.queueOf q).rd = n + 1) ∧
    (∀ (id g : Nat) (l : Launch) (x : Group), s.launch? id = some l → l.groups[g]? = some x → x.entered = false →
      s.ready.getLsbD 0 = true → s.latches = [] →
      ∃ t, exec (.entryRelease id g) s = .next t ∧ t.mem = s.mem ∧
        ∀ c ∈ x.rect.cores, (t.coreOf c).resident = some (l.id, g) ∧
          ∀ k : Fin 4,
            (l.slots.getLsbD k.val = true → (t.slotOf c k.val).run = .running ∧
              (t.slotOf c k.val).pc = BitVec.ofNat 48 l.entry ∧ (t.slotOf c k.val).inh = false ∧
              (∀ i : Fin 24, vget (t.slotOf c k.val).g i.val 0 =
                (if i = 1 then BitVec.ofNat 64 (x.rect.index c) else if i = 2 then BitVec.ofNat 64 l.w
                 else if i = 3 then BitVec.ofNat 64 l.h
                 else if i = 4 then l.args + BitVec.ofNat 64 g * BitVec.ofNat 64 l.astride
                 else if i = 23 then 0x800000000000 else 0))) ∧
            (l.slots.getLsbD k.val = false → (t.slotOf c k.val).run = .idle)) ∧
    (∀ l : Launch, s.launch? l.id = some l → (∀ g ∈ l.groups, g.entered = true) → l.preempt ≠ .saved → l.det = false →
      (∀ c ∈ l.cores, s.coreRetired c = true ∧ s.sweepsDone c = true ∧
        ∃ g, (s.coreOf c).resident = some (l.id, g)) → s.writesDone l = true →
      ∃ t, exec (.launchEnd l.id) s = .next t ∧ t.launch? l.id = none ∧
        (∀ c ∈ l.cores, (t.coreOf c).resident = none) ∧
        ∀ x ∈ (t.queueOf l.queue).running, x.number ≠ l.number) ∧
    (∀ l : Launch, s.launch? l.id = some l →
      (s.writesDone l = false ∨ ∃ c ∈ l.cores, ∀ g, (s.coreOf c).resident ≠ some (l.id, g)) →
      exec (.launchEnd l.id) s = .next s) ∧
    (∀ l : Launch, s.launch? l.id = some l → l.det = true → l.preempt = .none → (∀ g ∈ l.groups, g.entered = true) →
      (∀ c ∈ l.cores, s.quantumOver l c = true ∧ ∃ g, (s.coreOf c).resident = some (l.id, g)) → l.tasks = [] → s.messages = [] → s.committees = [] →
      (∀ c ∈ l.cores, (s.coreOf c).coming = [] ∧ (s.coreOf c).backlog = []) →
      ∃ t, exec (.quantumEnd l.id) s = .next t ∧ t.launch? l.id = some { l with quantum := l.quantum + 1 } ∧
        (∀ c, t.coreOf c = s.coreOf c) ∧ t.mem = s.mem)

/-- Bring-up accepts a good table and rejects a bad one, once; a function sets its bit of FWREADY; a link port goes down;
a bubble passes as cycles of the resident cores; a cap is written, and reading the device status clears THROTTLED; a
cluster without resident cores is gated, and comes up with its requests waiting. That a table also needs every role on a
column core (log 11), which cycles a bubble counts (log 90), and that a failed link ends the launches with a barrier that
spans it (log 92) follow the model's choices; a module that fails training holds the device in reset. -/
def Obligations.PlatformEvents : Prop :=
  ∀ (s : State),
    (∀ (wide : Bool) (absent : List Nat) (valid : Bool), s.up = false → s.modulesDown = [] →
      ∃ t, exec (.powerGood wide absent valid) s = .next t ∧
        (tableOk wide absent valid = true → t = { s with up := true, wide := wide, absent := absent.eraseDups }) ∧
        (tableOk wide absent valid = false → t.up = false ∧ t.reports = s.reports ++ [.bringUpRejected])) ∧
    (∀ (wide : Bool) (absent : List Nat), tableOk wide absent false = false) ∧
    (∀ (wide : Bool) (absent : List Nat) (valid : Bool), s.up = false → s.modulesDown ≠ [] →
      exec (.powerGood wide absent valid) s = .next { s with reports := s.reports ++ [.moduleFailed] }) ∧
    (∀ f : Fin 5, s.up = true → s.ready.getLsbD f.val = false →
      ∃ t, exec (.functionReady f) s = .next t ∧
        ∀ i, i < 5 → t.ready.getLsbD i = (s.ready.getLsbD i || i == f.val)) ∧
    (∀ p : Fin 12, s.linksDown.contains p.val = false →
      ∃ t, exec (.linkFailure p) s = .next t ∧ t.linksDown = p.val :: s.linksDown ∧
        ∀ l ∈ t.launches, l ∈ s.launches ∧ (∀ x ∈ s.spans, x.claim = l.claim → x.port ≠ p.val)) ∧
    (∀ n : Nat, ∃ t, exec (.throttleBubble n) s = .next t ∧ t.throttled = true ∧ t.mem = s.mem ∧
      ∀ c, (t.coreOf c).cycles = (s.coreOf c).cycles +
        (if (s.coreOf c).resident.isSome then BitVec.ofNat 64 n else 0)) ∧
    (∀ w : Word, s.ready.getLsbD 4 = true → exec (.powerCapWrite w) s = .next { s with cap := w }) ∧
    (exec .deviceStatusRead s = .next { s with lastRead := s.status, throttled := false }) ∧
    (∀ cl : Nat, s.gated.contains cl = false →
      (∀ l ∈ s.launches, ∀ c ∈ l.cores, clusterOf c = cl → (s.coreOf c).resident = none) →
      exec (.powerGate cl) s = .next { s with gated := cl :: s.gated }) ∧
    (∀ cl : Nat, s.gated.contains cl = true → (∀ x ∈ s.latches, x.1 ≠ cl) →
      ∃ t, exec (.clusterPowerUp cl) s = .next t ∧ t.gated = s.gated.filter (fun x => x != cl) ∧ t.mem = s.mem ∧
        t.unitReqs = s.unitReqs)

/-- ILL: page 0 op 0 whatever A and B hold, alone or after a PAGE of payload 0; another prefix is a fault of that prefix. Both
always take the illegal-instruction trap: TRAPVAL is the address of the base word with DETAIL 0, or of the first such prefix
with DETAIL 1, and TRAPPC the address of the first word. -/
def Obligations.IllRule : Prop :=
  (∀ a b : Fin 32, decode [base 0 a b] = .ok (.ill a b) 1 ∧ decode [pre 2 0, base 0 a b] = .ok (.ill a b) 2) ∧
  decode [0x0000] = .ok (.ill 0 0) 1 ∧
  (∀ (qual opb : Option Nat) (imms : List Nat) (a b : Fin 32),
    (qual ≠ none ∨ opb ≠ none ∨ imms ≠ []) → qual.toList.length + opb.toList.length + imms.length ≤ 4 →
    decode (qual.toList.map (pre 3) ++ opb.toList.map (pre 1) ++ imms.map (pre 0) ++ [base 0 a b]) = .bad (.prefixWord 0) ∧
    (qual.toList.length + opb.toList.length + imms.length ≤ 3 →
      decode (pre 2 0 :: (qual.toList.map (pre 3) ++ opb.toList.map (pre 1) ++ imms.map (pre 0) ++ [base 0 a b])) =
        .bad (.prefixWord 1))) ∧
  (∀ n, (Reject.prefixWord n).index = n ∧ (Reject.prefixWord n).detail = 1) ∧
  (∀ (s : State) (a b : Fin 32) (n : Nat), n = 1 ∨ n = 2 → s.me.npc = s.me.pc + BitVec.ofNat 48 (2 * n) →
    s.me.pc.toNat + 4 < 2 ^ 48 → s.me.crew = none →
    exec (.ill a b) s = .next (trapped s 0x01 0 (BitVec.ofNat 64 (s.me.pc.toNat + 2 * (n - 1)))) ∧
    (handled s s.cur.core s.cur.slot.val 0x01 →
      ∃ t, exec (.ill a b) s = .next t ∧ t.me.trappc = s.me.pc ∧ t.me.trapcode = 0x01 ∧ t.me.trapdetail = 0 ∧
        t.me.trapval = BitVec.ofNat 64 (s.me.pc.toNat + 2 * (n - 1)))) ∧
  (∀ (s : State) (n : Nat), s.me.pc.toNat + 2 * n < 2 ^ 48 → s.me.crew = none →
    exec (.illegalInstruction n 1) s = .next (trapped s 0x01 1 (BitVec.ofNat 64 (s.me.pc.toNat + 2 * n))) ∧
    (handled s s.cur.core s.cur.slot.val 0x01 →
      ∃ t, exec (.illegalInstruction n 1) s = .next t ∧ t.me.trappc = s.me.pc ∧ t.me.trapcode = 0x01 ∧
        t.me.trapdetail = 1 ∧ t.me.trapval = BitVec.ofNat 64 (s.me.pc.toNat + 2 * n)))

/-- MOV, CLZ and POPC whole: their words on page 0 with form UN and type codes 0-7, their results, the range of the two
counts, and the examples of the three rules. -/
def Obligations.MoveAndCountRules : Prop :=
  (∀ (op : Nat) (f : GReg → GReg → ScalarType → Instr), (op, f) ∈ [(1, Instr.mov), (17, Instr.clz), (18, Instr.popc)] →
    ∀ a b : GReg,
      decode [base op a b] = .ok (f a b .d) 1 ∧
      (∀ q y, scalarTypes[q]? = some y → decode [pre 3 q, base op a b] = .ok (f a b y) 2) ∧
      (∀ q, 8 ≤ q → q < 256 → decode [pre 3 q, base op a b] = .bad (.prefixWord 0)) ∧
      (∀ p, decode [pre 1 p, base op a b] = .bad (.prefixWord 0) ∧ decode [pre 0 p, base op a b] = .bad (.prefixWord 0))) ∧
  (∀ (s : State) (a b : GReg) (y : ScalarType), s.ports [b] [a] = .ok () →
    (a.val ≠ 25 →
      exec (.mov a b y) s = .next (put (s.readG b).2 a (extend y (patternOf y (s.readG b).1))).retire ∧
      exec (.clz a b y) s = .next (put (s.readG b).2 a (BitVec.ofNat 64 (leadingZeros y (s.readG b).1))).retire ∧
      exec (.popc a b y) s = .next (put (s.readG b).2 a (BitVec.ofNat 64 (onesOf y (s.readG b).1))).retire) ∧
    (a.val = 25 →
      exec (.mov a b y) s = s.finish ((s.readG b).2.writeG a (extend y (patternOf y (s.readG b).1))) ∧
      exec (.clz a b y) s = s.finish ((s.readG b).2.writeG a (BitVec.ofNat 64 (leadingZeros y (s.readG b).1))) ∧
      exec (.popc a b y) s = s.finish ((s.readG b).2.writeG a (BitVec.ofNat 64 (onesOf y (s.readG b).1))))) ∧
  (∀ (y : ScalarType) (x : Word), leadingZeros y x ≤ y.width ∧ onesOf y x ≤ y.width ∧
    (patternOf y x = 0 → leadingZeros y x = y.width)) ∧
  decode [0x059B] = .ok (.mov 12 27 .d) 1 ∧ decode [0xFF07, 0x04A6] = .ok (.mov 5 6 .bz) 2 ∧
  decode [0x4630] = .ok (.clz 17 16 .d) 1 ∧ decode [0x48A6] = .ok (.popc 5 6 .d) 1 ∧
  leadingZeros .d 48 = 58 ∧ leadingZeros .d 0 = 64 ∧ leadingZeros .w 0x0000000100000000 = 32 ∧
  onesOf .d 0xFFFFFFFF000000F0 = 36 ∧ onesOf .w 0xFFFFFFFF000000F0 = 4

/-- Words written out bit by bit from the encoding tables decode to their instructions, one or more of each page; a word
that no table row holds, a PAGE above 5 and a misplaced prefix are refused by name. -/
def Obligations.DecodeWords : Prop :=
  decode [0b0010000010101001] = .ok (.shl 5 9 none .d) 1 ∧
  decode [0b1111111100000100, 0b1010100010100110] = .ok (.min 5 6 none .dz) 2 ∧
  decode [0b1111110000000001, 0b1111110011111000, 0b0000100011000000] = .ok (.li 6 0x3F00) 3 ∧
  decode [0b0110110011111111] = .ok (.bnz 7 (-1)) 1 ∧
  decode [0b0111101111011000] = .ok (.j (-40)) 1 ∧
  decode [0b1000000000010111] = .ok (.jr 0 23) 1 ∧
  decode [0b1111111000000001, 0b1111111101000000, 0b0010000010100110] = .ok (.upd 5 6 .d .cl .rlx) 3 ∧
  decode [0b1111111000000001, 0b1111110001000000, 0b0011000000100110] = .ok (.pref 1 6 64) 3 ∧
  decode [0b1111111000000010, 0b1111110010000000, 0b0000000010001000] = .ok (.vld 4 8 (-128) 0 .fp32) 3 ∧
  decode [0b1111111000000010, 0b1111110100001000, 0b0111100011000111] = .ok (.vcvt 6 7 .bf16 0 .fp32) 3 ∧
  decode [0b1111111000000011, 0b0000110010100000] = .ok (.tstat 5 0) 2 ∧
  decode [0b1111111000000100, 0b0000010010100110] = .ok (.assay 5 6) 2 ∧
  decode [0b1111111000000101, 0b0001010010100110] = .ok (.tlbi 5 6) 2 ∧
  decode [0b1111111000000101, 0b0001110000000000] = .ok .halt 2 ∧
  decode [0b1111111000000110, 0b0000000000000000] = .bad (.chain 0) ∧
  decode [0b1111111100000001, 0b1111111000000000, 0b0000110010100110] = .bad (.chain 1) ∧
  decode [0b1100010000000000] = .bad (.baseWord 0)

/-- Decoding and encoding agree: the words of every well-formed instruction of a slot, whatever follows them, decode to it
and to nothing less; and what the decoder accepts is well formed. -/
def Obligations.DecodeEncode : Prop :=
  (∀ (i : Instr) (rest : List Half), i.isChain = true → i.wellFormed = true →
    decode (encode i ++ rest) = .ok i (encode i).length) ∧
  (∀ (ws : List Half) (i : Instr) (n : Nat), decode ws = .ok i n →
    i.isChain = true ∧ i.wellFormed = true ∧ 1 ≤ n ∧ n ≤ 5 ∧ n ≤ ws.length)

/-- A step runs the instruction that stands at the pc: the words in memory are the ones fetched, and where they decode to an
instruction the step is exec of it with `npc` after its words, and the end of the cycle around it. The turns, and what a cycle
counts, are the model's choice (log 128). -/
def Obligations.StepRunsDecoded : Prop :=
  (∀ (s : State) (ws : List Half) (i : Instr), decode ws = .ok i ws.length → standsAtPc s ws →
    s.fetchNext = (ws, s.modMe (fun t => { t with ahead := (t.pc, ws) }))) ∧
  (∀ (s : State) (ws : List Half) (i : Instr), s.cur.core < 5120 → s.schedule = [] → fetches s.catchUp →
    decode ws = .ok i ws.length → standsAtPc s.catchUp ws →
    step s = ending s s.catchUp (exec i (issued s.catchUp ws))) ∧
  (∀ (s u : State) (c : Nat) (k : Fin 4) (l : List Turn) (ws : List Half) (i : Instr), c < 5120 →
    s.schedule = .slot c k :: l → u = { s with schedule := l, cur := ⟨c, k⟩ } → fetches u.catchUp →
    decode ws = .ok i ws.length → standsAtPc u.catchUp ws →
    step s = ending u u.catchUp (exec i (issued u.catchUp ws)))

/-- Reset: every slot idle with its trap, mode and flag registers 0 and its streams disabled; no domain, region or tile
valid; every queue ABSENT; device time 0 and free-running; no function ready; plain interleave and the three hashes in the
channel masks, and every channel counter 0. -/
def Obligations.ResetValues : Prop :=
  (∀ c k : Nat, (State.reset.slotOf c k).run = .idle ∧ (State.reset.slotOf c k).inh = false ∧
    (State.reset.slotOf c k).vskip = false ∧ (State.reset.slotOf c k).eerr = false ∧
    (State.reset.slotOf c k).replay = [] ∧ (State.reset.slotOf c k).trapvec = 0 ∧ (State.reset.slotOf c k).trappc = 0 ∧
    (State.reset.slotOf c k).trapdef = false ∧ (State.reset.slotOf c k).trapdetail = 0 ∧
    (State.reset.slotOf c k).trapcode = 0 ∧ (State.reset.slotOf c k).trapval = 0 ∧ (State.reset.slotOf c k).scratch = 0 ∧
    (State.reset.slotOf c k).level = 0 ∧ (State.reset.slotOf c k).prem = 0 ∧ (State.reset.slotOf c k).fen = 0 ∧
    (State.reset.slotOf c k).fflags = 0 ∧ ∀ x ∈ (State.reset.slotOf c k).streams.toList, x.en = false) ∧
  (∀ c d : Nat, (State.reset.coreOf c).dom d = 0 ∧ vget (State.reset.coreOf c).regions d 0 = 0 ∧
    ((State.reset.coreOf c).tileOf d).valid = false ∧ (State.reset.coreOf c).port d = [] ∧
    (State.reset.coreOf c).resident = none) ∧
  (∀ q, (State.reset.queueOf q).state = .absent) ∧ State.reset.claims = [] ∧ State.reset.launches = [] ∧
  State.reset.time = 0 ∧ State.reset.timeMode = .free ∧ State.reset.ready = 0 ∧ State.reset.up = false ∧
  (∀ j, j < 10 → vget State.reset.masks j 0 = BitVec.ofNat 31 (2 ^ j)) ∧
  (∀ h j, 1 ≤ h → h ≤ 3 → j < 10 →
    vget State.reset.masks (10 * h + j) 0 = BitVec.ofNat 31 (2 ^ j + 2 ^ (j + 10) + 2 ^ (j + 20))) ∧
  ∀ i, lookupD 0 i State.reset.counters = 0

/-- Every step keeps the canonical form of memory: addresses strictly rising, and no listed byte equal to what an unlisted
one reads as. So equal memories are equal lists, whatever the step did. -/
def Obligations.MemoryStaysCanonical : Prop :=
  ∀ s t : State, Memory.wf s.mem = true → step s = .next t → Memory.wf t.mem = true

/-- Memory has its canonical form at reset, with nothing listed; what an unlisted byte reads as is the model's choice (log
3). -/
def Obligations.ResetMemoryCanonical : Prop := Memory.wf State.reset.mem = true ∧ ∀ a, readCell State.reset.mem a = unlisted

/-- Device time never goes back, whatever the turn (11 R206). -/
def Obligations.TimeNeverGoesBack : Prop := ∀ s t : State, step s = .next t → s.time ≤ t.time
end

