-- ==== Sys2Proof/Laws/State.lean ====
section
/-! SUPPORT. What each named update of a state, a core and a slot leaves as it was, one lemma for each field, and what a
read finds after an update. -/

namespace Sys2Proof.Machine

/-! ### Updates that are `setCore` -/

@[simp] theorem State.modCore_eq (s : State) (c : Nat) (f : CoreState → CoreState) :
    s.modCore c f = s.setCore c (f (s.coreOf c)) := rfl
@[simp] theorem State.setSlot_eq (s : State) (c k : Nat) (t : Slot) :
    s.setSlot c k t = s.setCore c ((s.coreOf c).setSlot k t) := rfl
@[simp] theorem State.modSlot_eq (s : State) (c k : Nat) (f : Slot → Slot) :
    s.modSlot c k f = s.setCore c ((s.coreOf c).setSlot k (f (s.slotOf c k))) := rfl
@[simp] theorem State.setMe_eq (s : State) (t : Slot) :
    s.setMe t = s.setCore s.cur.core (s.myCore.setSlot s.cur.slot.val t) := rfl
@[simp] theorem State.modMe_eq (s : State) (f : Slot → Slot) :
    s.modMe f = s.setCore s.cur.core (s.myCore.setSlot s.cur.slot.val (f s.me)) := rfl
@[simp] theorem State.modMyCore_eq (s : State) (f : CoreState → CoreState) :
    s.modMyCore f = s.setCore s.cur.core (f s.myCore) := rfl
@[simp] theorem State.writeN_eq (s : State) (a n : Nat) (w : Word) :
    s.writeN a n w = s.writeBytes a (leBytes n w.toNat) := rfl

/-! ### Fields that an update leaves -/

/-! `setCore`: only the cores -/

@[simp] theorem State.setCore_schedule (s : State) (c : Nat) (x : CoreState) :
    (s.setCore c x).schedule = s.schedule := rfl
@[simp] theorem State.setCore_cur (s : State) (c : Nat) (x : CoreState) : (s.setCore c x).cur = s.cur := rfl
@[simp] theorem State.setCore_free (s : State) (c : Nat) (x : CoreState) : (s.setCore c x).free = s.free := rfl
@[simp] theorem State.setCore_fresh (s : State) (c : Nat) (x : CoreState) : (s.setCore c x).fresh = s.fresh := rfl
@[simp] theorem State.setCore_mem (s : State) (c : Nat) (x : CoreState) : (s.setCore c x).mem = s.mem := rfl
@[simp] theorem State.setCore_poisoned (s : State) (c : Nat) (x : CoreState) :
    (s.setCore c x).poisoned = s.poisoned := rfl
@[simp] theorem State.setCore_remotes (s : State) (c : Nat) (x : CoreState) : (s.setCore c x).remotes = s.remotes := rfl
@[simp] theorem State.setCore_narrow (s : State) (c : Nat) (x : CoreState) : (s.setCore c x).narrow = s.narrow := rfl
@[simp] theorem State.setCore_recent (s : State) (c : Nat) (x : CoreState) : (s.setCore c x).recent = s.recent := rfl
@[simp] theorem State.setCore_units (s : State) (c : Nat) (x : CoreState) : (s.setCore c x).units = s.units := rfl
@[simp] theorem State.setCore_unitReqs (s : State) (c : Nat) (x : CoreState) :
    (s.setCore c x).unitReqs = s.unitReqs := rfl
@[simp] theorem State.setCore_gated (s : State) (c : Nat) (x : CoreState) : (s.setCore c x).gated = s.gated := rfl
@[simp] theorem State.setCore_latches (s : State) (c : Nat) (x : CoreState) : (s.setCore c x).latches = s.latches := rfl
@[simp] theorem State.setCore_messages (s : State) (c : Nat) (x : CoreState) :
    (s.setCore c x).messages = s.messages := rfl
@[simp] theorem State.setCore_misses (s : State) (c : Nat) (x : CoreState) : (s.setCore c x).misses = s.misses := rfl
@[simp] theorem State.setCore_copies (s : State) (c : Nat) (x : CoreState) : (s.setCore c x).copies = s.copies := rfl
@[simp] theorem State.setCore_lexicons (s : State) (c : Nat) (x : CoreState) :
    (s.setCore c x).lexicons = s.lexicons := rfl
@[simp] theorem State.setCore_hems (s : State) (c : Nat) (x : CoreState) : (s.setCore c x).hems = s.hems := rfl
@[simp] theorem State.setCore_arrivals (s : State) (c : Nat) (x : CoreState) :
    (s.setCore c x).arrivals = s.arrivals := rfl
@[simp] theorem State.setCore_committees (s : State) (c : Nat) (x : CoreState) :
    (s.setCore c x).committees = s.committees := rfl
@[simp] theorem State.setCore_media (s : State) (c : Nat) (x : CoreState) : (s.setCore c x).media = s.media := rfl
@[simp] theorem State.setCore_timers (s : State) (c : Nat) (x : CoreState) : (s.setCore c x).timers = s.timers := rfl
@[simp] theorem State.setCore_appends (s : State) (c : Nat) (x : CoreState) : (s.setCore c x).appends = s.appends := rfl
@[simp] theorem State.setCore_queues (s : State) (c : Nat) (x : CoreState) : (s.setCore c x).queues = s.queues := rfl
@[simp] theorem State.setCore_claims (s : State) (c : Nat) (x : CoreState) : (s.setCore c x).claims = s.claims := rfl
@[simp] theorem State.setCore_launches (s : State) (c : Nat) (x : CoreState) :
    (s.setCore c x).launches = s.launches := rfl
@[simp] theorem State.setCore_closing (s : State) (c : Nat) (x : CoreState) : (s.setCore c x).closing = s.closing := rfl
@[simp] theorem State.setCore_commands (s : State) (c : Nat) (x : CoreState) :
    (s.setCore c x).commands = s.commands := rfl
@[simp] theorem State.setCore_time (s : State) (c : Nat) (x : CoreState) : (s.setCore c x).time = s.time := rfl
@[simp] theorem State.setCore_timeMode (s : State) (c : Nat) (x : CoreState) :
    (s.setCore c x).timeMode = s.timeMode := rfl
@[simp] theorem State.setCore_timeHold (s : State) (c : Nat) (x : CoreState) :
    (s.setCore c x).timeHold = s.timeHold := rfl
@[simp] theorem State.setCore_ready (s : State) (c : Nat) (x : CoreState) : (s.setCore c x).ready = s.ready := rfl
@[simp] theorem State.setCore_wide (s : State) (c : Nat) (x : CoreState) : (s.setCore c x).wide = s.wide := rfl
@[simp] theorem State.setCore_up (s : State) (c : Nat) (x : CoreState) : (s.setCore c x).up = s.up := rfl
@[simp] theorem State.setCore_absent (s : State) (c : Nat) (x : CoreState) : (s.setCore c x).absent = s.absent := rfl
@[simp] theorem State.setCore_throttled (s : State) (c : Nat) (x : CoreState) :
    (s.setCore c x).throttled = s.throttled := rfl
@[simp] theorem State.setCore_pwr (s : State) (c : Nat) (x : CoreState) : (s.setCore c x).pwr = s.pwr := rfl
@[simp] theorem State.setCore_temps (s : State) (c : Nat) (x : CoreState) : (s.setCore c x).temps = s.temps := rfl
@[simp] theorem State.setCore_power (s : State) (c : Nat) (x : CoreState) : (s.setCore c x).power = s.power := rfl
@[simp] theorem State.setCore_cap (s : State) (c : Nat) (x : CoreState) : (s.setCore c x).cap = s.cap := rfl
@[simp] theorem State.setCore_eccSram (s : State) (c : Nat) (x : CoreState) : (s.setCore c x).eccSram = s.eccSram := rfl
@[simp] theorem State.setCore_eccHbm (s : State) (c : Nat) (x : CoreState) : (s.setCore c x).eccHbm = s.eccHbm := rfl
@[simp] theorem State.setCore_eccLpddr (s : State) (c : Nat) (x : CoreState) :
    (s.setCore c x).eccLpddr = s.eccLpddr := rfl
@[simp] theorem State.setCore_checks (s : State) (c : Nat) (x : CoreState) : (s.setCore c x).checks = s.checks := rfl
@[simp] theorem State.setCore_masks (s : State) (c : Nat) (x : CoreState) : (s.setCore c x).masks = s.masks := rfl
@[simp] theorem State.setCore_counters (s : State) (c : Nat) (x : CoreState) :
    (s.setCore c x).counters = s.counters := rfl
@[simp] theorem State.setCore_linksDown (s : State) (c : Nat) (x : CoreState) :
    (s.setCore c x).linksDown = s.linksDown := rfl
@[simp] theorem State.setCore_spans (s : State) (c : Nat) (x : CoreState) : (s.setCore c x).spans = s.spans := rfl
@[simp] theorem State.setCore_modulesDown (s : State) (c : Nat) (x : CoreState) :
    (s.setCore c x).modulesDown = s.modulesDown := rfl
@[simp] theorem State.setCore_reports (s : State) (c : Nat) (x : CoreState) : (s.setCore c x).reports = s.reports := rfl
@[simp] theorem State.setCore_lastRead (s : State) (c : Nat) (x : CoreState) :
    (s.setCore c x).lastRead = s.lastRead := rfl
@[simp] theorem State.setCore_contexts (s : State) (c : Nat) (x : CoreState) :
    (s.setCore c x).contexts = s.contexts := rfl
@[simp] theorem State.setCore_kept (s : State) (c : Nat) (x : CoreState) : (s.setCore c x).kept = s.kept := rfl

/-! `writeBytes`: memory and its marks -/

@[simp] theorem State.writeBytes_schedule (s : State) (a : Nat) (bs : List Byte) :
    (s.writeBytes a bs).schedule = s.schedule := rfl
@[simp] theorem State.writeBytes_cur (s : State) (a : Nat) (bs : List Byte) : (s.writeBytes a bs).cur = s.cur := rfl
@[simp] theorem State.writeBytes_free (s : State) (a : Nat) (bs : List Byte) : (s.writeBytes a bs).free = s.free := rfl
@[simp] theorem State.writeBytes_fresh (s : State) (a : Nat) (bs : List Byte) :
    (s.writeBytes a bs).fresh = s.fresh := rfl
@[simp] theorem State.writeBytes_cores (s : State) (a : Nat) (bs : List Byte) :
    (s.writeBytes a bs).cores = s.cores := rfl
@[simp] theorem State.writeBytes_remotes (s : State) (a : Nat) (bs : List Byte) :
    (s.writeBytes a bs).remotes = s.remotes := rfl
@[simp] theorem State.writeBytes_narrow (s : State) (a : Nat) (bs : List Byte) :
    (s.writeBytes a bs).narrow = s.narrow := rfl
@[simp] theorem State.writeBytes_recent (s : State) (a : Nat) (bs : List Byte) :
    (s.writeBytes a bs).recent = s.recent := rfl
@[simp] theorem State.writeBytes_units (s : State) (a : Nat) (bs : List Byte) :
    (s.writeBytes a bs).units = s.units := rfl
@[simp] theorem State.writeBytes_unitReqs (s : State) (a : Nat) (bs : List Byte) :
    (s.writeBytes a bs).unitReqs = s.unitReqs := rfl
@[simp] theorem State.writeBytes_gated (s : State) (a : Nat) (bs : List Byte) :
    (s.writeBytes a bs).gated = s.gated := rfl
@[simp] theorem State.writeBytes_latches (s : State) (a : Nat) (bs : List Byte) :
    (s.writeBytes a bs).latches = s.latches := rfl
@[simp] theorem State.writeBytes_messages (s : State) (a : Nat) (bs : List Byte) :
    (s.writeBytes a bs).messages = s.messages := rfl
@[simp] theorem State.writeBytes_misses (s : State) (a : Nat) (bs : List Byte) :
    (s.writeBytes a bs).misses = s.misses := rfl
@[simp] theorem State.writeBytes_copies (s : State) (a : Nat) (bs : List Byte) :
    (s.writeBytes a bs).copies = s.copies := rfl
@[simp] theorem State.writeBytes_lexicons (s : State) (a : Nat) (bs : List Byte) :
    (s.writeBytes a bs).lexicons = s.lexicons := rfl
@[simp] theorem State.writeBytes_hems (s : State) (a : Nat) (bs : List Byte) : (s.writeBytes a bs).hems = s.hems := rfl
@[simp] theorem State.writeBytes_arrivals (s : State) (a : Nat) (bs : List Byte) :
    (s.writeBytes a bs).arrivals = s.arrivals := rfl
@[simp] theorem State.writeBytes_committees (s : State) (a : Nat) (bs : List Byte) :
    (s.writeBytes a bs).committees = s.committees := rfl
@[simp] theorem State.writeBytes_media (s : State) (a : Nat) (bs : List Byte) :
    (s.writeBytes a bs).media = s.media := rfl
@[simp] theorem State.writeBytes_timers (s : State) (a : Nat) (bs : List Byte) :
    (s.writeBytes a bs).timers = s.timers := rfl
@[simp] theorem State.writeBytes_appends (s : State) (a : Nat) (bs : List Byte) :
    (s.writeBytes a bs).appends = s.appends := rfl
@[simp] theorem State.writeBytes_queues (s : State) (a : Nat) (bs : List Byte) :
    (s.writeBytes a bs).queues = s.queues := rfl
@[simp] theorem State.writeBytes_claims (s : State) (a : Nat) (bs : List Byte) :
    (s.writeBytes a bs).claims = s.claims := rfl
@[simp] theorem State.writeBytes_launches (s : State) (a : Nat) (bs : List Byte) :
    (s.writeBytes a bs).launches = s.launches := rfl
@[simp] theorem State.writeBytes_closing (s : State) (a : Nat) (bs : List Byte) :
    (s.writeBytes a bs).closing = s.closing := rfl
@[simp] theorem State.writeBytes_commands (s : State) (a : Nat) (bs : List Byte) :
    (s.writeBytes a bs).commands = s.commands := rfl
@[simp] theorem State.writeBytes_time (s : State) (a : Nat) (bs : List Byte) : (s.writeBytes a bs).time = s.time := rfl
@[simp] theorem State.writeBytes_timeMode (s : State) (a : Nat) (bs : List Byte) :
    (s.writeBytes a bs).timeMode = s.timeMode := rfl
@[simp] theorem State.writeBytes_timeHold (s : State) (a : Nat) (bs : List Byte) :
    (s.writeBytes a bs).timeHold = s.timeHold := rfl
@[simp] theorem State.writeBytes_ready (s : State) (a : Nat) (bs : List Byte) :
    (s.writeBytes a bs).ready = s.ready := rfl
@[simp] theorem State.writeBytes_wide (s : State) (a : Nat) (bs : List Byte) : (s.writeBytes a bs).wide = s.wide := rfl
@[simp] theorem State.writeBytes_up (s : State) (a : Nat) (bs : List Byte) : (s.writeBytes a bs).up = s.up := rfl
@[simp] theorem State.writeBytes_absent (s : State) (a : Nat) (bs : List Byte) :
    (s.writeBytes a bs).absent = s.absent := rfl
@[simp] theorem State.writeBytes_throttled (s : State) (a : Nat) (bs : List Byte) :
    (s.writeBytes a bs).throttled = s.throttled := rfl
@[simp] theorem State.writeBytes_pwr (s : State) (a : Nat) (bs : List Byte) : (s.writeBytes a bs).pwr = s.pwr := rfl
@[simp] theorem State.writeBytes_temps (s : State) (a : Nat) (bs : List Byte) :
    (s.writeBytes a bs).temps = s.temps := rfl
@[simp] theorem State.writeBytes_power (s : State) (a : Nat) (bs : List Byte) :
    (s.writeBytes a bs).power = s.power := rfl
@[simp] theorem State.writeBytes_cap (s : State) (a : Nat) (bs : List Byte) : (s.writeBytes a bs).cap = s.cap := rfl
@[simp] theorem State.writeBytes_eccSram (s : State) (a : Nat) (bs : List Byte) :
    (s.writeBytes a bs).eccSram = s.eccSram := rfl
@[simp] theorem State.writeBytes_eccHbm (s : State) (a : Nat) (bs : List Byte) :
    (s.writeBytes a bs).eccHbm = s.eccHbm := rfl
@[simp] theorem State.writeBytes_eccLpddr (s : State) (a : Nat) (bs : List Byte) :
    (s.writeBytes a bs).eccLpddr = s.eccLpddr := rfl
@[simp] theorem State.writeBytes_checks (s : State) (a : Nat) (bs : List Byte) :
    (s.writeBytes a bs).checks = s.checks := rfl
@[simp] theorem State.writeBytes_masks (s : State) (a : Nat) (bs : List Byte) :
    (s.writeBytes a bs).masks = s.masks := rfl
@[simp] theorem State.writeBytes_counters (s : State) (a : Nat) (bs : List Byte) :
    (s.writeBytes a bs).counters = s.counters := rfl
@[simp] theorem State.writeBytes_linksDown (s : State) (a : Nat) (bs : List Byte) :
    (s.writeBytes a bs).linksDown = s.linksDown := rfl
@[simp] theorem State.writeBytes_spans (s : State) (a : Nat) (bs : List Byte) :
    (s.writeBytes a bs).spans = s.spans := rfl
@[simp] theorem State.writeBytes_modulesDown (s : State) (a : Nat) (bs : List Byte) :
    (s.writeBytes a bs).modulesDown = s.modulesDown := rfl
@[simp] theorem State.writeBytes_reports (s : State) (a : Nat) (bs : List Byte) :
    (s.writeBytes a bs).reports = s.reports := rfl
@[simp] theorem State.writeBytes_lastRead (s : State) (a : Nat) (bs : List Byte) :
    (s.writeBytes a bs).lastRead = s.lastRead := rfl
@[simp] theorem State.writeBytes_contexts (s : State) (a : Nat) (bs : List Byte) :
    (s.writeBytes a bs).contexts = s.contexts := rfl
@[simp] theorem State.writeBytes_kept (s : State) (a : Nat) (bs : List Byte) : (s.writeBytes a bs).kept = s.kept := rfl

/-! `clearBytes`: memory and its marks -/

@[simp] theorem State.clearBytes_schedule (s : State) (a n : Nat) : (s.clearBytes a n).schedule = s.schedule := rfl
@[simp] theorem State.clearBytes_cur (s : State) (a n : Nat) : (s.clearBytes a n).cur = s.cur := rfl
@[simp] theorem State.clearBytes_free (s : State) (a n : Nat) : (s.clearBytes a n).free = s.free := rfl
@[simp] theorem State.clearBytes_fresh (s : State) (a n : Nat) : (s.clearBytes a n).fresh = s.fresh := rfl
@[simp] theorem State.clearBytes_cores (s : State) (a n : Nat) : (s.clearBytes a n).cores = s.cores := rfl
@[simp] theorem State.clearBytes_remotes (s : State) (a n : Nat) : (s.clearBytes a n).remotes = s.remotes := rfl
@[simp] theorem State.clearBytes_narrow (s : State) (a n : Nat) : (s.clearBytes a n).narrow = s.narrow := rfl
@[simp] theorem State.clearBytes_recent (s : State) (a n : Nat) : (s.clearBytes a n).recent = s.recent := rfl
@[simp] theorem State.clearBytes_units (s : State) (a n : Nat) : (s.clearBytes a n).units = s.units := rfl
@[simp] theorem State.clearBytes_unitReqs (s : State) (a n : Nat) : (s.clearBytes a n).unitReqs = s.unitReqs := rfl
@[simp] theorem State.clearBytes_gated (s : State) (a n : Nat) : (s.clearBytes a n).gated = s.gated := rfl
@[simp] theorem State.clearBytes_latches (s : State) (a n : Nat) : (s.clearBytes a n).latches = s.latches := rfl
@[simp] theorem State.clearBytes_messages (s : State) (a n : Nat) : (s.clearBytes a n).messages = s.messages := rfl
@[simp] theorem State.clearBytes_misses (s : State) (a n : Nat) : (s.clearBytes a n).misses = s.misses := rfl
@[simp] theorem State.clearBytes_copies (s : State) (a n : Nat) : (s.clearBytes a n).copies = s.copies := rfl
@[simp] theorem State.clearBytes_lexicons (s : State) (a n : Nat) : (s.clearBytes a n).lexicons = s.lexicons := rfl
@[simp] theorem State.clearBytes_hems (s : State) (a n : Nat) : (s.clearBytes a n).hems = s.hems := rfl
@[simp] theorem State.clearBytes_arrivals (s : State) (a n : Nat) : (s.clearBytes a n).arrivals = s.arrivals := rfl
@[simp] theorem State.clearBytes_committees (s : State) (a n : Nat) :
    (s.clearBytes a n).committees = s.committees := rfl
@[simp] theorem State.clearBytes_media (s : State) (a n : Nat) : (s.clearBytes a n).media = s.media := rfl
@[simp] theorem State.clearBytes_timers (s : State) (a n : Nat) : (s.clearBytes a n).timers = s.timers := rfl
@[simp] theorem State.clearBytes_appends (s : State) (a n : Nat) : (s.clearBytes a n).appends = s.appends := rfl
@[simp] theorem State.clearBytes_queues (s : State) (a n : Nat) : (s.clearBytes a n).queues = s.queues := rfl
@[simp] theorem State.clearBytes_claims (s : State) (a n : Nat) : (s.clearBytes a n).claims = s.claims := rfl
@[simp] theorem State.clearBytes_launches (s : State) (a n : Nat) : (s.clearBytes a n).launches = s.launches := rfl
@[simp] theorem State.clearBytes_closing (s : State) (a n : Nat) : (s.clearBytes a n).closing = s.closing := rfl
@[simp] theorem State.clearBytes_commands (s : State) (a n : Nat) : (s.clearBytes a n).commands = s.commands := rfl
@[simp] theorem State.clearBytes_time (s : State) (a n : Nat) : (s.clearBytes a n).time = s.time := rfl
@[simp] theorem State.clearBytes_timeMode (s : State) (a n : Nat) : (s.clearBytes a n).timeMode = s.timeMode := rfl
@[simp] theorem State.clearBytes_timeHold (s : State) (a n : Nat) : (s.clearBytes a n).timeHold = s.timeHold := rfl
@[simp] theorem State.clearBytes_ready (s : State) (a n : Nat) : (s.clearBytes a n).ready = s.ready := rfl
@[simp] theorem State.clearBytes_wide (s : State) (a n : Nat) : (s.clearBytes a n).wide = s.wide := rfl
@[simp] theorem State.clearBytes_up (s : State) (a n : Nat) : (s.clearBytes a n).up = s.up := rfl
@[simp] theorem State.clearBytes_absent (s : State) (a n : Nat) : (s.clearBytes a n).absent = s.absent := rfl
@[simp] theorem State.clearBytes_throttled (s : State) (a n : Nat) : (s.clearBytes a n).throttled = s.throttled := rfl
@[simp] theorem State.clearBytes_pwr (s : State) (a n : Nat) : (s.clearBytes a n).pwr = s.pwr := rfl
@[simp] theorem State.clearBytes_temps (s : State) (a n : Nat) : (s.clearBytes a n).temps = s.temps := rfl
@[simp] theorem State.clearBytes_power (s : State) (a n : Nat) : (s.clearBytes a n).power = s.power := rfl
@[simp] theorem State.clearBytes_cap (s : State) (a n : Nat) : (s.clearBytes a n).cap = s.cap := rfl
@[simp] theorem State.clearBytes_eccSram (s : State) (a n : Nat) : (s.clearBytes a n).eccSram = s.eccSram := rfl
@[simp] theorem State.clearBytes_eccHbm (s : State) (a n : Nat) : (s.clearBytes a n).eccHbm = s.eccHbm := rfl
@[simp] theorem State.clearBytes_eccLpddr (s : State) (a n : Nat) : (s.clearBytes a n).eccLpddr = s.eccLpddr := rfl
@[simp] theorem State.clearBytes_checks (s : State) (a n : Nat) : (s.clearBytes a n).checks = s.checks := rfl
@[simp] theorem State.clearBytes_masks (s : State) (a n : Nat) : (s.clearBytes a n).masks = s.masks := rfl
@[simp] theorem State.clearBytes_counters (s : State) (a n : Nat) : (s.clearBytes a n).counters = s.counters := rfl
@[simp] theorem State.clearBytes_linksDown (s : State) (a n : Nat) : (s.clearBytes a n).linksDown = s.linksDown := rfl
@[simp] theorem State.clearBytes_spans (s : State) (a n : Nat) : (s.clearBytes a n).spans = s.spans := rfl
@[simp] theorem State.clearBytes_modulesDown (s : State) (a n : Nat) :
    (s.clearBytes a n).modulesDown = s.modulesDown := rfl
@[simp] theorem State.clearBytes_reports (s : State) (a n : Nat) : (s.clearBytes a n).reports = s.reports := rfl
@[simp] theorem State.clearBytes_lastRead (s : State) (a n : Nat) : (s.clearBytes a n).lastRead = s.lastRead := rfl
@[simp] theorem State.clearBytes_contexts (s : State) (a n : Nat) : (s.clearBytes a n).contexts = s.contexts := rfl
@[simp] theorem State.clearBytes_kept (s : State) (a n : Nat) : (s.clearBytes a n).kept = s.kept := rfl

/-! `setQueue`: only the queues -/

@[simp] theorem State.setQueue_schedule (s : State) (q : Nat) (x : Queue) :
    (s.setQueue q x).schedule = s.schedule := rfl
@[simp] theorem State.setQueue_cur (s : State) (q : Nat) (x : Queue) : (s.setQueue q x).cur = s.cur := rfl
@[simp] theorem State.setQueue_free (s : State) (q : Nat) (x : Queue) : (s.setQueue q x).free = s.free := rfl
@[simp] theorem State.setQueue_fresh (s : State) (q : Nat) (x : Queue) : (s.setQueue q x).fresh = s.fresh := rfl
@[simp] theorem State.setQueue_cores (s : State) (q : Nat) (x : Queue) : (s.setQueue q x).cores = s.cores := rfl
@[simp] theorem State.setQueue_mem (s : State) (q : Nat) (x : Queue) : (s.setQueue q x).mem = s.mem := rfl
@[simp] theorem State.setQueue_poisoned (s : State) (q : Nat) (x : Queue) :
    (s.setQueue q x).poisoned = s.poisoned := rfl
@[simp] theorem State.setQueue_remotes (s : State) (q : Nat) (x : Queue) : (s.setQueue q x).remotes = s.remotes := rfl
@[simp] theorem State.setQueue_narrow (s : State) (q : Nat) (x : Queue) : (s.setQueue q x).narrow = s.narrow := rfl
@[simp] theorem State.setQueue_recent (s : State) (q : Nat) (x : Queue) : (s.setQueue q x).recent = s.recent := rfl
@[simp] theorem State.setQueue_units (s : State) (q : Nat) (x : Queue) : (s.setQueue q x).units = s.units := rfl
@[simp] theorem State.setQueue_unitReqs (s : State) (q : Nat) (x : Queue) :
    (s.setQueue q x).unitReqs = s.unitReqs := rfl
@[simp] theorem State.setQueue_gated (s : State) (q : Nat) (x : Queue) : (s.setQueue q x).gated = s.gated := rfl
@[simp] theorem State.setQueue_latches (s : State) (q : Nat) (x : Queue) : (s.setQueue q x).latches = s.latches := rfl
@[simp] theorem State.setQueue_messages (s : State) (q : Nat) (x : Queue) :
    (s.setQueue q x).messages = s.messages := rfl
@[simp] theorem State.setQueue_misses (s : State) (q : Nat) (x : Queue) : (s.setQueue q x).misses = s.misses := rfl
@[simp] theorem State.setQueue_copies (s : State) (q : Nat) (x : Queue) : (s.setQueue q x).copies = s.copies := rfl
@[simp] theorem State.setQueue_lexicons (s : State) (q : Nat) (x : Queue) :
    (s.setQueue q x).lexicons = s.lexicons := rfl
@[simp] theorem State.setQueue_hems (s : State) (q : Nat) (x : Queue) : (s.setQueue q x).hems = s.hems := rfl
@[simp] theorem State.setQueue_arrivals (s : State) (q : Nat) (x : Queue) :
    (s.setQueue q x).arrivals = s.arrivals := rfl
@[simp] theorem State.setQueue_committees (s : State) (q : Nat) (x : Queue) :
    (s.setQueue q x).committees = s.committees := rfl
@[simp] theorem State.setQueue_media (s : State) (q : Nat) (x : Queue) : (s.setQueue q x).media = s.media := rfl
@[simp] theorem State.setQueue_timers (s : State) (q : Nat) (x : Queue) : (s.setQueue q x).timers = s.timers := rfl
@[simp] theorem State.setQueue_appends (s : State) (q : Nat) (x : Queue) : (s.setQueue q x).appends = s.appends := rfl
@[simp] theorem State.setQueue_claims (s : State) (q : Nat) (x : Queue) : (s.setQueue q x).claims = s.claims := rfl
@[simp] theorem State.setQueue_launches (s : State) (q : Nat) (x : Queue) :
    (s.setQueue q x).launches = s.launches := rfl
@[simp] theorem State.setQueue_closing (s : State) (q : Nat) (x : Queue) : (s.setQueue q x).closing = s.closing := rfl
@[simp] theorem State.setQueue_commands (s : State) (q : Nat) (x : Queue) :
    (s.setQueue q x).commands = s.commands := rfl
@[simp] theorem State.setQueue_time (s : State) (q : Nat) (x : Queue) : (s.setQueue q x).time = s.time := rfl
@[simp] theorem State.setQueue_timeMode (s : State) (q : Nat) (x : Queue) :
    (s.setQueue q x).timeMode = s.timeMode := rfl
@[simp] theorem State.setQueue_timeHold (s : State) (q : Nat) (x : Queue) :
    (s.setQueue q x).timeHold = s.timeHold := rfl
@[simp] theorem State.setQueue_ready (s : State) (q : Nat) (x : Queue) : (s.setQueue q x).ready = s.ready := rfl
@[simp] theorem State.setQueue_wide (s : State) (q : Nat) (x : Queue) : (s.setQueue q x).wide = s.wide := rfl
@[simp] theorem State.setQueue_up (s : State) (q : Nat) (x : Queue) : (s.setQueue q x).up = s.up := rfl
@[simp] theorem State.setQueue_absent (s : State) (q : Nat) (x : Queue) : (s.setQueue q x).absent = s.absent := rfl
@[simp] theorem State.setQueue_throttled (s : State) (q : Nat) (x : Queue) :
    (s.setQueue q x).throttled = s.throttled := rfl
@[simp] theorem State.setQueue_pwr (s : State) (q : Nat) (x : Queue) : (s.setQueue q x).pwr = s.pwr := rfl
@[simp] theorem State.setQueue_temps (s : State) (q : Nat) (x : Queue) : (s.setQueue q x).temps = s.temps := rfl
@[simp] theorem State.setQueue_power (s : State) (q : Nat) (x : Queue) : (s.setQueue q x).power = s.power := rfl
@[simp] theorem State.setQueue_cap (s : State) (q : Nat) (x : Queue) : (s.setQueue q x).cap = s.cap := rfl
@[simp] theorem State.setQueue_eccSram (s : State) (q : Nat) (x : Queue) : (s.setQueue q x).eccSram = s.eccSram := rfl
@[simp] theorem State.setQueue_eccHbm (s : State) (q : Nat) (x : Queue) : (s.setQueue q x).eccHbm = s.eccHbm := rfl
@[simp] theorem State.setQueue_eccLpddr (s : State) (q : Nat) (x : Queue) :
    (s.setQueue q x).eccLpddr = s.eccLpddr := rfl
@[simp] theorem State.setQueue_checks (s : State) (q : Nat) (x : Queue) : (s.setQueue q x).checks = s.checks := rfl
@[simp] theorem State.setQueue_masks (s : State) (q : Nat) (x : Queue) : (s.setQueue q x).masks = s.masks := rfl
@[simp] theorem State.setQueue_counters (s : State) (q : Nat) (x : Queue) :
    (s.setQueue q x).counters = s.counters := rfl
@[simp] theorem State.setQueue_linksDown (s : State) (q : Nat) (x : Queue) :
    (s.setQueue q x).linksDown = s.linksDown := rfl
@[simp] theorem State.setQueue_spans (s : State) (q : Nat) (x : Queue) : (s.setQueue q x).spans = s.spans := rfl
@[simp] theorem State.setQueue_modulesDown (s : State) (q : Nat) (x : Queue) :
    (s.setQueue q x).modulesDown = s.modulesDown := rfl
@[simp] theorem State.setQueue_reports (s : State) (q : Nat) (x : Queue) : (s.setQueue q x).reports = s.reports := rfl
@[simp] theorem State.setQueue_lastRead (s : State) (q : Nat) (x : Queue) :
    (s.setQueue q x).lastRead = s.lastRead := rfl
@[simp] theorem State.setQueue_contexts (s : State) (q : Nat) (x : Queue) :
    (s.setQueue q x).contexts = s.contexts := rfl
@[simp] theorem State.setQueue_kept (s : State) (q : Nat) (x : Queue) : (s.setQueue q x).kept = s.kept := rfl

/-! `modLaunch`: only the launches -/

@[simp] theorem State.modLaunch_schedule (s : State) (id : Nat) (f : Launch → Launch) :
    (s.modLaunch id f).schedule = s.schedule := rfl
@[simp] theorem State.modLaunch_cur (s : State) (id : Nat) (f : Launch → Launch) : (s.modLaunch id f).cur = s.cur := rfl
@[simp] theorem State.modLaunch_free (s : State) (id : Nat) (f : Launch → Launch) :
    (s.modLaunch id f).free = s.free := rfl
@[simp] theorem State.modLaunch_fresh (s : State) (id : Nat) (f : Launch → Launch) :
    (s.modLaunch id f).fresh = s.fresh := rfl
@[simp] theorem State.modLaunch_cores (s : State) (id : Nat) (f : Launch → Launch) :
    (s.modLaunch id f).cores = s.cores := rfl
@[simp] theorem State.modLaunch_mem (s : State) (id : Nat) (f : Launch → Launch) : (s.modLaunch id f).mem = s.mem := rfl
@[simp] theorem State.modLaunch_poisoned (s : State) (id : Nat) (f : Launch → Launch) :
    (s.modLaunch id f).poisoned = s.poisoned := rfl
@[simp] theorem State.modLaunch_remotes (s : State) (id : Nat) (f : Launch → Launch) :
    (s.modLaunch id f).remotes = s.remotes := rfl
@[simp] theorem State.modLaunch_narrow (s : State) (id : Nat) (f : Launch → Launch) :
    (s.modLaunch id f).narrow = s.narrow := rfl
@[simp] theorem State.modLaunch_recent (s : State) (id : Nat) (f : Launch → Launch) :
    (s.modLaunch id f).recent = s.recent := rfl
@[simp] theorem State.modLaunch_units (s : State) (id : Nat) (f : Launch → Launch) :
    (s.modLaunch id f).units = s.units := rfl
@[simp] theorem State.modLaunch_unitReqs (s : State) (id : Nat) (f : Launch → Launch) :
    (s.modLaunch id f).unitReqs = s.unitReqs := rfl
@[simp] theorem State.modLaunch_gated (s : State) (id : Nat) (f : Launch → Launch) :
    (s.modLaunch id f).gated = s.gated := rfl
@[simp] theorem State.modLaunch_latches (s : State) (id : Nat) (f : Launch → Launch) :
    (s.modLaunch id f).latches = s.latches := rfl
@[simp] theorem State.modLaunch_messages (s : State) (id : Nat) (f : Launch → Launch) :
    (s.modLaunch id f).messages = s.messages := rfl
@[simp] theorem State.modLaunch_misses (s : State) (id : Nat) (f : Launch → Launch) :
    (s.modLaunch id f).misses = s.misses := rfl
@[simp] theorem State.modLaunch_copies (s : State) (id : Nat) (f : Launch → Launch) :
    (s.modLaunch id f).copies = s.copies := rfl
@[simp] theorem State.modLaunch_lexicons (s : State) (id : Nat) (f : Launch → Launch) :
    (s.modLaunch id f).lexicons = s.lexicons := rfl
@[simp] theorem State.modLaunch_hems (s : State) (id : Nat) (f : Launch → Launch) :
    (s.modLaunch id f).hems = s.hems := rfl
@[simp] theorem State.modLaunch_arrivals (s : State) (id : Nat) (f : Launch → Launch) :
    (s.modLaunch id f).arrivals = s.arrivals := rfl
@[simp] theorem State.modLaunch_committees (s : State) (id : Nat) (f : Launch → Launch) :
    (s.modLaunch id f).committees = s.committees := rfl
@[simp] theorem State.modLaunch_media (s : State) (id : Nat) (f : Launch → Launch) :
    (s.modLaunch id f).media = s.media := rfl
@[simp] theorem State.modLaunch_timers (s : State) (id : Nat) (f : Launch → Launch) :
    (s.modLaunch id f).timers = s.timers := rfl
@[simp] theorem State.modLaunch_appends (s : State) (id : Nat) (f : Launch → Launch) :
    (s.modLaunch id f).appends = s.appends := rfl
@[simp] theorem State.modLaunch_queues (s : State) (id : Nat) (f : Launch → Launch) :
    (s.modLaunch id f).queues = s.queues := rfl
@[simp] theorem State.modLaunch_claims (s : State) (id : Nat) (f : Launch → Launch) :
    (s.modLaunch id f).claims = s.claims := rfl
@[simp] theorem State.modLaunch_closing (s : State) (id : Nat) (f : Launch → Launch) :
    (s.modLaunch id f).closing = s.closing := rfl
@[simp] theorem State.modLaunch_commands (s : State) (id : Nat) (f : Launch → Launch) :
    (s.modLaunch id f).commands = s.commands := rfl
@[simp] theorem State.modLaunch_time (s : State) (id : Nat) (f : Launch → Launch) :
    (s.modLaunch id f).time = s.time := rfl
@[simp] theorem State.modLaunch_timeMode (s : State) (id : Nat) (f : Launch → Launch) :
    (s.modLaunch id f).timeMode = s.timeMode := rfl
@[simp] theorem State.modLaunch_timeHold (s : State) (id : Nat) (f : Launch → Launch) :
    (s.modLaunch id f).timeHold = s.timeHold := rfl
@[simp] theorem State.modLaunch_ready (s : State) (id : Nat) (f : Launch → Launch) :
    (s.modLaunch id f).ready = s.ready := rfl
@[simp] theorem State.modLaunch_wide (s : State) (id : Nat) (f : Launch → Launch) :
    (s.modLaunch id f).wide = s.wide := rfl
@[simp] theorem State.modLaunch_up (s : State) (id : Nat) (f : Launch → Launch) : (s.modLaunch id f).up = s.up := rfl
@[simp] theorem State.modLaunch_absent (s : State) (id : Nat) (f : Launch → Launch) :
    (s.modLaunch id f).absent = s.absent := rfl
@[simp] theorem State.modLaunch_throttled (s : State) (id : Nat) (f : Launch → Launch) :
    (s.modLaunch id f).throttled = s.throttled := rfl
@[simp] theorem State.modLaunch_pwr (s : State) (id : Nat) (f : Launch → Launch) : (s.modLaunch id f).pwr = s.pwr := rfl
@[simp] theorem State.modLaunch_temps (s : State) (id : Nat) (f : Launch → Launch) :
    (s.modLaunch id f).temps = s.temps := rfl
@[simp] theorem State.modLaunch_power (s : State) (id : Nat) (f : Launch → Launch) :
    (s.modLaunch id f).power = s.power := rfl
@[simp] theorem State.modLaunch_cap (s : State) (id : Nat) (f : Launch → Launch) : (s.modLaunch id f).cap = s.cap := rfl
@[simp] theorem State.modLaunch_eccSram (s : State) (id : Nat) (f : Launch → Launch) :
    (s.modLaunch id f).eccSram = s.eccSram := rfl
@[simp] theorem State.modLaunch_eccHbm (s : State) (id : Nat) (f : Launch → Launch) :
    (s.modLaunch id f).eccHbm = s.eccHbm := rfl
@[simp] theorem State.modLaunch_eccLpddr (s : State) (id : Nat) (f : Launch → Launch) :
    (s.modLaunch id f).eccLpddr = s.eccLpddr := rfl
@[simp] theorem State.modLaunch_checks (s : State) (id : Nat) (f : Launch → Launch) :
    (s.modLaunch id f).checks = s.checks := rfl
@[simp] theorem State.modLaunch_masks (s : State) (id : Nat) (f : Launch → Launch) :
    (s.modLaunch id f).masks = s.masks := rfl
@[simp] theorem State.modLaunch_counters (s : State) (id : Nat) (f : Launch → Launch) :
    (s.modLaunch id f).counters = s.counters := rfl
@[simp] theorem State.modLaunch_linksDown (s : State) (id : Nat) (f : Launch → Launch) :
    (s.modLaunch id f).linksDown = s.linksDown := rfl
@[simp] theorem State.modLaunch_spans (s : State) (id : Nat) (f : Launch → Launch) :
    (s.modLaunch id f).spans = s.spans := rfl
@[simp] theorem State.modLaunch_modulesDown (s : State) (id : Nat) (f : Launch → Launch) :
    (s.modLaunch id f).modulesDown = s.modulesDown := rfl
@[simp] theorem State.modLaunch_reports (s : State) (id : Nat) (f : Launch → Launch) :
    (s.modLaunch id f).reports = s.reports := rfl
@[simp] theorem State.modLaunch_lastRead (s : State) (id : Nat) (f : Launch → Launch) :
    (s.modLaunch id f).lastRead = s.lastRead := rfl
@[simp] theorem State.modLaunch_contexts (s : State) (id : Nat) (f : Launch → Launch) :
    (s.modLaunch id f).contexts = s.contexts := rfl
@[simp] theorem State.modLaunch_kept (s : State) (id : Nat) (f : Launch → Launch) :
    (s.modLaunch id f).kept = s.kept := rfl

/-! `report`: only the reports -/

@[simp] theorem State.report_schedule (s : State) (r : Report) : (s.report r).schedule = s.schedule := rfl
@[simp] theorem State.report_cur (s : State) (r : Report) : (s.report r).cur = s.cur := rfl
@[simp] theorem State.report_free (s : State) (r : Report) : (s.report r).free = s.free := rfl
@[simp] theorem State.report_fresh (s : State) (r : Report) : (s.report r).fresh = s.fresh := rfl
@[simp] theorem State.report_cores (s : State) (r : Report) : (s.report r).cores = s.cores := rfl
@[simp] theorem State.report_mem (s : State) (r : Report) : (s.report r).mem = s.mem := rfl
@[simp] theorem State.report_poisoned (s : State) (r : Report) : (s.report r).poisoned = s.poisoned := rfl
@[simp] theorem State.report_remotes (s : State) (r : Report) : (s.report r).remotes = s.remotes := rfl
@[simp] theorem State.report_narrow (s : State) (r : Report) : (s.report r).narrow = s.narrow := rfl
@[simp] theorem State.report_recent (s : State) (r : Report) : (s.report r).recent = s.recent := rfl
@[simp] theorem State.report_units (s : State) (r : Report) : (s.report r).units = s.units := rfl
@[simp] theorem State.report_unitReqs (s : State) (r : Report) : (s.report r).unitReqs = s.unitReqs := rfl
@[simp] theorem State.report_gated (s : State) (r : Report) : (s.report r).gated = s.gated := rfl
@[simp] theorem State.report_latches (s : State) (r : Report) : (s.report r).latches = s.latches := rfl
@[simp] theorem State.report_messages (s : State) (r : Report) : (s.report r).messages = s.messages := rfl
@[simp] theorem State.report_misses (s : State) (r : Report) : (s.report r).misses = s.misses := rfl
@[simp] theorem State.report_copies (s : State) (r : Report) : (s.report r).copies = s.copies := rfl
@[simp] theorem State.report_lexicons (s : State) (r : Report) : (s.report r).lexicons = s.lexicons := rfl
@[simp] theorem State.report_hems (s : State) (r : Report) : (s.report r).hems = s.hems := rfl
@[simp] theorem State.report_arrivals (s : State) (r : Report) : (s.report r).arrivals = s.arrivals := rfl
@[simp] theorem State.report_committees (s : State) (r : Report) : (s.report r).committees = s.committees := rfl
@[simp] theorem State.report_media (s : State) (r : Report) : (s.report r).media = s.media := rfl
@[simp] theorem State.report_timers (s : State) (r : Report) : (s.report r).timers = s.timers := rfl
@[simp] theorem State.report_appends (s : State) (r : Report) : (s.report r).appends = s.appends := rfl
@[simp] theorem State.report_queues (s : State) (r : Report) : (s.report r).queues = s.queues := rfl
@[simp] theorem State.report_claims (s : State) (r : Report) : (s.report r).claims = s.claims := rfl
@[simp] theorem State.report_launches (s : State) (r : Report) : (s.report r).launches = s.launches := rfl
@[simp] theorem State.report_closing (s : State) (r : Report) : (s.report r).closing = s.closing := rfl
@[simp] theorem State.report_commands (s : State) (r : Report) : (s.report r).commands = s.commands := rfl
@[simp] theorem State.report_time (s : State) (r : Report) : (s.report r).time = s.time := rfl
@[simp] theorem State.report_timeMode (s : State) (r : Report) : (s.report r).timeMode = s.timeMode := rfl
@[simp] theorem State.report_timeHold (s : State) (r : Report) : (s.report r).timeHold = s.timeHold := rfl
@[simp] theorem State.report_ready (s : State) (r : Report) : (s.report r).ready = s.ready := rfl
@[simp] theorem State.report_wide (s : State) (r : Report) : (s.report r).wide = s.wide := rfl
@[simp] theorem State.report_up (s : State) (r : Report) : (s.report r).up = s.up := rfl
@[simp] theorem State.report_absent (s : State) (r : Report) : (s.report r).absent = s.absent := rfl
@[simp] theorem State.report_throttled (s : State) (r : Report) : (s.report r).throttled = s.throttled := rfl
@[simp] theorem State.report_pwr (s : State) (r : Report) : (s.report r).pwr = s.pwr := rfl
@[simp] theorem State.report_temps (s : State) (r : Report) : (s.report r).temps = s.temps := rfl
@[simp] theorem State.report_power (s : State) (r : Report) : (s.report r).power = s.power := rfl
@[simp] theorem State.report_cap (s : State) (r : Report) : (s.report r).cap = s.cap := rfl
@[simp] theorem State.report_eccSram (s : State) (r : Report) : (s.report r).eccSram = s.eccSram := rfl
@[simp] theorem State.report_eccHbm (s : State) (r : Report) : (s.report r).eccHbm = s.eccHbm := rfl
@[simp] theorem State.report_eccLpddr (s : State) (r : Report) : (s.report r).eccLpddr = s.eccLpddr := rfl
@[simp] theorem State.report_checks (s : State) (r : Report) : (s.report r).checks = s.checks := rfl
@[simp] theorem State.report_masks (s : State) (r : Report) : (s.report r).masks = s.masks := rfl
@[simp] theorem State.report_counters (s : State) (r : Report) : (s.report r).counters = s.counters := rfl
@[simp] theorem State.report_linksDown (s : State) (r : Report) : (s.report r).linksDown = s.linksDown := rfl
@[simp] theorem State.report_spans (s : State) (r : Report) : (s.report r).spans = s.spans := rfl
@[simp] theorem State.report_modulesDown (s : State) (r : Report) : (s.report r).modulesDown = s.modulesDown := rfl
@[simp] theorem State.report_lastRead (s : State) (r : Report) : (s.report r).lastRead = s.lastRead := rfl
@[simp] theorem State.report_contexts (s : State) (r : Report) : (s.report r).contexts = s.contexts := rfl
@[simp] theorem State.report_kept (s : State) (r : Report) : (s.report r).kept = s.kept := rfl

/-! `setSlot`: only the slots -/

@[simp] theorem CoreState.setSlot_last (x : CoreState) (k : Nat) (t : Slot) : (x.setSlot k t).last = x.last := rfl
@[simp] theorem CoreState.setSlot_doms (x : CoreState) (k : Nat) (t : Slot) : (x.setSlot k t).doms = x.doms := rfl
@[simp] theorem CoreState.setSlot_runs (x : CoreState) (k : Nat) (t : Slot) : (x.setSlot k t).runs = x.runs := rfl
@[simp] theorem CoreState.setSlot_ports (x : CoreState) (k : Nat) (t : Slot) : (x.setSlot k t).ports = x.ports := rfl
@[simp] theorem CoreState.setSlot_owner (x : CoreState) (k : Nat) (t : Slot) : (x.setSlot k t).owner = x.owner := rfl
@[simp] theorem CoreState.setSlot_notes (x : CoreState) (k : Nat) (t : Slot) : (x.setSlot k t).notes = x.notes := rfl
@[simp] theorem CoreState.setSlot_backlog (x : CoreState) (k : Nat) (t : Slot) :
    (x.setSlot k t).backlog = x.backlog := rfl
@[simp] theorem CoreState.setSlot_pops (x : CoreState) (k : Nat) (t : Slot) : (x.setSlot k t).pops = x.pops := rfl
@[simp] theorem CoreState.setSlot_coming (x : CoreState) (k : Nat) (t : Slot) : (x.setSlot k t).coming = x.coming := rfl
@[simp] theorem CoreState.setSlot_copyBuf (x : CoreState) (k : Nat) (t : Slot) :
    (x.setSlot k t).copyBuf = x.copyBuf := rfl
@[simp] theorem CoreState.setSlot_lexBuf (x : CoreState) (k : Nat) (t : Slot) : (x.setSlot k t).lexBuf = x.lexBuf := rfl
@[simp] theorem CoreState.setSlot_tiles (x : CoreState) (k : Nat) (t : Slot) : (x.setSlot k t).tiles = x.tiles := rfl
@[simp] theorem CoreState.setSlot_mxQueue (x : CoreState) (k : Nat) (t : Slot) :
    (x.setSlot k t).mxQueue = x.mxQueue := rfl
@[simp] theorem CoreState.setSlot_mxRun (x : CoreState) (k : Nat) (t : Slot) : (x.setSlot k t).mxRun = x.mxRun := rfl
@[simp] theorem CoreState.setSlot_mxDone (x : CoreState) (k : Nat) (t : Slot) : (x.setSlot k t).mxDone = x.mxDone := rfl
@[simp] theorem CoreState.setSlot_hem (x : CoreState) (k : Nat) (t : Slot) : (x.setSlot k t).hem = x.hem := rfl
@[simp] theorem CoreState.setSlot_hemFound (x : CoreState) (k : Nat) (t : Slot) :
    (x.setSlot k t).hemFound = x.hemFound := rfl
@[simp] theorem CoreState.setSlot_hemExpect (x : CoreState) (k : Nat) (t : Slot) :
    (x.setSlot k t).hemExpect = x.hemExpect := rfl
@[simp] theorem CoreState.setSlot_hemSrc (x : CoreState) (k : Nat) (t : Slot) : (x.setSlot k t).hemSrc = x.hemSrc := rfl
@[simp] theorem CoreState.setSlot_hemCount (x : CoreState) (k : Nat) (t : Slot) :
    (x.setSlot k t).hemCount = x.hemCount := rfl
@[simp] theorem CoreState.setSlot_update (x : CoreState) (k : Nat) (t : Slot) : (x.setSlot k t).update = x.update := rfl
@[simp] theorem CoreState.setSlot_regions (x : CoreState) (k : Nat) (t : Slot) :
    (x.setSlot k t).regions = x.regions := rfl
@[simp] theorem CoreState.setSlot_planbase (x : CoreState) (k : Nat) (t : Slot) :
    (x.setSlot k t).planbase = x.planbase := rfl
@[simp] theorem CoreState.setSlot_cycles (x : CoreState) (k : Nat) (t : Slot) : (x.setSlot k t).cycles = x.cycles := rfl
@[simp] theorem CoreState.setSlot_retired (x : CoreState) (k : Nat) (t : Slot) :
    (x.setSlot k t).retired = x.retired := rfl
@[simp] theorem CoreState.setSlot_assay (x : CoreState) (k : Nat) (t : Slot) : (x.setSlot k t).assay = x.assay := rfl
@[simp] theorem CoreState.setSlot_resident (x : CoreState) (k : Nat) (t : Slot) :
    (x.setSlot k t).resident = x.resident := rfl
@[simp] theorem CoreState.setSlot_stopped (x : CoreState) (k : Nat) (t : Slot) :
    (x.setSlot k t).stopped = x.stopped := rfl
@[simp] theorem CoreState.setSlot_tlb (x : CoreState) (k : Nat) (t : Slot) : (x.setSlot k t).tlb = x.tlb := rfl
@[simp] theorem CoreState.setSlot_copyDone (x : CoreState) (k : Nat) (t : Slot) :
    (x.setSlot k t).copyDone = x.copyDone := rfl
@[simp] theorem CoreState.setSlot_lexDone (x : CoreState) (k : Nat) (t : Slot) :
    (x.setSlot k t).lexDone = x.lexDone := rfl
@[simp] theorem CoreState.setSlot_lastErr (x : CoreState) (k : Nat) (t : Slot) :
    (x.setSlot k t).lastErr = x.lastErr := rfl
@[simp] theorem CoreState.setSlot_quantum (x : CoreState) (k : Nat) (t : Slot) :
    (x.setSlot k t).quantum = x.quantum := rfl

/-! `setTile`: only the tiles -/

@[simp] theorem CoreState.setTile_slots (x : CoreState) (n : Nat) (t : Tile) : (x.setTile n t).slots = x.slots := rfl
@[simp] theorem CoreState.setTile_last (x : CoreState) (n : Nat) (t : Tile) : (x.setTile n t).last = x.last := rfl
@[simp] theorem CoreState.setTile_doms (x : CoreState) (n : Nat) (t : Tile) : (x.setTile n t).doms = x.doms := rfl
@[simp] theorem CoreState.setTile_runs (x : CoreState) (n : Nat) (t : Tile) : (x.setTile n t).runs = x.runs := rfl
@[simp] theorem CoreState.setTile_ports (x : CoreState) (n : Nat) (t : Tile) : (x.setTile n t).ports = x.ports := rfl
@[simp] theorem CoreState.setTile_owner (x : CoreState) (n : Nat) (t : Tile) : (x.setTile n t).owner = x.owner := rfl
@[simp] theorem CoreState.setTile_notes (x : CoreState) (n : Nat) (t : Tile) : (x.setTile n t).notes = x.notes := rfl
@[simp] theorem CoreState.setTile_backlog (x : CoreState) (n : Nat) (t : Tile) :
    (x.setTile n t).backlog = x.backlog := rfl
@[simp] theorem CoreState.setTile_pops (x : CoreState) (n : Nat) (t : Tile) : (x.setTile n t).pops = x.pops := rfl
@[simp] theorem CoreState.setTile_coming (x : CoreState) (n : Nat) (t : Tile) : (x.setTile n t).coming = x.coming := rfl
@[simp] theorem CoreState.setTile_copyBuf (x : CoreState) (n : Nat) (t : Tile) :
    (x.setTile n t).copyBuf = x.copyBuf := rfl
@[simp] theorem CoreState.setTile_lexBuf (x : CoreState) (n : Nat) (t : Tile) : (x.setTile n t).lexBuf = x.lexBuf := rfl
@[simp] theorem CoreState.setTile_mxQueue (x : CoreState) (n : Nat) (t : Tile) :
    (x.setTile n t).mxQueue = x.mxQueue := rfl
@[simp] theorem CoreState.setTile_mxRun (x : CoreState) (n : Nat) (t : Tile) : (x.setTile n t).mxRun = x.mxRun := rfl
@[simp] theorem CoreState.setTile_mxDone (x : CoreState) (n : Nat) (t : Tile) : (x.setTile n t).mxDone = x.mxDone := rfl
@[simp] theorem CoreState.setTile_hem (x : CoreState) (n : Nat) (t : Tile) : (x.setTile n t).hem = x.hem := rfl
@[simp] theorem CoreState.setTile_hemFound (x : CoreState) (n : Nat) (t : Tile) :
    (x.setTile n t).hemFound = x.hemFound := rfl
@[simp] theorem CoreState.setTile_hemExpect (x : CoreState) (n : Nat) (t : Tile) :
    (x.setTile n t).hemExpect = x.hemExpect := rfl
@[simp] theorem CoreState.setTile_hemSrc (x : CoreState) (n : Nat) (t : Tile) : (x.setTile n t).hemSrc = x.hemSrc := rfl
@[simp] theorem CoreState.setTile_hemCount (x : CoreState) (n : Nat) (t : Tile) :
    (x.setTile n t).hemCount = x.hemCount := rfl
@[simp] theorem CoreState.setTile_update (x : CoreState) (n : Nat) (t : Tile) : (x.setTile n t).update = x.update := rfl
@[simp] theorem CoreState.setTile_regions (x : CoreState) (n : Nat) (t : Tile) :
    (x.setTile n t).regions = x.regions := rfl
@[simp] theorem CoreState.setTile_planbase (x : CoreState) (n : Nat) (t : Tile) :
    (x.setTile n t).planbase = x.planbase := rfl
@[simp] theorem CoreState.setTile_cycles (x : CoreState) (n : Nat) (t : Tile) : (x.setTile n t).cycles = x.cycles := rfl
@[simp] theorem CoreState.setTile_retired (x : CoreState) (n : Nat) (t : Tile) :
    (x.setTile n t).retired = x.retired := rfl
@[simp] theorem CoreState.setTile_assay (x : CoreState) (n : Nat) (t : Tile) : (x.setTile n t).assay = x.assay := rfl
@[simp] theorem CoreState.setTile_resident (x : CoreState) (n : Nat) (t : Tile) :
    (x.setTile n t).resident = x.resident := rfl
@[simp] theorem CoreState.setTile_stopped (x : CoreState) (n : Nat) (t : Tile) :
    (x.setTile n t).stopped = x.stopped := rfl
@[simp] theorem CoreState.setTile_tlb (x : CoreState) (n : Nat) (t : Tile) : (x.setTile n t).tlb = x.tlb := rfl
@[simp] theorem CoreState.setTile_copyDone (x : CoreState) (n : Nat) (t : Tile) :
    (x.setTile n t).copyDone = x.copyDone := rfl
@[simp] theorem CoreState.setTile_lexDone (x : CoreState) (n : Nat) (t : Tile) :
    (x.setTile n t).lexDone = x.lexDone := rfl
@[simp] theorem CoreState.setTile_lastErr (x : CoreState) (n : Nat) (t : Tile) :
    (x.setTile n t).lastErr = x.lastErr := rfl
@[simp] theorem CoreState.setTile_quantum (x : CoreState) (n : Nat) (t : Tile) :
    (x.setTile n t).quantum = x.quantum := rfl

/-! `setPort`: only the ports -/

@[simp] theorem CoreState.setPort_slots (x : CoreState) (p : Nat) (l : List Word) :
    (x.setPort p l).slots = x.slots := rfl
@[simp] theorem CoreState.setPort_last (x : CoreState) (p : Nat) (l : List Word) : (x.setPort p l).last = x.last := rfl
@[simp] theorem CoreState.setPort_doms (x : CoreState) (p : Nat) (l : List Word) : (x.setPort p l).doms = x.doms := rfl
@[simp] theorem CoreState.setPort_runs (x : CoreState) (p : Nat) (l : List Word) : (x.setPort p l).runs = x.runs := rfl
@[simp] theorem CoreState.setPort_owner (x : CoreState) (p : Nat) (l : List Word) :
    (x.setPort p l).owner = x.owner := rfl
@[simp] theorem CoreState.setPort_notes (x : CoreState) (p : Nat) (l : List Word) :
    (x.setPort p l).notes = x.notes := rfl
@[simp] theorem CoreState.setPort_backlog (x : CoreState) (p : Nat) (l : List Word) :
    (x.setPort p l).backlog = x.backlog := rfl
@[simp] theorem CoreState.setPort_pops (x : CoreState) (p : Nat) (l : List Word) : (x.setPort p l).pops = x.pops := rfl
@[simp] theorem CoreState.setPort_coming (x : CoreState) (p : Nat) (l : List Word) :
    (x.setPort p l).coming = x.coming := rfl
@[simp] theorem CoreState.setPort_copyBuf (x : CoreState) (p : Nat) (l : List Word) :
    (x.setPort p l).copyBuf = x.copyBuf := rfl
@[simp] theorem CoreState.setPort_lexBuf (x : CoreState) (p : Nat) (l : List Word) :
    (x.setPort p l).lexBuf = x.lexBuf := rfl
@[simp] theorem CoreState.setPort_tiles (x : CoreState) (p : Nat) (l : List Word) :
    (x.setPort p l).tiles = x.tiles := rfl
@[simp] theorem CoreState.setPort_mxQueue (x : CoreState) (p : Nat) (l : List Word) :
    (x.setPort p l).mxQueue = x.mxQueue := rfl
@[simp] theorem CoreState.setPort_mxRun (x : CoreState) (p : Nat) (l : List Word) :
    (x.setPort p l).mxRun = x.mxRun := rfl
@[simp] theorem CoreState.setPort_mxDone (x : CoreState) (p : Nat) (l : List Word) :
    (x.setPort p l).mxDone = x.mxDone := rfl
@[simp] theorem CoreState.setPort_hem (x : CoreState) (p : Nat) (l : List Word) : (x.setPort p l).hem = x.hem := rfl
@[simp] theorem CoreState.setPort_hemFound (x : CoreState) (p : Nat) (l : List Word) :
    (x.setPort p l).hemFound = x.hemFound := rfl
@[simp] theorem CoreState.setPort_hemExpect (x : CoreState) (p : Nat) (l : List Word) :
    (x.setPort p l).hemExpect = x.hemExpect := rfl
@[simp] theorem CoreState.setPort_hemSrc (x : CoreState) (p : Nat) (l : List Word) :
    (x.setPort p l).hemSrc = x.hemSrc := rfl
@[simp] theorem CoreState.setPort_hemCount (x : CoreState) (p : Nat) (l : List Word) :
    (x.setPort p l).hemCount = x.hemCount := rfl
@[simp] theorem CoreState.setPort_update (x : CoreState) (p : Nat) (l : List Word) :
    (x.setPort p l).update = x.update := rfl
@[simp] theorem CoreState.setPort_regions (x : CoreState) (p : Nat) (l : List Word) :
    (x.setPort p l).regions = x.regions := rfl
@[simp] theorem CoreState.setPort_planbase (x : CoreState) (p : Nat) (l : List Word) :
    (x.setPort p l).planbase = x.planbase := rfl
@[simp] theorem CoreState.setPort_cycles (x : CoreState) (p : Nat) (l : List Word) :
    (x.setPort p l).cycles = x.cycles := rfl
@[simp] theorem CoreState.setPort_retired (x : CoreState) (p : Nat) (l : List Word) :
    (x.setPort p l).retired = x.retired := rfl
@[simp] theorem CoreState.setPort_assay (x : CoreState) (p : Nat) (l : List Word) :
    (x.setPort p l).assay = x.assay := rfl
@[simp] theorem CoreState.setPort_resident (x : CoreState) (p : Nat) (l : List Word) :
    (x.setPort p l).resident = x.resident := rfl
@[simp] theorem CoreState.setPort_stopped (x : CoreState) (p : Nat) (l : List Word) :
    (x.setPort p l).stopped = x.stopped := rfl
@[simp] theorem CoreState.setPort_tlb (x : CoreState) (p : Nat) (l : List Word) : (x.setPort p l).tlb = x.tlb := rfl
@[simp] theorem CoreState.setPort_copyDone (x : CoreState) (p : Nat) (l : List Word) :
    (x.setPort p l).copyDone = x.copyDone := rfl
@[simp] theorem CoreState.setPort_lexDone (x : CoreState) (p : Nat) (l : List Word) :
    (x.setPort p l).lexDone = x.lexDone := rfl
@[simp] theorem CoreState.setPort_lastErr (x : CoreState) (p : Nat) (l : List Word) :
    (x.setPort p l).lastErr = x.lastErr := rfl
@[simp] theorem CoreState.setPort_quantum (x : CoreState) (p : Nat) (l : List Word) :
    (x.setPort p l).quantum = x.quantum := rfl

/-! `setRun`: only the domain runs -/

@[simp] theorem CoreState.setRun_slots (x : CoreState) (d : Nat) (r : DomRun) : (x.setRun d r).slots = x.slots := rfl
@[simp] theorem CoreState.setRun_last (x : CoreState) (d : Nat) (r : DomRun) : (x.setRun d r).last = x.last := rfl
@[simp] theorem CoreState.setRun_doms (x : CoreState) (d : Nat) (r : DomRun) : (x.setRun d r).doms = x.doms := rfl
@[simp] theorem CoreState.setRun_ports (x : CoreState) (d : Nat) (r : DomRun) : (x.setRun d r).ports = x.ports := rfl
@[simp] theorem CoreState.setRun_owner (x : CoreState) (d : Nat) (r : DomRun) : (x.setRun d r).owner = x.owner := rfl
@[simp] theorem CoreState.setRun_notes (x : CoreState) (d : Nat) (r : DomRun) : (x.setRun d r).notes = x.notes := rfl
@[simp] theorem CoreState.setRun_backlog (x : CoreState) (d : Nat) (r : DomRun) :
    (x.setRun d r).backlog = x.backlog := rfl
@[simp] theorem CoreState.setRun_pops (x : CoreState) (d : Nat) (r : DomRun) : (x.setRun d r).pops = x.pops := rfl
@[simp] theorem CoreState.setRun_coming (x : CoreState) (d : Nat) (r : DomRun) : (x.setRun d r).coming = x.coming := rfl
@[simp] theorem CoreState.setRun_copyBuf (x : CoreState) (d : Nat) (r : DomRun) :
    (x.setRun d r).copyBuf = x.copyBuf := rfl
@[simp] theorem CoreState.setRun_lexBuf (x : CoreState) (d : Nat) (r : DomRun) : (x.setRun d r).lexBuf = x.lexBuf := rfl
@[simp] theorem CoreState.setRun_tiles (x : CoreState) (d : Nat) (r : DomRun) : (x.setRun d r).tiles = x.tiles := rfl
@[simp] theorem CoreState.setRun_mxQueue (x : CoreState) (d : Nat) (r : DomRun) :
    (x.setRun d r).mxQueue = x.mxQueue := rfl
@[simp] theorem CoreState.setRun_mxRun (x : CoreState) (d : Nat) (r : DomRun) : (x.setRun d r).mxRun = x.mxRun := rfl
@[simp] theorem CoreState.setRun_mxDone (x : CoreState) (d : Nat) (r : DomRun) : (x.setRun d r).mxDone = x.mxDone := rfl
@[simp] theorem CoreState.setRun_hem (x : CoreState) (d : Nat) (r : DomRun) : (x.setRun d r).hem = x.hem := rfl
@[simp] theorem CoreState.setRun_hemFound (x : CoreState) (d : Nat) (r : DomRun) :
    (x.setRun d r).hemFound = x.hemFound := rfl
@[simp] theorem CoreState.setRun_hemExpect (x : CoreState) (d : Nat) (r : DomRun) :
    (x.setRun d r).hemExpect = x.hemExpect := rfl
@[simp] theorem CoreState.setRun_hemSrc (x : CoreState) (d : Nat) (r : DomRun) : (x.setRun d r).hemSrc = x.hemSrc := rfl
@[simp] theorem CoreState.setRun_hemCount (x : CoreState) (d : Nat) (r : DomRun) :
    (x.setRun d r).hemCount = x.hemCount := rfl
@[simp] theorem CoreState.setRun_update (x : CoreState) (d : Nat) (r : DomRun) : (x.setRun d r).update = x.update := rfl
@[simp] theorem CoreState.setRun_regions (x : CoreState) (d : Nat) (r : DomRun) :
    (x.setRun d r).regions = x.regions := rfl
@[simp] theorem CoreState.setRun_planbase (x : CoreState) (d : Nat) (r : DomRun) :
    (x.setRun d r).planbase = x.planbase := rfl
@[simp] theorem CoreState.setRun_cycles (x : CoreState) (d : Nat) (r : DomRun) : (x.setRun d r).cycles = x.cycles := rfl
@[simp] theorem CoreState.setRun_retired (x : CoreState) (d : Nat) (r : DomRun) :
    (x.setRun d r).retired = x.retired := rfl
@[simp] theorem CoreState.setRun_assay (x : CoreState) (d : Nat) (r : DomRun) : (x.setRun d r).assay = x.assay := rfl
@[simp] theorem CoreState.setRun_resident (x : CoreState) (d : Nat) (r : DomRun) :
    (x.setRun d r).resident = x.resident := rfl
@[simp] theorem CoreState.setRun_stopped (x : CoreState) (d : Nat) (r : DomRun) :
    (x.setRun d r).stopped = x.stopped := rfl
@[simp] theorem CoreState.setRun_tlb (x : CoreState) (d : Nat) (r : DomRun) : (x.setRun d r).tlb = x.tlb := rfl
@[simp] theorem CoreState.setRun_copyDone (x : CoreState) (d : Nat) (r : DomRun) :
    (x.setRun d r).copyDone = x.copyDone := rfl
@[simp] theorem CoreState.setRun_lexDone (x : CoreState) (d : Nat) (r : DomRun) :
    (x.setRun d r).lexDone = x.lexDone := rfl
@[simp] theorem CoreState.setRun_lastErr (x : CoreState) (d : Nat) (r : DomRun) :
    (x.setRun d r).lastErr = x.lastErr := rfl
@[simp] theorem CoreState.setRun_quantum (x : CoreState) (d : Nat) (r : DomRun) :
    (x.setRun d r).quantum = x.quantum := rfl

/-! `retired`: what a retirement leaves -/

@[simp] theorem Slot.retired_run (t : Slot) : (t.retired).run = t.run := rfl
@[simp] theorem Slot.retired_npc (t : Slot) : (t.retired).npc = t.npc := rfl
@[simp] theorem Slot.retired_g (t : Slot) : (t.retired).g = t.g := rfl
@[simp] theorem Slot.retired_v (t : Slot) : (t.retired).v = t.v := rfl
@[simp] theorem Slot.retired_k (t : Slot) : (t.retired).k = t.k := rfl
@[simp] theorem Slot.retired_inh (t : Slot) : (t.retired).inh = t.inh := rfl
@[simp] theorem Slot.retired_vskip (t : Slot) : (t.retired).vskip = t.vskip := rfl
@[simp] theorem Slot.retired_eerr (t : Slot) : (t.retired).eerr = t.eerr := rfl
@[simp] theorem Slot.retired_trapvec (t : Slot) : (t.retired).trapvec = t.trapvec := rfl
@[simp] theorem Slot.retired_trapdef (t : Slot) : (t.retired).trapdef = t.trapdef := rfl
@[simp] theorem Slot.retired_trapdetail (t : Slot) : (t.retired).trapdetail = t.trapdetail := rfl
@[simp] theorem Slot.retired_trapcode (t : Slot) : (t.retired).trapcode = t.trapcode := rfl
@[simp] theorem Slot.retired_trappc (t : Slot) : (t.retired).trappc = t.trappc := rfl
@[simp] theorem Slot.retired_trapval (t : Slot) : (t.retired).trapval = t.trapval := rfl
@[simp] theorem Slot.retired_scratch (t : Slot) : (t.retired).scratch = t.scratch := rfl
@[simp] theorem Slot.retired_level (t : Slot) : (t.retired).level = t.level := rfl
@[simp] theorem Slot.retired_prem (t : Slot) : (t.retired).prem = t.prem := rfl
@[simp] theorem Slot.retired_fen (t : Slot) : (t.retired).fen = t.fen := rfl
@[simp] theorem Slot.retired_rm (t : Slot) : (t.retired).rm = t.rm := rfl
@[simp] theorem Slot.retired_fflags (t : Slot) : (t.retired).fflags = t.fflags := rfl
@[simp] theorem Slot.retired_arr (t : Slot) : (t.retired).arr = t.arr := rfl
@[simp] theorem Slot.retired_streams (t : Slot) : (t.retired).streams = t.streams := rfl
@[simp] theorem Slot.retired_seq (t : Slot) : (t.retired).seq = t.seq := rfl
@[simp] theorem Slot.retired_lag (t : Slot) : (t.retired).lag = t.lag := rfl
@[simp] theorem Slot.retired_collect (t : Slot) : (t.retired).collect = t.collect := rfl
@[simp] theorem Slot.retired_shelved (t : Slot) : (t.retired).shelved = t.shelved := rfl
@[simp] theorem Slot.retired_deferred (t : Slot) : (t.retired).deferred = t.deferred := rfl
@[simp] theorem Slot.retired_replay (t : Slot) : (t.retired).replay = t.replay := rfl
@[simp] theorem Slot.retired_vmiss (t : Slot) : (t.retired).vmiss = t.vmiss := rfl
@[simp] theorem Slot.retired_vwait (t : Slot) : (t.retired).vwait = t.vwait := rfl
@[simp] theorem Slot.retired_deferStores (t : Slot) : (t.retired).deferStores = t.deferStores := rfl
@[simp] theorem Slot.retired_buffer (t : Slot) : (t.retired).buffer = t.buffer := rfl
@[simp] theorem Slot.retired_early (t : Slot) : (t.retired).early = t.early := rfl
@[simp] theorem Slot.retired_saw (t : Slot) : (t.retired).saw = t.saw := rfl
@[simp] theorem Slot.retired_fences (t : Slot) : (t.retired).fences = t.fences := rfl
@[simp] theorem Slot.retired_passed (t : Slot) : (t.retired).passed = t.passed := rfl
@[simp] theorem Slot.retired_ahead (t : Slot) : (t.retired).ahead = t.ahead := rfl
@[simp] theorem Slot.retired_fencing (t : Slot) : (t.retired).fencing = t.fencing := rfl
@[simp] theorem Slot.retired_mismatch (t : Slot) : (t.retired).mismatch = t.mismatch := rfl

/-! `enterHandler`: what a trap leaves -/

@[simp] theorem Slot.enterHandler_run (t : Slot) (d : Bool) (x : Trap) : (t.enterHandler d x).run = t.run := rfl
@[simp] theorem Slot.enterHandler_g (t : Slot) (d : Bool) (x : Trap) : (t.enterHandler d x).g = t.g := rfl
@[simp] theorem Slot.enterHandler_v (t : Slot) (d : Bool) (x : Trap) : (t.enterHandler d x).v = t.v := rfl
@[simp] theorem Slot.enterHandler_k (t : Slot) (d : Bool) (x : Trap) : (t.enterHandler d x).k = t.k := rfl
@[simp] theorem Slot.enterHandler_vskip (t : Slot) (d : Bool) (x : Trap) : (t.enterHandler d x).vskip = t.vskip := rfl
@[simp] theorem Slot.enterHandler_eerr (t : Slot) (d : Bool) (x : Trap) : (t.enterHandler d x).eerr = t.eerr := rfl
@[simp] theorem Slot.enterHandler_trapvec (t : Slot) (d : Bool) (x : Trap) :
    (t.enterHandler d x).trapvec = t.trapvec := rfl
@[simp] theorem Slot.enterHandler_scratch (t : Slot) (d : Bool) (x : Trap) :
    (t.enterHandler d x).scratch = t.scratch := rfl
@[simp] theorem Slot.enterHandler_level (t : Slot) (d : Bool) (x : Trap) : (t.enterHandler d x).level = t.level := rfl
@[simp] theorem Slot.enterHandler_prem (t : Slot) (d : Bool) (x : Trap) : (t.enterHandler d x).prem = t.prem := rfl
@[simp] theorem Slot.enterHandler_waited (t : Slot) (d : Bool) (x : Trap) :
    (t.enterHandler d x).waited = t.waited := rfl
@[simp] theorem Slot.enterHandler_crew (t : Slot) (d : Bool) (x : Trap) : (t.enterHandler d x).crew = t.crew := rfl
@[simp] theorem Slot.enterHandler_forced (t : Slot) (d : Bool) (x : Trap) :
    (t.enterHandler d x).forced = t.forced := rfl
@[simp] theorem Slot.enterHandler_fen (t : Slot) (d : Bool) (x : Trap) : (t.enterHandler d x).fen = t.fen := rfl
@[simp] theorem Slot.enterHandler_rm (t : Slot) (d : Bool) (x : Trap) : (t.enterHandler d x).rm = t.rm := rfl
@[simp] theorem Slot.enterHandler_fflags (t : Slot) (d : Bool) (x : Trap) :
    (t.enterHandler d x).fflags = t.fflags := rfl
@[simp] theorem Slot.enterHandler_arr (t : Slot) (d : Bool) (x : Trap) : (t.enterHandler d x).arr = t.arr := rfl
@[simp] theorem Slot.enterHandler_streams (t : Slot) (d : Bool) (x : Trap) :
    (t.enterHandler d x).streams = t.streams := rfl
@[simp] theorem Slot.enterHandler_seq (t : Slot) (d : Bool) (x : Trap) : (t.enterHandler d x).seq = t.seq := rfl
@[simp] theorem Slot.enterHandler_lag (t : Slot) (d : Bool) (x : Trap) : (t.enterHandler d x).lag = t.lag := rfl
@[simp] theorem Slot.enterHandler_deferred (t : Slot) (d : Bool) (x : Trap) :
    (t.enterHandler d x).deferred = t.deferred := rfl
@[simp] theorem Slot.enterHandler_replay (t : Slot) (d : Bool) (x : Trap) :
    (t.enterHandler d x).replay = t.replay := rfl
@[simp] theorem Slot.enterHandler_vmiss (t : Slot) (d : Bool) (x : Trap) : (t.enterHandler d x).vmiss = t.vmiss := rfl
@[simp] theorem Slot.enterHandler_vwait (t : Slot) (d : Bool) (x : Trap) : (t.enterHandler d x).vwait = t.vwait := rfl
@[simp] theorem Slot.enterHandler_deferStores (t : Slot) (d : Bool) (x : Trap) :
    (t.enterHandler d x).deferStores = t.deferStores := rfl
@[simp] theorem Slot.enterHandler_buffer (t : Slot) (d : Bool) (x : Trap) :
    (t.enterHandler d x).buffer = t.buffer := rfl
@[simp] theorem Slot.enterHandler_early (t : Slot) (d : Bool) (x : Trap) : (t.enterHandler d x).early = t.early := rfl
@[simp] theorem Slot.enterHandler_saw (t : Slot) (d : Bool) (x : Trap) : (t.enterHandler d x).saw = t.saw := rfl
@[simp] theorem Slot.enterHandler_fences (t : Slot) (d : Bool) (x : Trap) :
    (t.enterHandler d x).fences = t.fences := rfl
@[simp] theorem Slot.enterHandler_passed (t : Slot) (d : Bool) (x : Trap) :
    (t.enterHandler d x).passed = t.passed := rfl
@[simp] theorem Slot.enterHandler_ahead (t : Slot) (d : Bool) (x : Trap) : (t.enterHandler d x).ahead = t.ahead := rfl
@[simp] theorem Slot.enterHandler_fencing (t : Slot) (d : Bool) (x : Trap) :
    (t.enterHandler d x).fencing = t.fencing := rfl
@[simp] theorem Slot.enterHandler_mismatch (t : Slot) (d : Bool) (x : Trap) :
    (t.enterHandler d x).mismatch = t.mismatch := rfl

/-! `leaveHandler`: what RETX leaves -/

@[simp] theorem Slot.leaveHandler_run (t : Slot) (l : List SeqItem) : (t.leaveHandler l).run = t.run := rfl
@[simp] theorem Slot.leaveHandler_pc (t : Slot) (l : List SeqItem) : (t.leaveHandler l).pc = t.pc := rfl
@[simp] theorem Slot.leaveHandler_g (t : Slot) (l : List SeqItem) : (t.leaveHandler l).g = t.g := rfl
@[simp] theorem Slot.leaveHandler_v (t : Slot) (l : List SeqItem) : (t.leaveHandler l).v = t.v := rfl
@[simp] theorem Slot.leaveHandler_k (t : Slot) (l : List SeqItem) : (t.leaveHandler l).k = t.k := rfl
@[simp] theorem Slot.leaveHandler_eerr (t : Slot) (l : List SeqItem) : (t.leaveHandler l).eerr = t.eerr := rfl
@[simp] theorem Slot.leaveHandler_trapvec (t : Slot) (l : List SeqItem) : (t.leaveHandler l).trapvec = t.trapvec := rfl
@[simp] theorem Slot.leaveHandler_trapdef (t : Slot) (l : List SeqItem) : (t.leaveHandler l).trapdef = t.trapdef := rfl
@[simp] theorem Slot.leaveHandler_trapdetail (t : Slot) (l : List SeqItem) :
    (t.leaveHandler l).trapdetail = t.trapdetail := rfl
@[simp] theorem Slot.leaveHandler_trapcode (t : Slot) (l : List SeqItem) :
    (t.leaveHandler l).trapcode = t.trapcode := rfl
@[simp] theorem Slot.leaveHandler_trappc (t : Slot) (l : List SeqItem) : (t.leaveHandler l).trappc = t.trappc := rfl
@[simp] theorem Slot.leaveHandler_trapval (t : Slot) (l : List SeqItem) : (t.leaveHandler l).trapval = t.trapval := rfl
@[simp] theorem Slot.leaveHandler_scratch (t : Slot) (l : List SeqItem) : (t.leaveHandler l).scratch = t.scratch := rfl
@[simp] theorem Slot.leaveHandler_level (t : Slot) (l : List SeqItem) : (t.leaveHandler l).level = t.level := rfl
@[simp] theorem Slot.leaveHandler_prem (t : Slot) (l : List SeqItem) : (t.leaveHandler l).prem = t.prem := rfl
@[simp] theorem Slot.leaveHandler_waited (t : Slot) (l : List SeqItem) : (t.leaveHandler l).waited = t.waited := rfl
@[simp] theorem Slot.leaveHandler_held (t : Slot) (l : List SeqItem) : (t.leaveHandler l).held = t.held := rfl
@[simp] theorem Slot.leaveHandler_crew (t : Slot) (l : List SeqItem) : (t.leaveHandler l).crew = t.crew := rfl
@[simp] theorem Slot.leaveHandler_forced (t : Slot) (l : List SeqItem) : (t.leaveHandler l).forced = t.forced := rfl
@[simp] theorem Slot.leaveHandler_fen (t : Slot) (l : List SeqItem) : (t.leaveHandler l).fen = t.fen := rfl
@[simp] theorem Slot.leaveHandler_rm (t : Slot) (l : List SeqItem) : (t.leaveHandler l).rm = t.rm := rfl
@[simp] theorem Slot.leaveHandler_fflags (t : Slot) (l : List SeqItem) : (t.leaveHandler l).fflags = t.fflags := rfl
@[simp] theorem Slot.leaveHandler_arr (t : Slot) (l : List SeqItem) : (t.leaveHandler l).arr = t.arr := rfl
@[simp] theorem Slot.leaveHandler_streams (t : Slot) (l : List SeqItem) : (t.leaveHandler l).streams = t.streams := rfl
@[simp] theorem Slot.leaveHandler_lag (t : Slot) (l : List SeqItem) : (t.leaveHandler l).lag = t.lag := rfl
@[simp] theorem Slot.leaveHandler_deferred (t : Slot) (l : List SeqItem) :
    (t.leaveHandler l).deferred = t.deferred := rfl
@[simp] theorem Slot.leaveHandler_wait (t : Slot) (l : List SeqItem) : (t.leaveHandler l).wait = t.wait := rfl
@[simp] theorem Slot.leaveHandler_vmiss (t : Slot) (l : List SeqItem) : (t.leaveHandler l).vmiss = t.vmiss := rfl
@[simp] theorem Slot.leaveHandler_vwait (t : Slot) (l : List SeqItem) : (t.leaveHandler l).vwait = t.vwait := rfl
@[simp] theorem Slot.leaveHandler_mine (t : Slot) (l : List SeqItem) : (t.leaveHandler l).mine = t.mine := rfl
@[simp] theorem Slot.leaveHandler_taken (t : Slot) (l : List SeqItem) : (t.leaveHandler l).taken = t.taken := rfl
@[simp] theorem Slot.leaveHandler_lent (t : Slot) (l : List SeqItem) : (t.leaveHandler l).lent = t.lent := rfl
@[simp] theorem Slot.leaveHandler_deferStores (t : Slot) (l : List SeqItem) :
    (t.leaveHandler l).deferStores = t.deferStores := rfl
@[simp] theorem Slot.leaveHandler_buffer (t : Slot) (l : List SeqItem) : (t.leaveHandler l).buffer = t.buffer := rfl
@[simp] theorem Slot.leaveHandler_early (t : Slot) (l : List SeqItem) : (t.leaveHandler l).early = t.early := rfl
@[simp] theorem Slot.leaveHandler_saw (t : Slot) (l : List SeqItem) : (t.leaveHandler l).saw = t.saw := rfl
@[simp] theorem Slot.leaveHandler_fences (t : Slot) (l : List SeqItem) : (t.leaveHandler l).fences = t.fences := rfl
@[simp] theorem Slot.leaveHandler_passed (t : Slot) (l : List SeqItem) : (t.leaveHandler l).passed = t.passed := rfl
@[simp] theorem Slot.leaveHandler_mismatch (t : Slot) (l : List SeqItem) :
    (t.leaveHandler l).mismatch = t.mismatch := rfl

/-! `released`: what a release of a barrier leaves -/

@[simp] theorem Slot.released_run (t : Slot) (d : Nat) : (t.released d).run = t.run := rfl
@[simp] theorem Slot.released_pc (t : Slot) (d : Nat) : (t.released d).pc = t.pc := rfl
@[simp] theorem Slot.released_npc (t : Slot) (d : Nat) : (t.released d).npc = t.npc := rfl
@[simp] theorem Slot.released_g (t : Slot) (d : Nat) : (t.released d).g = t.g := rfl
@[simp] theorem Slot.released_v (t : Slot) (d : Nat) : (t.released d).v = t.v := rfl
@[simp] theorem Slot.released_k (t : Slot) (d : Nat) : (t.released d).k = t.k := rfl
@[simp] theorem Slot.released_inh (t : Slot) (d : Nat) : (t.released d).inh = t.inh := rfl
@[simp] theorem Slot.released_vskip (t : Slot) (d : Nat) : (t.released d).vskip = t.vskip := rfl
@[simp] theorem Slot.released_eerr (t : Slot) (d : Nat) : (t.released d).eerr = t.eerr := rfl
@[simp] theorem Slot.released_trapvec (t : Slot) (d : Nat) : (t.released d).trapvec = t.trapvec := rfl
@[simp] theorem Slot.released_trapdef (t : Slot) (d : Nat) : (t.released d).trapdef = t.trapdef := rfl
@[simp] theorem Slot.released_trapdetail (t : Slot) (d : Nat) : (t.released d).trapdetail = t.trapdetail := rfl
@[simp] theorem Slot.released_trapcode (t : Slot) (d : Nat) : (t.released d).trapcode = t.trapcode := rfl
@[simp] theorem Slot.released_trappc (t : Slot) (d : Nat) : (t.released d).trappc = t.trappc := rfl
@[simp] theorem Slot.released_trapval (t : Slot) (d : Nat) : (t.released d).trapval = t.trapval := rfl
@[simp] theorem Slot.released_scratch (t : Slot) (d : Nat) : (t.released d).scratch = t.scratch := rfl
@[simp] theorem Slot.released_level (t : Slot) (d : Nat) : (t.released d).level = t.level := rfl
@[simp] theorem Slot.released_prem (t : Slot) (d : Nat) : (t.released d).prem = t.prem := rfl
@[simp] theorem Slot.released_waited (t : Slot) (d : Nat) : (t.released d).waited = t.waited := rfl
@[simp] theorem Slot.released_held (t : Slot) (d : Nat) : (t.released d).held = t.held := rfl
@[simp] theorem Slot.released_crew (t : Slot) (d : Nat) : (t.released d).crew = t.crew := rfl
@[simp] theorem Slot.released_forced (t : Slot) (d : Nat) : (t.released d).forced = t.forced := rfl
@[simp] theorem Slot.released_fen (t : Slot) (d : Nat) : (t.released d).fen = t.fen := rfl
@[simp] theorem Slot.released_rm (t : Slot) (d : Nat) : (t.released d).rm = t.rm := rfl
@[simp] theorem Slot.released_fflags (t : Slot) (d : Nat) : (t.released d).fflags = t.fflags := rfl
@[simp] theorem Slot.released_streams (t : Slot) (d : Nat) : (t.released d).streams = t.streams := rfl
@[simp] theorem Slot.released_seq (t : Slot) (d : Nat) : (t.released d).seq = t.seq := rfl
@[simp] theorem Slot.released_lag (t : Slot) (d : Nat) : (t.released d).lag = t.lag := rfl
@[simp] theorem Slot.released_collect (t : Slot) (d : Nat) : (t.released d).collect = t.collect := rfl
@[simp] theorem Slot.released_shelved (t : Slot) (d : Nat) : (t.released d).shelved = t.shelved := rfl
@[simp] theorem Slot.released_deferred (t : Slot) (d : Nat) : (t.released d).deferred = t.deferred := rfl
@[simp] theorem Slot.released_replay (t : Slot) (d : Nat) : (t.released d).replay = t.replay := rfl
@[simp] theorem Slot.released_wait (t : Slot) (d : Nat) : (t.released d).wait = t.wait := rfl
@[simp] theorem Slot.released_vmiss (t : Slot) (d : Nat) : (t.released d).vmiss = t.vmiss := rfl
@[simp] theorem Slot.released_vwait (t : Slot) (d : Nat) : (t.released d).vwait = t.vwait := rfl
@[simp] theorem Slot.released_mine (t : Slot) (d : Nat) : (t.released d).mine = t.mine := rfl
@[simp] theorem Slot.released_taken (t : Slot) (d : Nat) : (t.released d).taken = t.taken := rfl
@[simp] theorem Slot.released_lent (t : Slot) (d : Nat) : (t.released d).lent = t.lent := rfl
@[simp] theorem Slot.released_deferStores (t : Slot) (d : Nat) : (t.released d).deferStores = t.deferStores := rfl
@[simp] theorem Slot.released_buffer (t : Slot) (d : Nat) : (t.released d).buffer = t.buffer := rfl
@[simp] theorem Slot.released_early (t : Slot) (d : Nat) : (t.released d).early = t.early := rfl
@[simp] theorem Slot.released_saw (t : Slot) (d : Nat) : (t.released d).saw = t.saw := rfl
@[simp] theorem Slot.released_fences (t : Slot) (d : Nat) : (t.released d).fences = t.fences := rfl
@[simp] theorem Slot.released_passed (t : Slot) (d : Nat) : (t.released d).passed = t.passed := rfl
@[simp] theorem Slot.released_mismatch (t : Slot) (d : Nat) : (t.released d).mismatch = t.mismatch := rfl

/-! `unmark`: only the marks of a disagreement -/

@[simp] theorem Slot.unmark_run (t : Slot) (d : Nat) : (t.unmark d).run = t.run := rfl
@[simp] theorem Slot.unmark_pc (t : Slot) (d : Nat) : (t.unmark d).pc = t.pc := rfl
@[simp] theorem Slot.unmark_npc (t : Slot) (d : Nat) : (t.unmark d).npc = t.npc := rfl
@[simp] theorem Slot.unmark_g (t : Slot) (d : Nat) : (t.unmark d).g = t.g := rfl
@[simp] theorem Slot.unmark_v (t : Slot) (d : Nat) : (t.unmark d).v = t.v := rfl
@[simp] theorem Slot.unmark_k (t : Slot) (d : Nat) : (t.unmark d).k = t.k := rfl
@[simp] theorem Slot.unmark_inh (t : Slot) (d : Nat) : (t.unmark d).inh = t.inh := rfl
@[simp] theorem Slot.unmark_vskip (t : Slot) (d : Nat) : (t.unmark d).vskip = t.vskip := rfl
@[simp] theorem Slot.unmark_eerr (t : Slot) (d : Nat) : (t.unmark d).eerr = t.eerr := rfl
@[simp] theorem Slot.unmark_trapvec (t : Slot) (d : Nat) : (t.unmark d).trapvec = t.trapvec := rfl
@[simp] theorem Slot.unmark_trapdef (t : Slot) (d : Nat) : (t.unmark d).trapdef = t.trapdef := rfl
@[simp] theorem Slot.unmark_trapdetail (t : Slot) (d : Nat) : (t.unmark d).trapdetail = t.trapdetail := rfl
@[simp] theorem Slot.unmark_trapcode (t : Slot) (d : Nat) : (t.unmark d).trapcode = t.trapcode := rfl
@[simp] theorem Slot.unmark_trappc (t : Slot) (d : Nat) : (t.unmark d).trappc = t.trappc := rfl
@[simp] theorem Slot.unmark_trapval (t : Slot) (d : Nat) : (t.unmark d).trapval = t.trapval := rfl
@[simp] theorem Slot.unmark_scratch (t : Slot) (d : Nat) : (t.unmark d).scratch = t.scratch := rfl
@[simp] theorem Slot.unmark_level (t : Slot) (d : Nat) : (t.unmark d).level = t.level := rfl
@[simp] theorem Slot.unmark_prem (t : Slot) (d : Nat) : (t.unmark d).prem = t.prem := rfl
@[simp] theorem Slot.unmark_waited (t : Slot) (d : Nat) : (t.unmark d).waited = t.waited := rfl
@[simp] theorem Slot.unmark_held (t : Slot) (d : Nat) : (t.unmark d).held = t.held := rfl
@[simp] theorem Slot.unmark_crew (t : Slot) (d : Nat) : (t.unmark d).crew = t.crew := rfl
@[simp] theorem Slot.unmark_forced (t : Slot) (d : Nat) : (t.unmark d).forced = t.forced := rfl
@[simp] theorem Slot.unmark_fen (t : Slot) (d : Nat) : (t.unmark d).fen = t.fen := rfl
@[simp] theorem Slot.unmark_rm (t : Slot) (d : Nat) : (t.unmark d).rm = t.rm := rfl
@[simp] theorem Slot.unmark_fflags (t : Slot) (d : Nat) : (t.unmark d).fflags = t.fflags := rfl
@[simp] theorem Slot.unmark_arr (t : Slot) (d : Nat) : (t.unmark d).arr = t.arr := rfl
@[simp] theorem Slot.unmark_streams (t : Slot) (d : Nat) : (t.unmark d).streams = t.streams := rfl
@[simp] theorem Slot.unmark_seq (t : Slot) (d : Nat) : (t.unmark d).seq = t.seq := rfl
@[simp] theorem Slot.unmark_lag (t : Slot) (d : Nat) : (t.unmark d).lag = t.lag := rfl
@[simp] theorem Slot.unmark_collect (t : Slot) (d : Nat) : (t.unmark d).collect = t.collect := rfl
@[simp] theorem Slot.unmark_shelved (t : Slot) (d : Nat) : (t.unmark d).shelved = t.shelved := rfl
@[simp] theorem Slot.unmark_deferred (t : Slot) (d : Nat) : (t.unmark d).deferred = t.deferred := rfl
@[simp] theorem Slot.unmark_replay (t : Slot) (d : Nat) : (t.unmark d).replay = t.replay := rfl
@[simp] theorem Slot.unmark_wait (t : Slot) (d : Nat) : (t.unmark d).wait = t.wait := rfl
@[simp] theorem Slot.unmark_vmiss (t : Slot) (d : Nat) : (t.unmark d).vmiss = t.vmiss := rfl
@[simp] theorem Slot.unmark_vwait (t : Slot) (d : Nat) : (t.unmark d).vwait = t.vwait := rfl
@[simp] theorem Slot.unmark_mine (t : Slot) (d : Nat) : (t.unmark d).mine = t.mine := rfl
@[simp] theorem Slot.unmark_taken (t : Slot) (d : Nat) : (t.unmark d).taken = t.taken := rfl
@[simp] theorem Slot.unmark_lent (t : Slot) (d : Nat) : (t.unmark d).lent = t.lent := rfl
@[simp] theorem Slot.unmark_deferStores (t : Slot) (d : Nat) : (t.unmark d).deferStores = t.deferStores := rfl
@[simp] theorem Slot.unmark_buffer (t : Slot) (d : Nat) : (t.unmark d).buffer = t.buffer := rfl
@[simp] theorem Slot.unmark_early (t : Slot) (d : Nat) : (t.unmark d).early = t.early := rfl
@[simp] theorem Slot.unmark_saw (t : Slot) (d : Nat) : (t.unmark d).saw = t.saw := rfl
@[simp] theorem Slot.unmark_fences (t : Slot) (d : Nat) : (t.unmark d).fences = t.fences := rfl
@[simp] theorem Slot.unmark_passed (t : Slot) (d : Nat) : (t.unmark d).passed = t.passed := rfl
@[simp] theorem Slot.unmark_ahead (t : Slot) (d : Nat) : (t.unmark d).ahead = t.ahead := rfl
@[simp] theorem Slot.unmark_fencing (t : Slot) (d : Nat) : (t.unmark d).fencing = t.fencing := rfl

/-! ### What a read finds after an update -/

theorem lookupD_insertKey_self {α : Type} (d x : α) (i : Nat) (l : List (Nat × α)) :
    lookupD d i (insertKey i x l) = x := by
  induction l with
  | nil => simp [insertKey, lookupD]
  | cons p l ih =>
    obtain ⟨j, y⟩ := p
    simp only [insertKey]
    split
    · simp [lookupD]
    · split
      · simp [lookupD]
      · rename_i h1 h2
        simp [lookupD, Ne.symm h2, ih]

theorem lookupD_insertKey_ne {α : Type} (d x : α) {i j : Nat} (h : j ≠ i) (l : List (Nat × α)) :
    lookupD d j (insertKey i x l) = lookupD d j l := by
  induction l with
  | nil => simp [insertKey, lookupD, Ne.symm h]
  | cons p l ih =>
    obtain ⟨k, y⟩ := p
    simp only [insertKey]
    split
    · simp [lookupD, Ne.symm h]
    · split
      · rename_i h1 h2
        subst h2
        simp [lookupD, Ne.symm h]
      · simp only [lookupD, ih]

@[simp] theorem State.coreOf_setCore (s : State) (c : Nat) (x : CoreState) : (s.setCore c x).coreOf c = x :=
  lookupD_insertKey_self _ _ _ _

theorem State.coreOf_setCore_ne (s : State) {c d : Nat} (x : CoreState) (h : d ≠ c) :
    (s.setCore c x).coreOf d = s.coreOf d := lookupD_insertKey_ne _ _ h _

@[simp] theorem State.myCore_setCore (s : State) (x : CoreState) : (s.setCore s.cur.core x).myCore = x :=
  lookupD_insertKey_self _ _ _ _

theorem vget_vset {α : Type} {n : Nat} (v : Vector α n) {i : Nat} (x d : α) (h : i < n) : vget (vset v i x) i d = x := by
  simp [vget, vset, h]

theorem vget_vset_ne {α : Type} {n : Nat} (v : Vector α n) {i j : Nat} (x d : α) (h : j ≠ i) :
    vget (vset v i x) j d = vget v j d := by
  simp [vget, vset, Ne.symm h]

@[simp] theorem CoreState.slotOf_setSlot (x : CoreState) (k : Fin 4) (t : Slot) : (x.setSlot k.val t).slotOf k.val = t :=
  vget_vset _ _ _ k.isLt

theorem CoreState.slotOf_setSlot_ne (x : CoreState) {k j : Nat} (t : Slot) (h : j ≠ k) :
    (x.setSlot k t).slotOf j = x.slotOf j := vget_vset_ne _ _ _ h

/-- The slot of the step after its core is replaced. -/
@[simp] theorem State.me_setCore (s : State) (x : CoreState) :
    (s.setCore s.cur.core x).me = x.slotOf s.cur.slot.val := by
  simp [State.me, State.slotOf]

theorem State.slotOf_setCore (s : State) (c k : Nat) (x : CoreState) : (s.setCore c x).slotOf c k = x.slotOf k := by
  simp [State.slotOf]

theorem State.slotOf_setCore_ne (s : State) {c d : Nat} (k : Nat) (x : CoreState) (h : d ≠ c) :
    (s.setCore c x).slotOf d k = s.slotOf d k := by
  simp [State.slotOf, State.coreOf_setCore_ne _ _ h]

theorem State.coreOf_of_cores {s t : State} (h : t.cores = s.cores) (c : Nat) : t.coreOf c = s.coreOf c := by
  simp [State.coreOf, h]

@[simp] theorem State.coreOf_writeBytes (s : State) (a : Nat) (bs : List Byte) (c : Nat) :
    (s.writeBytes a bs).coreOf c = s.coreOf c := rfl
@[simp] theorem State.coreOf_clearBytes (s : State) (a n c : Nat) : (s.clearBytes a n).coreOf c = s.coreOf c := rfl
@[simp] theorem State.coreOf_setQueue (s : State) (q : Nat) (x : Queue) (c : Nat) :
    (s.setQueue q x).coreOf c = s.coreOf c := rfl
@[simp] theorem State.coreOf_modLaunch (s : State) (id : Nat) (f : Launch → Launch) (c : Nat) :
    (s.modLaunch id f).coreOf c = s.coreOf c := rfl
@[simp] theorem State.coreOf_report (s : State) (r : Report) (c : Nat) : (s.report r).coreOf c = s.coreOf c := rfl
@[simp] theorem State.me_writeBytes (s : State) (a : Nat) (bs : List Byte) : (s.writeBytes a bs).me = s.me := rfl
@[simp] theorem State.myCore_writeBytes (s : State) (a : Nat) (bs : List Byte) :
    (s.writeBytes a bs).myCore = s.myCore := rfl

@[simp] theorem State.queueOf_setQueue (s : State) (q : Nat) (x : Queue) : (s.setQueue q x).queueOf q = x :=
  lookupD_insertKey_self _ _ _ _

theorem State.queueOf_setQueue_ne (s : State) {q r : Nat} (x : Queue) (h : r ≠ q) :
    (s.setQueue q x).queueOf r = s.queueOf r := lookupD_insertKey_ne _ _ h _

end Sys2Proof.Machine
end

