-- ==== Sys2Proof/Laws/Memory.lean ====
section
/-! SUPPORT. Memory: every operation keeps the canonical form, a read after a write to the same byte finds what was
written, and a write leaves every other byte. -/

namespace Sys2Proof.Machine

/-! ### The canonical form -/

theorem memOkFrom_mono {lo hi : Nat} (h : lo ≤ hi) : ∀ {m : List Host.Cell}, memOkFrom hi m = true → memOkFrom lo m = true
  | [], _ => rfl
  | (a, b) :: m, hm => by
    simp only [memOkFrom, Bool.and_eq_true, decide_eq_true_eq] at hm ⊢
    exact ⟨⟨Nat.le_trans h hm.1.1, hm.1.2⟩, hm.2⟩

theorem writeCell_ok {lo i : Nat} (x : Byte) (hi : lo ≤ i) :
    ∀ {m : List Host.Cell}, memOkFrom lo m = true → memOkFrom lo (writeCell m i x) = true
  | [], _ => by
    simp only [writeCell]
    split
    · rfl
    · simp_all [memOkFrom]
  | (a, b) :: m, hm => by
    simp only [memOkFrom, Bool.and_eq_true, decide_eq_true_eq] at hm
    simp only [writeCell]
    split
    · split
      · simp_all [memOkFrom]
      · rename_i h _
        simp_all [memOkFrom] <;> omega
    · split
      · rename_i _ h
        subst h
        split
        · exact memOkFrom_mono (by omega) hm.2
        · simp_all [memOkFrom]
      · rename_i h1 h2
        simp only [memOkFrom, Bool.and_eq_true, decide_eq_true_eq]
        exact ⟨hm.1, writeCell_ok x (by omega) hm.2⟩

theorem filter_ok (p : Host.Cell → Bool) :
    ∀ {lo : Nat} {m : List Host.Cell}, memOkFrom lo m = true → memOkFrom lo (m.filter p) = true
  | _, [], _ => rfl
  | lo, (a, b) :: m, hm => by
    simp only [memOkFrom, Bool.and_eq_true, decide_eq_true_eq] at hm
    simp only [List.filter]
    split
    · simp only [memOkFrom, Bool.and_eq_true, decide_eq_true_eq]
      exact ⟨hm.1, filter_ok p hm.2⟩
    · exact filter_ok p (memOkFrom_mono (by omega) hm.2)

theorem writeCells_wf (bs : List Byte) :
    ∀ {m : List Host.Cell} (a : Nat), Memory.wf m = true → Memory.wf (writeCells m a bs) = true := by
  induction bs with
  | nil => exact fun _ h => h
  | cons b bs ih => exact fun a h => ih (a + 1) (writeCell_ok b (Nat.zero_le _) h)

theorem clearCells_wf (a n : Nat) {m : List Host.Cell} (h : Memory.wf m = true) : Memory.wf (clearCells m a n) = true :=
  filter_ok _ h

/-- Reset memory is canonical. -/
theorem State.reset_mem_wf : Memory.wf State.reset.mem = true := rfl

theorem State.writeBytes_wf (s : State) (a : Nat) (bs : List Byte) (h : Memory.wf s.mem = true) :
    Memory.wf (s.writeBytes a bs).mem = true := writeCells_wf bs a h

theorem State.clearBytes_wf (s : State) (a n : Nat) (h : Memory.wf s.mem = true) :
    Memory.wf (s.clearBytes a n).mem = true := clearCells_wf a n h

theorem State.writeMasked_wf (s : State) (a : Nat) (mask : BitVec 8) (w : Word) (h : Memory.wf s.mem = true) :
    Memory.wf (s.writeMasked a mask w).mem = true := by
  unfold State.writeMasked
  split
  · exact writeCells_wf _ _ h
  · generalize List.range 8 = l
    induction l generalizing s with
    | nil => exact h
    | cons p l ih =>
      refine ih _ ?_
      show Memory.wf (if mask.getLsbD p = true then _ else s).mem = true
      split
      · exact writeCells_wf _ _ h
      · exact h

theorem State.perform_wf (s : State) (f : BitVec 256) (a : Nat) (r : Req) (h : Memory.wf s.mem = true) :
    Memory.wf (s.perform f a r).2.mem = true := by
  cases r with
  | load n => exact h
  | store n w => exact writeCells_wf _ _ h
  | atomic op n uns v x =>
    simp only [State.perform]
    split
    · exact writeCells_wf _ _ h
    · exact h
  | upd n v => exact writeCells_wf _ _ h
  | masked mask w => exact s.writeMasked_wf a mask w h

/-! ### Read after write -/

theorem readCell_below {lo i : Nat} (hi : i < lo) :
    ∀ {m : List Host.Cell}, memOkFrom lo m = true → readCell m i = unlisted
  | [], _ => rfl
  | (a, b) :: m, hm => by
    simp only [memOkFrom, Bool.and_eq_true, decide_eq_true_eq] at hm
    have h1 : a ≠ i := by omega
    have h2 : i < a := by omega
    simp [readCell, h1, h2]

theorem readCell_writeCell_from {lo i : Nat} (x : Byte) :
    ∀ {m : List Host.Cell}, memOkFrom lo m = true → readCell (writeCell m i x) i = x
  | [], _ => by
    simp only [writeCell]
    split
    · simp_all [readCell]
    · simp [readCell]
  | (a, b) :: m, hm => by
    simp only [memOkFrom, Bool.and_eq_true, decide_eq_true_eq] at hm
    simp only [writeCell]
    split
    · rename_i h
      split
      · have h1 : a ≠ i := by omega
        simp_all [readCell]
      · simp [readCell]
    · split
      · rename_i _ h
        subst h
        split
        · rename_i hx
          rw [hx]
          exact readCell_below (Nat.lt_succ_self _) hm.2
        · simp [readCell]
      · rename_i h1 h2
        have h3 : ¬ i < a := h1
        simp only [readCell, h2, h3, if_false]
        exact readCell_writeCell_from x hm.2

theorem readCell_writeCell_self {m : List Host.Cell} (h : Memory.wf m = true) (i : Nat) (x : Byte) :
    readCell (writeCell m i x) i = x := readCell_writeCell_from x h

theorem readCell_writeCell_ne_from {lo i j : Nat} (x : Byte) (hj : j ≠ i) :
    ∀ {m : List Host.Cell}, memOkFrom lo m = true → readCell (writeCell m i x) j = readCell m j
  | [], _ => by
    simp only [writeCell]
    split
    · rfl
    · simp only [readCell]
      rw [if_neg (Ne.symm hj)]
      split <;> rfl
  | (a, b) :: m, hm => by
    simp only [memOkFrom, Bool.and_eq_true, decide_eq_true_eq] at hm
    simp only [writeCell]
    split
    · rename_i h
      split
      · rfl
      · simp only [readCell, if_neg (Ne.symm hj)]
        by_cases h1 : j < i
        · have h2 : a ≠ j := by omega
          have h3 : j < a := by omega
          simp [h1, h2, h3]
        · simp [h1]
    · split
      · rename_i _ h
        subst h
        split
        · simp only [readCell, if_neg (Ne.symm hj)]
          split
          · exact readCell_below (by omega) hm.2
          · rfl
        · simp only [readCell, if_neg (Ne.symm hj)]
      · simp only [readCell]
        split
        · rfl
        · split
          · rfl
          · exact readCell_writeCell_ne_from x hj hm.2

theorem readCell_writeCell_ne {m : List Host.Cell} (h : Memory.wf m = true) {i j : Nat} (x : Byte) (hj : j ≠ i) :
    readCell (writeCell m i x) j = readCell m j := readCell_writeCell_ne_from x hj h

/-- A byte outside the bytes written reads as before. -/
theorem readCell_writeCells_out (bs : List Byte) :
    ∀ {m : List Host.Cell}, Memory.wf m = true → ∀ (a : Nat) {j : Nat}, j < a ∨ a + bs.length ≤ j →
      readCell (writeCells m a bs) j = readCell m j := by
  induction bs with
  | nil => intros; rfl
  | cons b bs ih =>
    intro m h a j hj
    simp only [List.length_cons] at hj
    rw [writeCells, ih (writeCell_ok b (Nat.zero_le _) h) (a + 1) (by omega),
      readCell_writeCell_ne h b (by omega)]

/-- A byte among the bytes written reads as written. -/
theorem readCell_writeCells_in (bs : List Byte) :
    ∀ {m : List Host.Cell}, Memory.wf m = true → ∀ (a i : Nat) (hi : i < bs.length),
      readCell (writeCells m a bs) (a + i) = bs[i] := by
  induction bs with
  | nil => intro m _ a i hi; exact absurd hi (Nat.not_lt_zero _)
  | cons b bs ih =>
    intro m h a i hi
    rw [writeCells]
    cases i with
    | zero =>
      rw [readCell_writeCells_out bs (writeCell_ok b (Nat.zero_le _) h) (a + 1) (by omega)]
      exact readCell_writeCell_self h a b
    | succ i =>
      have := ih (m := writeCell m a b) (writeCell_ok b (Nat.zero_le _) h) (a + 1) i (by simpa using hi)
      rw [show a + (i + 1) = a + 1 + i by omega]
      simpa using this

/-- The bytes written, read back. -/
theorem readCells_writeCells (bs : List Byte) :
    ∀ {m : List Host.Cell}, Memory.wf m = true → ∀ (a : Nat), readCells (writeCells m a bs) a bs.length = bs := by
  induction bs with
  | nil => intros; rfl
  | cons b bs ih =>
    intro m h a
    rw [writeCells, List.length_cons, readCells, ih (writeCell_ok b (Nat.zero_le _) h) (a + 1),
      readCell_writeCells_out bs (writeCell_ok b (Nat.zero_le _) h) (a + 1) (by omega), readCell_writeCell_self h a b]

theorem leBytes_length (n : Nat) : ∀ v : Nat, (leBytes n v).length = n := by
  induction n with
  | zero => intro; rfl
  | succ n ih => intro v; simp [leBytes, ih]

theorem leNat_leBytes (n : Nat) : ∀ v : Nat, leNat (leBytes n v) = v % 256 ^ n := by
  induction n with
  | zero => intro v; simp [leBytes, leNat, Nat.mod_one]
  | succ n ih =>
    intro v
    rw [leBytes, leNat, ih, BitVec.toNat_ofNat, show 256 ^ (n + 1) = 256 * 256 ^ n by rw [Nat.pow_succ, Nat.mul_comm],
      Nat.mod_mul]

/-- A word read where `n` bytes of it were written. -/
theorem State.readN_writeN (s : State) (h : Memory.wf s.mem = true) (a n : Nat) (w : Word) :
    (s.writeN a n w).readN a n = word (w.toNat % 256 ^ n) := by
  have h1 := readCells_writeCells (leBytes n w.toNat) h a
  rw [leBytes_length] at h1
  simp only [State.readN, State.writeN, State.writeBytes, h1, leNat_leBytes]

end Sys2Proof.Machine
end

