-- ==== Sys2Proof/Laws/Operands.lean ====
section
/-! SUPPORT. What operands do: the issue conditions on register fields that name no port, reads and writes of such fields,
and the three ways an instruction of a slot ends. -/

namespace Sys2Proof.Machine

@[simp] theorem State.finish_ok (s t : State) : s.finish (.ok t) = .next t.retire := rfl
theorem State.giveBack_none {s : State} (h : s.me.lent = []) : s.giveBack = s := by
  simp [State.giveBack, h]
/-- A trap is taken from the state before the instruction, its elements given back if it had popped some. -/
theorem State.finish_trap_lent (s : State) (x : Trap) :
    s.finish (.error (.trap x)) = .next (s.giveBack.takeTrap s.cur.core s.cur.slot.val false x) := rfl
@[simp] theorem State.finish_trap {s : State} (h : s.me.lent = []) (x : Trap) :
    s.finish (.error (.trap x)) = .next (s.takeTrap s.cur.core s.cur.slot.val false x) := by
  rw [s.finish_trap_lent, State.giveBack_none h]
@[simp] theorem State.finish_hold (s : State) :
    s.finish (.error .hold) = .next (s.modMe (fun t => { t with held := true })) := rfl
theorem State.finish_sent (s t : State) :
    s.finish (.error (.sent t)) =
      .next ((t.modMe (fun u =>
        { u with
          held := true
          taken := some (u.taken.getD s.myCore.ports)
          lent := u.lent ++ t.myCore.pops.drop s.myCore.pops.length })).modMyCore (fun x =>
        { x with pops := s.myCore.pops })) := rfl
@[simp] theorem State.event_some (s t : State) : s.event (some t) = .next t := rfl
@[simp] theorem State.event_none (s : State) : s.event none = .next s := rfl

theorem isPort_plain {r : GReg} (h : r.val < 24) : isPort r = false := by simp [isPort, h]

theorem popsOf_plain (p : Nat) {l : List GReg} (h : ∀ r ∈ l, r.val < 24) : popsOf p l = 0 := by
  simp only [popsOf, List.length_eq_zero_iff, List.filter_eq_nil_iff]
  intro r hr
  simp [isPort_plain (h r hr)]

/-- Register fields that name no port never hold the slot or trap. -/
theorem State.ports_plain (s : State) {srcs dsts : List GReg} (h1 : ∀ r ∈ srcs, r.val < 24)
    (h2 : ∀ r ∈ dsts, r.val < 24) : s.ports srcs dsts = .ok () := by
  have e1 : srcs.any (fun r => !srcOk r) = false := by
    rw [List.any_eq_false]
    intro r hr
    simp [srcOk, isPort_plain (h1 r hr)]
  have e2 : dsts.any (fun r => !dstOk r) = false := by
    rw [List.any_eq_false]
    intro r hr
    simp [dstOk, isPort_plain (h2 r hr)]
  have e3 : dsts.any (fun r => !s.roomFor r) = false := by
    rw [List.any_eq_false]
    intro r hr
    simp [State.roomFor, isPort_plain (h2 r hr)]
  have e4 : ∀ p, popsOf p srcs = 0 := fun p => popsOf_plain p h1
  simp [State.ports, e1, e2, e3, e4]

theorem State.readG_plain (s : State) {r : GReg} (h : r.val < 24) :
    s.readG r = (if r.val = 0 then 0 else vget s.me.g r.val 0, s) := by
  simp [State.readG, State.peekG, State.takeG, isPort_plain h]

theorem State.peekG_plain (s : State) {r : GReg} (h : r.val < 24) :
    s.peekG r = if r.val = 0 then 0 else vget s.me.g r.val 0 := by
  simp [State.peekG, isPort_plain h]

theorem State.writeG_plain (s : State) {r : GReg} (h : r.val < 24) (v : Word) :
    s.writeG r v =
      .ok (if r.val = 0 then s else s.modMe (fun t => { t with g := vset t.g r.val v })) := by
  simp only [State.writeG, isPort_plain h]
  split <;> rfl

/-- A write to q5 or another write port but q1 appends one element. -/
theorem State.writeG_port (s : State) {r : GReg} (h : 24 ≤ r.val) (h1 : r.val ≠ 25) (v : Word) :
    s.writeG r v = .ok (s.modMyCore (fun x => x.setPort (portOf r) (x.port (portOf r) ++ [v]))) := by
  have e0 : r.val ≠ 0 := by omega
  have e1 : isPort r = true := by simp [isPort, h]
  have e2 : portOf r ≠ 1 := by simp [portOf]; omega
  simp only [State.writeG, e0, e1, e2, if_true, if_false]

/-! ### What reading fields may change -/

/-- From `s` to `t` only the ports of the step's core and the slot's copy of them differ. -/
def PortsOnly (s t : State) : Prop :=
  t = { s with cores := t.cores } ∧
  (∀ d, d ≠ s.cur.core → t.coreOf d = s.coreOf d) ∧
  t.myCore = { s.myCore with
    slots := t.myCore.slots, ports := t.myCore.ports, notes := t.myCore.notes, backlog := t.myCore.backlog,
    pops := t.myCore.pops, copyBuf := t.myCore.copyBuf, lexBuf := t.myCore.lexBuf } ∧
  (∀ k : Fin 4, k ≠ s.cur.slot → t.slotOf s.cur.core k.val = s.slotOf s.cur.core k.val) ∧
  t.me = { s.me with taken := t.me.taken }

theorem PortsOnly.refl (s : State) : PortsOnly s s := ⟨rfl, fun _ _ => rfl, rfl, fun _ _ => rfl, rfl⟩

theorem PortsOnly.cur {s t : State} (h : PortsOnly s t) : t.cur = s.cur := by rw [h.1]

theorem PortsOnly.trans {s t u : State} (h : PortsOnly s t) (g : PortsOnly t u) : PortsOnly s u := by
  obtain ⟨h1, h2, h3, h4, h5⟩ := h
  obtain ⟨g1, g2, g3, g4, g5⟩ := g
  have hc : t.cur = s.cur := by rw [h1]
  refine ⟨?_, ?_, ?_, ?_, ?_⟩
  · rw [g1, h1]
  · intro d hd
    rw [g2 d (by rwa [hc]), h2 d hd]
  · rw [g3, h3]
  · intro k hk
    have := g4 k (by rwa [hc])
    rw [hc] at this
    rw [this, h4 k hk]
  · rw [g5, h5]

/-- A change of the ports of the step's core. -/
theorem PortsOnly.core (s : State) (x : CoreState)
    (h : x = { s.myCore with
      ports := x.ports, notes := x.notes, backlog := x.backlog, pops := x.pops, copyBuf := x.copyBuf
      lexBuf := x.lexBuf }) : PortsOnly s (s.setCore s.cur.core x) := by
  have hs : x.slots = s.myCore.slots := by rw [h]
  refine ⟨rfl, fun d hd => State.coreOf_setCore_ne _ _ hd, ?_, ?_, ?_⟩
  · rw [State.myCore_setCore, hs]
    exact h
  · intro k _
    rw [State.slotOf_setCore]
    simp only [CoreState.slotOf, State.slotOf, hs]
    rfl
  · rw [State.me_setCore]
    simp only [CoreState.slotOf, hs]
    rfl

theorem CoreState.popped_ports (x : CoreState) (p : Nat) :
    x.popped p = { x with
      ports := (x.popped p).ports, notes := (x.popped p).notes, backlog := (x.popped p).backlog
      pops := (x.popped p).pops, copyBuf := (x.popped p).copyBuf, lexBuf := (x.popped p).lexBuf } := by
  simp only [CoreState.popped, CoreState.fillQ7, CoreState.setPort]
  split
  · split <;> rfl
  · split
    · split <;> rfl
    · split <;> rfl

/-- A change of the slot's copy of the ports. -/
theorem PortsOnly.slot (s : State) (v : Option (Vector (List Word) 8)) :
    PortsOnly s (s.modMe (fun t => { t with taken := v })) := by
  refine ⟨rfl, fun d hd => State.coreOf_setCore_ne _ _ hd, ?_, ?_, ?_⟩
  · rw [State.modMe_eq, State.myCore_setCore]
    rfl
  · intro k hk
    rw [State.modMe_eq, State.slotOf_setCore]
    exact CoreState.slotOf_setSlot_ne _ _ (fun e => hk (Fin.ext e))
  · rw [State.modMe_eq, State.me_setCore, CoreState.slotOf_setSlot]

theorem State.takeG_ports (s : State) (r : GReg) : PortsOnly s (s.takeG r) := by
  unfold State.takeG
  split
  · split
    · exact PortsOnly.slot _ _
    · exact PortsOnly.core _ _ (CoreState.popped_ports _ _)
  · exact PortsOnly.refl s

/-- Reading a field changes the ports only. -/
theorem State.readG_ports (s : State) (r : GReg) : PortsOnly s (s.readG r).2 := s.takeG_ports r

end Sys2Proof.Machine
end

