-- ==== Sys2Proof/Laws/Access.lean ====
section
/-! SUPPORT. What a slot's accesses to its own SRAM do: when they are allowed, and that the canonical form of memory
survives them. -/

namespace Sys2Proof.Machine

/-- Words that can all be corrected raise no machine check. -/
theorem State.checkEcc_ok (s : State) {a n : Nat} (h : s.poisonedIn a n = false) : s.checkEcc a n = .ok () := by
  unfold State.checkEcc
  have e : (wordsOf a n).find? (fun w => s.poisoned.contains w) = none := by
    rw [List.find?_eq_none]
    simpa only [State.poisonedIn, List.any_eq_false] using h
  rw [e]

/-- A slot with nothing in its buffer sees memory's marks. -/
theorem State.checkSeen_ok (s : State) {a n : Nat} (hb : s.me.buffer = []) (h : s.poisonedIn a n = false) :
    s.checkSeen a n = .ok () := by
  simp [State.checkSeen, hb, s.checkEcc_ok h]

/-- An access to the self window that a region grants, that waits for no write and that reads no poisoned word answers
the physical address. -/
theorem State.selfAccess_ok (s : State) {e n : Nat} {reads writes : Bool} (detail : Nat)
    (h1 : (s.isFw s.cur.core || s.myCore.grants (localNeeds reads writes) e n) = true)
    (h2 : s.selfHeld (sram s.cur.core e) n reads writes = false)
    (hb : s.me.buffer = []) (h3 : reads = true → s.poisonedIn (sram s.cur.core e) n = false) :
    s.selfAccess e n reads writes detail = .ok (sram s.cur.core e) := by
  unfold State.selfAccess
  simp only [h1, h2]
  cases reads with
  | false => simp only [Bool.not_true, if_false, Bool.false_eq_true]
  | true =>
    simp only [Bool.not_true, if_false, if_true, Bool.false_eq_true, s.checkSeen_ok hb (h3 rfl)]
    show Except.bind _ _ = _
    simp only [Except.bind]

/-- What an access to the self window answers, if it completes, is its place in the core's SRAM. -/
theorem State.selfAccess_place {s : State} {e n : Nat} {reads writes : Bool} {detail a : Nat}
    (h : s.selfAccess e n reads writes detail = .ok a) : a = sram s.cur.core e := by
  unfold State.selfAccess at h
  simp only at h
  split at h
  · cases h
  · split at h
    · cases h
    · split at h
      · change Except.bind _ _ = _ at h
        cases hc : s.checkSeen (sram s.cur.core e) n with
        | error x => rw [hc] at h; cases h
        | ok _ => rw [hc] at h; exact (Except.ok.inj h).symm
      · exact (Except.ok.inj h).symm

/-- A slot with nothing of its own between it and memory loads memory's bytes. -/
theorem State.slotWord_plain {s : State} {a n : Nat} (h : s.plainRead a n = true) : s.slotWord a n = (s.readN a n, s) := by
  simp [State.slotWord, h]

/-- A store that goes to no buffer, of a slot that has read nothing ahead and has no vector work before it, is performed at
once, and noted as the write of its slot. -/
theorem State.slotStore_plain {s : State} (a : Nat) (bs : List Byte) (sc : Option Scope) (h : s.defers = false)
    (ht : s.me.seqTouches = false) (he : s.me.early = []) :
    s.slotStore a bs sc =
      (s.performStore a bs).noteWrite s.cur.core s.cur.slot.val s.fresh a bs.length sc := by
  simp [State.slotStore, State.slotPut, h, ht, State.forgetEarly, he]

/-- What is noted of a write is about other slots' reads alone. -/
theorem State.addNarrow_rest (s : State) (c k : Nat) (sc : Scope) (a n m : Nat) :
    ∃ l, s.addNarrow c k sc a n m = { s with narrow := l } := by
  unfold State.addNarrow
  split
  · exact ⟨_, rfl⟩
  · exact ⟨s.narrow, rfl⟩

theorem State.noteWriter_rest (s : State) (c a n : Nat) (chain : Bool) :
    ∃ r, s.noteWriter c a n chain = { s with recent := r } := by
  unfold State.noteWriter
  split
  · exact ⟨_, rfl⟩
  · split
    · exact ⟨s.recent, rfl⟩
    · exact ⟨[], rfl⟩

/-- A write noted changes the notes of narrow releases and of writers, nothing else. -/
theorem State.noteWrite_rest (s : State) (c k m a n : Nat) (sc : Option Scope) (chain : Bool) :
    ∃ l r, s.noteWrite c k m a n sc chain = { s with narrow := l, recent := r } := by
  have fold : ∀ (fs : List (Scope × Nat)) (t : State), (∃ l, t = { s with narrow := l }) →
      ∃ l, fs.foldl (fun t f => if f.2 ≤ m then t.addNarrow c k f.1 a n f.2 else t) t = { s with narrow := l } := by
    intro fs
    induction fs with
    | nil => intro t h; exact h
    | cons f fs ih =>
      rintro t ⟨l, rfl⟩
      refine ih _ ?_
      show ∃ l', (if f.2 ≤ m then _ else _) = _
      split
      · obtain ⟨l', h⟩ := State.addNarrow_rest { s with narrow := l } c k f.1 a n f.2
        exact ⟨l', h⟩
      · exact ⟨l, rfl⟩
  have first : ∃ l, (sc.map (fun z => s.addNarrow c k z a n m)).getD s = { s with narrow := l } := by
    cases sc with
    | none => exact ⟨s.narrow, rfl⟩
    | some z => exact s.addNarrow_rest c k z a n m
  unfold State.noteWrite
  simp only
  obtain ⟨l, h⟩ := fold (((sc.map (fun z => s.addNarrow c k z a n m)).getD s).slotOf c k).fences _ first
  obtain ⟨r, h'⟩ := State.noteWriter_rest { s with narrow := l } c a n chain
  exact ⟨l, r, by rw [h]; exact h'⟩

theorem State.noteWrite_mem (s : State) (c k m a n : Nat) (sc : Option Scope) (chain : Bool) :
    (s.noteWrite c k m a n sc chain).mem = s.mem := by
  obtain ⟨l, r, h⟩ := s.noteWrite_rest c k m a n sc chain
  rw [h]

/-- A store performed in the core's own SRAM. -/
theorem State.performStore_self (s : State) {a : Nat} (bs : List Byte) (h : a / 2 ^ 20 = s.cur.core) :
    s.performStore a bs = s.selfWrite s.cur.core a bs := by
  unfold State.performStore
  rw [if_pos h]

/-- A write of the core's own SRAM changes memory as `writeBytes` does. -/
theorem State.selfWrite_mem (s : State) (c a : Nat) (bs : List Byte) :
    (s.selfWrite c a bs).mem = Machine.writeCells s.mem a bs := by
  unfold State.selfWrite
  split
  · split <;> rfl
  · rfl

/-- A write of the core's own SRAM changes memory, its marks and, in a deterministic launch, the launch's notes. -/
theorem State.selfWrite_rest (s : State) (c a : Nat) (bs : List Byte) :
    s.selfWrite c a bs =
      { s with
        mem := (s.selfWrite c a bs).mem, poisoned := (s.selfWrite c a bs).poisoned
        launches := (s.selfWrite c a bs).launches } := by
  unfold State.selfWrite
  split
  · split <;> rfl
  · rfl

/-- Whatever a store performs on, it writes its bytes. -/
theorem State.performStore_mem (s : State) (a : Nat) (bs : List Byte) :
    (s.performStore a bs).mem = Machine.writeCells s.mem a bs := by
  unfold State.performStore
  split
  · exact s.selfWrite_mem _ _ _
  · rfl

theorem State.performStore_wf (s : State) (a : Nat) (bs : List Byte) (h : Memory.wf s.mem = true) :
    Memory.wf (s.performStore a bs).mem = true := by
  rw [State.performStore_mem]
  exact writeCells_wf bs a h

theorem State.performCells_wf (s : State) (m : Nat) (sc : Option Scope) (cs : List Host.Cell)
    (h : Memory.wf s.mem = true) : Memory.wf (s.performCells m sc cs).mem = true := by
  unfold State.performCells
  generalize s.cur.core = c
  generalize s.cur.slot.val = k
  induction wordRuns cs generalizing s with
  | nil => exact h
  | cons p l ih =>
    refine ih _ ?_
    rw [State.noteWrite_mem]
    exact s.performStore_wf p.1 p.2 h

theorem State.selfWrite_wf (s : State) (c a : Nat) (bs : List Byte) (h : Memory.wf s.mem = true) :
    Memory.wf (s.selfWrite c a bs).mem = true := by
  rw [State.selfWrite_mem]
  exact writeCells_wf bs a h

end Sys2Proof.Machine
end

