-- ==== Sys2Proof/Laws/Encode.lean ====
section
/-! SUPPORT. Chains that 03 R50 allows, that the decoder reads back a chain it is given, and that the encoder's immediates
fit their prefixes. -/

namespace Sys2Proof

/-- A chain that 03 R50 allows: an assigned page, payloads of eight bits, at most four prefixes, and a base word that is no
prefix word. -/
def Chain.Legal (c : Chain) : Prop :=
  (∀ p, c.page = some p → p ≤ 5) ∧ (∀ p, c.qual = some p → p < 256) ∧ (∀ p, c.opb = some p → p < 256) ∧
  (∀ p ∈ c.imms, p < 256) ∧ present c.page + present c.qual + present c.opb + c.imms.length ≤ 4 ∧ c.base < 64512

/-! ### Words -/

theorem prefixOf_toNat {kind p : Nat} (hk : kind < 4) (hp : p < 256) :
    (prefixOf kind p).toNat = (252 + kind) * 256 + p := by
  simp only [prefixOf, BitVec.toNat_ofNat]
  omega

theorem payloadOf_prefixOf {kind p : Nat} (hk : kind < 4) (hp : p < 256) : payloadOf kind (prefixOf kind p) = some p := by
  have h := prefixOf_toNat hk hp
  simp only [payloadOf, h]
  rw [if_pos (by omega)]
  congr 1
  omega

theorem payloadOf_prefixOf_ne {kind k p : Nat} (hk : kind < 4) (hp : p < 256) (h : k ≠ kind) :
    payloadOf k (prefixOf kind p) = none := by
  have h' := prefixOf_toNat hk hp
  simp only [payloadOf, h']
  rw [if_neg (by omega)]

theorem payloadOf_small {k : Nat} {w : Half} (h : w.toNat < 64512) : payloadOf k w = none := by
  simp only [payloadOf]
  rw [if_neg (by omega)]

/-- Where an optional prefix of a kind stands, the decoder takes it; else the next word is of another kind. -/
theorem takeKind_toList {kind : Nat} (hk : kind < 4) (o : Option Nat) (ho : ∀ p, o = some p → p < 256) (ws : List Half)
    (hws : ∀ w, ws.head? = some w → payloadOf kind w = none) :
    takeKind kind ((o.map (prefixOf kind)).toList ++ ws) = (o, ws) := by
  cases o with
  | some p => simp [takeKind, payloadOf_prefixOf hk (ho p rfl)]
  | none =>
    cases ws with
    | nil => simp [takeKind]
    | cons w ws => simp [takeKind, hws w rfl]

theorem takeImms_map (imms : List Nat) (hi : ∀ p ∈ imms, p < 256) (w : Half) (hw : w.toNat < 64512) (ws : List Half) :
    ∀ fuel, imms.length ≤ fuel → takeImms fuel (imms.map (prefixOf 0) ++ w :: ws) = (imms, w :: ws) := by
  induction imms with
  | nil =>
    intro fuel _
    cases fuel with
    | zero => simp [takeImms]
    | succ n => simp [takeImms, payloadOf_small hw]
  | cons p imms ih =>
    intro fuel hf
    cases fuel with
    | zero => simp at hf
    | succ n =>
      have h := ih (fun q hq => hi q (List.mem_cons_of_mem _ hq)) n (by simpa using hf)
      simp [takeImms, payloadOf_prefixOf (show 0 < 4 by omega) (hi p (by simp)), h]

/-- The decoder reads back the chain whose words it is given, whatever follows. -/
theorem parseChain_words (c : Chain) (hc : c.Legal) (rest : List Half) : parseChain (c.words ++ rest) = .ok c := by
  obtain ⟨page, qual, opb, imms, base⟩ := c
  obtain ⟨h1, h2, h3, h4, h5, h6⟩ := hc
  simp only at h1 h2 h3 h4 h5 h6
  have hb : (BitVec.ofNat 16 base).toNat = base := by simp only [BitVec.toNat_ofNat]; omega
  have hbase : (BitVec.ofNat 16 base).toNat < 64512 := by omega
  have himm : ∀ k, k ≠ 0 → ∀ w, (imms.map (prefixOf 0) ++ BitVec.ofNat 16 base :: rest).head? = some w →
      payloadOf k w = none := by
    intro k hk w hw
    cases imms with
    | nil => simp only [List.map_nil, List.nil_append, List.head?_cons, Option.some.injEq] at hw; subst hw
             exact payloadOf_small hbase
    | cons p ps =>
      simp only [List.map_cons, List.cons_append, List.head?_cons, Option.some.injEq] at hw
      subst hw
      exact payloadOf_prefixOf_ne (by omega) (h4 p (by simp)) hk
  have hopb : ∀ k, k ≠ 0 → k ≠ 1 → ∀ w,
      ((opb.map (prefixOf 1)).toList ++ (imms.map (prefixOf 0) ++ BitVec.ofNat 16 base :: rest)).head? = some w →
      payloadOf k w = none := by
    intro k hk hk1 w hw
    cases opb with
    | none => exact himm k hk w (by simpa using hw)
    | some p =>
      simp only [Option.map_some, Option.toList_some, List.cons_append, List.head?_cons, Option.some.injEq] at hw
      subst hw
      exact payloadOf_prefixOf_ne (by omega) (h3 p rfl) hk1
  have hqual : ∀ k, k ≠ 0 → k ≠ 1 → k ≠ 3 → ∀ w,
      ((qual.map (prefixOf 3)).toList ++ ((opb.map (prefixOf 1)).toList ++
        (imms.map (prefixOf 0) ++ BitVec.ofNat 16 base :: rest))).head? = some w → payloadOf k w = none := by
    intro k hk hk1 hk3 w hw
    cases qual with
    | none => exact hopb k hk hk1 w (by simpa using hw)
    | some p =>
      simp only [Option.map_some, Option.toList_some, List.cons_append, List.head?_cons, Option.some.injEq] at hw
      subst hw
      exact payloadOf_prefixOf_ne (by omega) (h2 p rfl) hk3
  have hw : (Chain.mk page qual opb imms base).words ++ rest =
      (page.map (prefixOf 2)).toList ++ ((qual.map (prefixOf 3)).toList ++ ((opb.map (prefixOf 1)).toList ++
        (imms.map (prefixOf 0) ++ BitVec.ofNat 16 base :: rest))) := by
    simp [Chain.words]
  rw [hw]
  have e1 := takeKind_toList (show 2 < 4 by omega) page (fun p hp => by have := h1 p hp; omega) _
    (hqual 2 (by omega) (by omega) (by omega))
  have e2 := takeKind_toList (show 3 < 4 by omega) qual h2 _ (hopb 3 (by omega) (by omega))
  have e3 := takeKind_toList (show 1 < 4 by omega) opb h3 _ (himm 1 (by omega))
  have e4 := takeImms_map imms h4 _ hbase rest (4 - (present page + present qual + present opb)) (by omega)
  have hpage : (page.any fun p => decide (5 < p)) = false := by
    cases page with
    | none => rfl
    | some p => simpa using h1 p rfl
  unfold parseChain
  simp only [e1, e2, e3, e4, hpage, hb]
  rw [if_neg (by simp), if_neg (by omega)]

/-! ### Immediates -/

theorem immBytes_length : ∀ n v, (immBytes n v).length = n
  | 0, _ => rfl
  | n + 1, v => by simp [immBytes, immBytes_length n]

theorem immBytes_lt : ∀ n v, ∀ p ∈ immBytes n v, p < 256
  | 0, _ => by simp [immBytes]
  | n + 1, v => by
    intro p hp
    simp only [immBytes, List.mem_append, List.mem_singleton] at hp
    rcases hp with hp | hp
    · exact immBytes_lt n _ p hp
    · omega

theorem fitsSigned_mono {b b' : Nat} (hb : 1 ≤ b) (h : b ≤ b') {v : Int} (hv : fitsSigned b v = true) :
    fitsSigned b' v = true := by
  simp only [fitsSigned, Bool.and_eq_true, decide_eq_true_eq, bne_iff_ne] at hv ⊢
  have : (2 : Int) ^ (b - 1) ≤ 2 ^ (b' - 1) := by
    exact_mod_cast Nat.pow_le_pow_right (by omega) (show b - 1 ≤ b' - 1 by omega)
  omega

theorem immFits_mono {w n n' : Nat} (h : n ≤ n') {v : Int} (hv : immFits w n v = true) : immFits w n' v = true := by
  simp only [immFits, Bool.or_eq_true, beq_iff_eq] at hv ⊢
  rcases hv with hv | hv
  · exact .inl hv
  · by_cases hz : w + 8 * n = 0
    · simp [fitsSigned, hz] at hv
    · exact .inr (fitsSigned_mono (by omega) (by omega) hv)

/-- The encoder uses no more IMM prefixes than the value needs. -/
theorem immLen_le {w n : Nat} (hn : n ≤ 4) {v : Int} (h : immFits w n v = true) : immLen w v ≤ n := by
  unfold immLen
  have h4 : ∀ k, n ≤ k → immFits w k v = true := fun k hk => immFits_mono hk h
  split
  · omega
  · split
    · rename_i h0 _
      rcases Nat.eq_zero_or_pos n with hz | hz
      · exact absurd (h4 0 (by omega)) h0
      · omega
    · split
      · rename_i h0 h1 _
        by_cases hz : n ≤ 1
        · exact absurd (h4 1 hz) h1
        · omega
      · split
        · rename_i h0 h1 h2 _
          by_cases hz : n ≤ 2
          · exact absurd (h4 2 hz) h2
          · omega
        · rename_i h0 h1 h2 h3
          by_cases hz : n ≤ 3
          · exact absurd (h4 3 hz) h3
          · omega

theorem immPayloads_length (w : Nat) (v : Int) : (immPayloads w v).length = immLen w v := immBytes_length _ _

theorem immPayloads_lt (w : Nat) (v : Int) : ∀ p ∈ immPayloads w v, p < 256 := immBytes_lt _ _

theorem baseWord_lt {op : Nat} (h : op ≤ 62) (a b : Nat) : baseWord op a b < 64512 := by
  simp only [baseWord]
  omega

/-! ### Codes -/

theorem ScalarType.code_lt (y : ScalarType) : y.code < 8 := by cases y <;> decide
theorem LaneType.code_lt (t : LaneType) : t.code < 8 := by cases t <;> decide
theorem Scope.code_lt (x : Scope) : x.code < 4 := by cases x <;> decide
theorem Order.code_lt (x : Order) : x.code < 4 := by cases x <;> decide

theorem qualPayload_lt (sc : Scope) (o : Order) {y : Nat} (h : y < 16) : qualPayload sc o y < 256 := by
  have := sc.code_lt
  have := o.code_lt
  simp only [qualPayload]
  omega

theorem qualOf_lt {q : Nat} (h : q < 256) : ∀ p, qualOf q = some p → p < 256 := by
  intro p hp
  simp only [qualOf] at hp
  split at hp
  · cases hp
  · cases hp; exact h

theorem present_qualOf (q : Nat) : present (qualOf q) = qualLen (q != 0) := by
  simp only [qualOf, present, qualLen]
  split <;> simp_all

theorem present_le (o : Option Nat) : present o ≤ 1 := by
  simp only [present]
  split <;> omega

theorem maskOf_lt (x : KReg) : ∀ p, maskOf x = some p → p < 256 := by
  intro p hp
  simp only [maskOf] at hp
  split at hp
  · cases hp
  · cases hp; have := x.isLt; omega

theorem opbOf_lt {c x : Nat} (hc : c < 32) (hx : x < 8) : opbOf c x < 256 := by
  simp only [opbOf]
  omega

end Sys2Proof
end

