-- ==== Sys2Proof/Laws/PerInstr.lean ====
section
/-! SUPPORT. The family ChainLegal, one lemma for each constructor of Instr: the chain that the encoder gives a well-formed
instruction is one that 03 R50 allows. -/

namespace Sys2Proof

/-! ### Chains by form -/

theorem plainChain_legal {page : Option Nat} {op a b : Nat} (hp : ∀ p, page = some p → p ≤ 5) (ho : op ≤ 62) :
    (plainChain page op a b).Legal := by
  refine ⟨hp, ?_, ?_, ?_, ?_, baseWord_lt ho a b⟩
  · intro p h; cases h
  · intro p h; cases h
  · intro p h; cases h
  · have := present_le page
    show present page + present none + present none + 0 ≤ 4
    simp only [present] at this ⊢
    simp
    omega

theorem imm5Chain_legal {q op a : Nat} {e : Int} (hq : q < 256) (ho : op ≤ 62)
    (he : immFits 5 (4 - qualLen (q != 0)) e = true) : (imm5Chain q op a e).Legal := by
  refine ⟨?_, qualOf_lt hq, ?_, immPayloads_lt 5 e, ?_, baseWord_lt ho _ _⟩
  · intro p h; cases h
  · intro p h; cases h
  · have h := immLen_le (by omega) he
    have hl : qualLen (q != 0) ≤ 1 := by simp only [qualLen]; split <;> omega
    simp only [imm5Chain, present_qualOf, immPayloads_length]
    simp only [present]
    simp
    omega

theorem imm10Chain_legal {op : Nat} {e : Int} (ho : op ≤ 62) (he : immFits 10 4 e = true) :
    (imm10Chain op e).Legal := by
  refine ⟨?_, ?_, ?_, immPayloads_lt 10 e, ?_, baseWord_lt ho _ _⟩
  · intro p h; cases h
  · intro p h; cases h
  · intro p h; cases h
  · have h := immLen_le (by omega) he
    simp only [imm10Chain, immPayloads_length, present]
    simp
    omega

/-- A chain of a page, a QUAL payload, an OPB payload and a displacement. -/
theorem dispChain_legal {page opb : Option Nat} {q op a b : Nat} {e : Int} (hp : ∀ p, page = some p → p ≤ 5)
    (hq : q < 256) (hopb : ∀ p, opb = some p → p < 256) (ho : op ≤ 62)
    (he : dispFits (present page) (q != 0) opb.isSome e = true) :
    (Chain.mk page (qualOf q) opb (immPayloads 0 e) (baseWord op a b)).Legal := by
  refine ⟨hp, qualOf_lt hq, hopb, immPayloads_lt 0 e, ?_, baseWord_lt ho _ _⟩
  have h := immLen_le (by omega) he
  have h1 := present_le page
  have h2 : qualLen (q != 0) ≤ 1 := by simp only [qualLen]; split <;> omega
  have h3 : qualLen opb.isSome ≤ 1 := by simp only [qualLen]; split <;> omega
  have h4 : present opb = qualLen opb.isSome := rfl
  simp only [present_qualOf, immPayloads_length, h4]
  omega

/-- A chain without IMM prefixes. -/
theorem noImmChain_legal {page opb : Option Nat} {q op a b : Nat} (hp : ∀ p, page = some p → p ≤ 5)
    (hq : q < 256) (hopb : ∀ p, opb = some p → p < 256) (ho : op ≤ 62) :
    (Chain.mk page (qualOf q) opb [] (baseWord op a b)).Legal := by
  refine ⟨hp, qualOf_lt hq, hopb, by simp, ?_, baseWord_lt ho _ _⟩
  have h1 := present_le page
  have h2 := present_le (qualOf q)
  have h3 := present_le opb
  simp only [List.length_nil]
  omega

theorem opbMap_lt {α : Type} (o : Option α) (f : α → Nat) (hf : ∀ x, f x < 256) : ∀ p, o.map f = some p → p < 256 := by
  intro p h
  cases o with
  | none => cases h
  | some x => cases h; exact hf x

theorem page_le {k : Nat} (h : k ≤ 5) : ∀ p, (some k : Option Nat) = some p → p ≤ 5 := by
  intro p hp; cases hp; exact h

theorem noPage : ∀ p, (none : Option Nat) = some p → p ≤ 5 := by intro p hp; cases hp

theorem noOpb : ∀ p, (none : Option Nat) = some p → p < 256 := by intro p hp; cases hp

theorem oneOpb {k : Nat} (h : k < 256) : ∀ p, (some k : Option Nat) = some p → p < 256 := by
  intro p hp; cases hp; exact h

theorem scalar_lt (y : ScalarType) : y.code < 256 := by have := y.code_lt; omega

theorem lane_lt (t : LaneType) : t.code < 256 := by have := t.code_lt; omega

theorem alChain_legal {op : Nat} (a b : GReg) (c : Option GReg) (y : ScalarType) (ho : op ≤ 62) :
    (alChain op a b c y).Legal :=
  noImmChain_legal noPage (scalar_lt y) (opbMap_lt c _ fun r => opbOf_lt r.isLt (by omega)) ho

theorem unChain_legal {op : Nat} (a b : GReg) (y : ScalarType) (ho : op ≤ 62) : (unChain op a b y).Legal :=
  noImmChain_legal noPage (scalar_lt y) noOpb ho

theorem atChain_legal {op : Nat} (a b : GReg) (c : Option GReg) (y : ScalarType) (sc : Scope) (o : Order)
    (ho : op ≤ 62) : (atChain op a b c y sc o).Legal :=
  noImmChain_legal (page_le (by omega)) (qualPayload_lt sc o (by have := y.code_lt; omega))
    (opbMap_lt c _ fun r => opbOf_lt r.isLt (by omega)) ho

theorem v1Chain_legal {op : Nat} (a b : Nat) (x : KReg) (t : LaneType) (ho : op ≤ 62) : (v1Chain op a b x t).Legal :=
  noImmChain_legal (page_le (by omega)) (lane_lt t) (maskOf_lt x) ho

theorem v2Chain_legal {op : Nat} (a b : VReg) (c : Option Third) (t : LaneType) (ho : op ≤ 62) :
    (v2Chain op a b c t).Legal :=
  noImmChain_legal (page_le (by omega)) (lane_lt t) (opbMap_lt c _ fun r => opbOf_lt r.reg.isLt r.mask.isLt) ho

theorem v3Chain_legal {op c : Nat} (a b : Nat) (x : KReg) (t : LaneType) (hc : c < 32) (ho : op ≤ 62) :
    (v3Chain op a b c x t).Legal :=
  noImmChain_legal (page_le (by omega)) (lane_lt t) (oneOpb (opbOf_lt hc x.isLt)) ho

/-- A chain with one IMM prefix. -/
theorem oneImmChain_legal {op k q a b : Nat} {opb : Option Nat} (hq : q < 256) (hopb : ∀ p, opb = some p → p < 256)
    (hk : k < 256) (ho : op ≤ 62) : (Chain.mk (some 2) (qualOf q) opb [k] (baseWord op a b)).Legal := by
  refine ⟨page_le (by omega), qualOf_lt hq, hopb, by simpa using hk, ?_, baseWord_lt ho _ _⟩
  have h2 := present_le (qualOf q)
  have h3 := present_le opb
  simp only [List.length_singleton, present] at h2 h3 ⊢
  simp at h2 h3 ⊢
  omega

theorem laneChain_legal {op : Nat} (a b : Fin 32) {n : Nat} (t : LaneType) (hn : n < 256) (ho : op ≤ 62) :
    (laneChain op a b n t).Legal := oneImmChain_legal (lane_lt t) noOpb hn ho

theorem lanes_le (t : LaneType) : t.lanes ≤ 64 := by cases t <;> decide

theorem maxBlk_le (t : LaneType) : t.maxBlk ≤ 3 := by cases t <;> decide

theorem hadChain_legal {op : Nat} (a b : VReg) {blk : Nat} (seed : Fin 16) (x : KReg) (t : LaneType) (hb : blk < 8)
    (ho : op ≤ 62) : (hadChain op a b blk seed x t).Legal :=
  oneImmChain_legal (lane_lt t) (maskOf_lt x) (by have := seed.isLt; omega) ho

theorem bfChain_legal {op : Nat} (a b : GReg) (pos len : Nat) (ho : op ≤ 62) : (bfChain op a b pos len).Legal := by
  refine ⟨noPage, noOpb, noOpb, immBytes_lt _ _, ?_, baseWord_lt ho _ _⟩
  have h : (if len * 64 + pos < 128 then 1 else 2) ≤ 2 := by split <;> omega
  simp only [bfChain, immBytes_length, present]
  simp
  omega

theorem qualLen_code (y : ScalarType) : qualLen (y.code != 0) = qualLen (y != .d) := by cases y <;> rfl

theorem qualLen_lane (t : LaneType) : (t.code != 0) = (t != .fp32) := by cases t <;> rfl

theorem qualPayload_ne (sc : Scope) (o : Order) (y : ScalarType) :
    (qualPayload sc o y.code != 0) = (y != .d || sc != .co || o != .rlx) := by
  cases sc <;> cases o <;> cases y <;> rfl

theorem maskOf_isSome (x : KReg) : (maskOf x).isSome = (x != 0) := by revert x; decide

theorem meChain_legal {op : Nat} (a b : GReg) (x : Option Index) {e : Int} (y : ScalarType) (sc : Scope) (o : Order)
    (ho : op ≤ 62) (he : dispFits 0 (y != .d || sc != .co || o != .rlx) x.isSome e = true) :
    (meChain op a b x e y sc o).Legal :=
  dispChain_legal noPage (qualPayload_lt sc o (by have := y.code_lt; omega))
    (opbMap_lt x _ fun j => opbOf_lt j.reg.isLt (by have := j.shift.isLt; omega)) ho
    (by rw [qualPayload_ne, Option.isSome_map]; exact he)

theorem vmChain_legal {op q : Nat} (v b : Fin 32) {e : Int} (x : KReg) (hq : q < 256) (ho : op ≤ 62)
    (he : dispFits 1 (q != 0) (x != 0) e = true) : (vmChain op v b e x q).Legal :=
  dispChain_legal (page_le (by omega)) hq (maskOf_lt x) ho (by rw [maskOf_isSome]; exact he)

/-- A chain of a page and a displacement alone. -/
theorem pageDispChain_legal {page : Option Nat} {op a b : Nat} {e : Int} (hp : ∀ p, page = some p → p ≤ 5) (ho : op ≤ 62)
    (he : immFits 0 (4 - present page) e = true) :
    (Chain.mk page none none (immPayloads 0 e) (baseWord op a b)).Legal :=
  dispChain_legal (q := 0) hp (by omega) noOpb ho he

/-- A control register number fits one IMM prefix above imm5. -/
theorem csr_fits {n : Nat} (h : csrListed n = true) : immFits 5 (4 - qualLen (0 != 0)) (n : Int) = true := by
  have hn : n ≤ 0xA0 := by
    simp only [csrListed, Bool.or_eq_true, Bool.and_eq_true, decide_eq_true_eq, beq_iff_eq] at h
    omega
  simp only [immFits, fitsSigned, qualLen, Bool.or_eq_true, Bool.and_eq_true]
  simp
  omega

theorem and_left {a b : Bool} (h : (a && b) = true) : a = true := (Bool.and_eq_true_iff.mp h).1

theorem lane_index {n : Nat} {t : LaneType} (h : decide (n < t.lanes) = true) : n < 256 := by
  have := lanes_le t
  have := of_decide_eq_true h
  omega

theorem had_blk {blk : Nat} {t : LaneType} (h : (decide (1 ≤ blk) && decide (blk ≤ t.maxBlk)) = true) : blk < 8 := by
  have := maxBlk_le t
  simp only [Bool.and_eq_true, decide_eq_true_eq] at h
  omega

end Sys2Proof

/-! ### The family -/

/-- The chain of a well-formed instruction is one that 03 R50 allows. -/
def Sys2Proof.Laws.ChainLegal.Statement (i : Sys2Proof.Instr) : Prop :=
  i.wellFormed = true → ∀ c, Sys2Proof.chainOf i = some c → c.Legal

theorem Sys2Proof.Laws.ChainLegal.ill (a b : Fin 32) :
    Sys2Proof.Laws.ChainLegal.Statement (.ill a b) := by
  intro h c hc
  obtain rfl := Option.some.inj hc
  exact Sys2Proof.plainChain_legal (Sys2Proof.noPage) (by omega)

theorem Sys2Proof.Laws.ChainLegal.mov (a b : Sys2Proof.GReg) (y : Sys2Proof.ScalarType) :
    Sys2Proof.Laws.ChainLegal.Statement (.mov a b y) := by
  intro h c hc
  obtain rfl := Option.some.inj hc
  exact Sys2Proof.unChain_legal _ _ _ (by omega)

theorem Sys2Proof.Laws.ChainLegal.li (a : Sys2Proof.GReg) (e : Int) :
    Sys2Proof.Laws.ChainLegal.Statement (.li a e) := by
  intro h c hc
  obtain rfl := Option.some.inj hc
  exact Sys2Proof.imm5Chain_legal (by omega) (by omega) h

theorem Sys2Proof.Laws.ChainLegal.add (a b : Sys2Proof.GReg) (c : Option Sys2Proof.GReg) (y : Sys2Proof.ScalarType) :
    Sys2Proof.Laws.ChainLegal.Statement (.add a b c y) := by
  intro h c hc
  obtain rfl := Option.some.inj hc
  exact Sys2Proof.alChain_legal _ _ _ _ (by omega)

theorem Sys2Proof.Laws.ChainLegal.sub (a b : Sys2Proof.GReg) (c : Option Sys2Proof.GReg) (y : Sys2Proof.ScalarType) :
    Sys2Proof.Laws.ChainLegal.Statement (.sub a b c y) := by
  intro h c hc
  obtain rfl := Option.some.inj hc
  exact Sys2Proof.alChain_legal _ _ _ _ (by omega)

theorem Sys2Proof.Laws.ChainLegal.and (a b : Sys2Proof.GReg) (c : Option Sys2Proof.GReg) (y : Sys2Proof.ScalarType) :
    Sys2Proof.Laws.ChainLegal.Statement (.and a b c y) := by
  intro h c hc
  obtain rfl := Option.some.inj hc
  exact Sys2Proof.alChain_legal _ _ _ _ (by omega)

theorem Sys2Proof.Laws.ChainLegal.or (a b : Sys2Proof.GReg) (c : Option Sys2Proof.GReg) (y : Sys2Proof.ScalarType) :
    Sys2Proof.Laws.ChainLegal.Statement (.or a b c y) := by
  intro h c hc
  obtain rfl := Option.some.inj hc
  exact Sys2Proof.alChain_legal _ _ _ _ (by omega)

theorem Sys2Proof.Laws.ChainLegal.xor (a b : Sys2Proof.GReg) (c : Option Sys2Proof.GReg) (y : Sys2Proof.ScalarType) :
    Sys2Proof.Laws.ChainLegal.Statement (.xor a b c y) := by
  intro h c hc
  obtain rfl := Option.some.inj hc
  exact Sys2Proof.alChain_legal _ _ _ _ (by omega)

theorem Sys2Proof.Laws.ChainLegal.shl (a b : Sys2Proof.GReg) (c : Option Sys2Proof.GReg) (y : Sys2Proof.ScalarType) :
    Sys2Proof.Laws.ChainLegal.Statement (.shl a b c y) := by
  intro h c hc
  obtain rfl := Option.some.inj hc
  exact Sys2Proof.alChain_legal _ _ _ _ (by omega)

theorem Sys2Proof.Laws.ChainLegal.shr (a b : Sys2Proof.GReg) (c : Option Sys2Proof.GReg) (y : Sys2Proof.ScalarType) :
    Sys2Proof.Laws.ChainLegal.Statement (.shr a b c y) := by
  intro h c hc
  obtain rfl := Option.some.inj hc
  exact Sys2Proof.alChain_legal _ _ _ _ (by omega)

theorem Sys2Proof.Laws.ChainLegal.sra (a b : Sys2Proof.GReg) (c : Option Sys2Proof.GReg) (y : Sys2Proof.ScalarType) :
    Sys2Proof.Laws.ChainLegal.Statement (.sra a b c y) := by
  intro h c hc
  obtain rfl := Option.some.inj hc
  exact Sys2Proof.alChain_legal _ _ _ _ (by omega)

theorem Sys2Proof.Laws.ChainLegal.addi (a : Sys2Proof.GReg) (e : Int) (y : Sys2Proof.ScalarType) :
    Sys2Proof.Laws.ChainLegal.Statement (.addi a e y) := by
  intro h c hc
  obtain rfl := Option.some.inj hc
  exact Sys2Proof.imm5Chain_legal (Sys2Proof.scalar_lt y) (by omega) (by rw [Sys2Proof.qualLen_code]; exact h)

theorem Sys2Proof.Laws.ChainLegal.mul (a b : Sys2Proof.GReg) (c : Option Sys2Proof.GReg) (y : Sys2Proof.ScalarType) :
    Sys2Proof.Laws.ChainLegal.Statement (.mul a b c y) := by
  intro h c hc
  obtain rfl := Option.some.inj hc
  exact Sys2Proof.alChain_legal _ _ _ _ (by omega)

theorem Sys2Proof.Laws.ChainLegal.mulh (a b : Sys2Proof.GReg) (c : Option Sys2Proof.GReg) (y : Sys2Proof.ScalarType) :
    Sys2Proof.Laws.ChainLegal.Statement (.mulh a b c y) := by
  intro h c hc
  obtain rfl := Option.some.inj hc
  exact Sys2Proof.alChain_legal _ _ _ _ (by omega)

theorem Sys2Proof.Laws.ChainLegal.div (a b : Sys2Proof.GReg) (c : Option Sys2Proof.GReg) (y : Sys2Proof.ScalarType) :
    Sys2Proof.Laws.ChainLegal.Statement (.div a b c y) := by
  intro h c hc
  obtain rfl := Option.some.inj hc
  exact Sys2Proof.alChain_legal _ _ _ _ (by omega)

theorem Sys2Proof.Laws.ChainLegal.rem (a b : Sys2Proof.GReg) (c : Option Sys2Proof.GReg) (y : Sys2Proof.ScalarType) :
    Sys2Proof.Laws.ChainLegal.Statement (.rem a b c y) := by
  intro h c hc
  obtain rfl := Option.some.inj hc
  exact Sys2Proof.alChain_legal _ _ _ _ (by omega)

theorem Sys2Proof.Laws.ChainLegal.slt (a b : Sys2Proof.GReg) (c : Option Sys2Proof.GReg) (y : Sys2Proof.ScalarType) :
    Sys2Proof.Laws.ChainLegal.Statement (.slt a b c y) := by
  intro h c hc
  obtain rfl := Option.some.inj hc
  exact Sys2Proof.alChain_legal _ _ _ _ (by omega)

theorem Sys2Proof.Laws.ChainLegal.clz (a b : Sys2Proof.GReg) (y : Sys2Proof.ScalarType) :
    Sys2Proof.Laws.ChainLegal.Statement (.clz a b y) := by
  intro h c hc
  obtain rfl := Option.some.inj hc
  exact Sys2Proof.unChain_legal _ _ _ (by omega)

theorem Sys2Proof.Laws.ChainLegal.popc (a b : Sys2Proof.GReg) (y : Sys2Proof.ScalarType) :
    Sys2Proof.Laws.ChainLegal.Statement (.popc a b y) := by
  intro h c hc
  obtain rfl := Option.some.inj hc
  exact Sys2Proof.unChain_legal _ _ _ (by omega)

theorem Sys2Proof.Laws.ChainLegal.clmul (a b : Sys2Proof.GReg) (c : Option Sys2Proof.GReg) (y : Sys2Proof.ScalarType) :
    Sys2Proof.Laws.ChainLegal.Statement (.clmul a b c y) := by
  intro h c hc
  obtain rfl := Option.some.inj hc
  exact Sys2Proof.alChain_legal _ _ _ _ (by omega)

theorem Sys2Proof.Laws.ChainLegal.clmulh (a b : Sys2Proof.GReg) (c : Option Sys2Proof.GReg) (y : Sys2Proof.ScalarType) :
    Sys2Proof.Laws.ChainLegal.Statement (.clmulh a b c y) := by
  intro h c hc
  obtain rfl := Option.some.inj hc
  exact Sys2Proof.alChain_legal _ _ _ _ (by omega)

theorem Sys2Proof.Laws.ChainLegal.padd (a b : Sys2Proof.GReg) (e : Int) :
    Sys2Proof.Laws.ChainLegal.Statement (.padd a b e) := by
  intro h c hc
  obtain rfl := Option.some.inj hc
  exact Sys2Proof.pageDispChain_legal (Sys2Proof.noPage) (by omega) h

theorem Sys2Proof.Laws.ChainLegal.pset (a b : Sys2Proof.GReg) :
    Sys2Proof.Laws.ChainLegal.Statement (.pset a b) := by
  intro h c hc
  obtain rfl := Option.some.inj hc
  exact Sys2Proof.plainChain_legal (Sys2Proof.noPage) (by omega)

theorem Sys2Proof.Laws.ChainLegal.pget (a b : Sys2Proof.GReg) :
    Sys2Proof.Laws.ChainLegal.Statement (.pget a b) := by
  intro h c hc
  obtain rfl := Option.some.inj hc
  exact Sys2Proof.plainChain_legal (Sys2Proof.noPage) (by omega)

theorem Sys2Proof.Laws.ChainLegal.ld (a b : Sys2Proof.GReg) (x : Option Sys2Proof.Index) (e : Int) (y : Sys2Proof.ScalarType) (sc : Sys2Proof.Scope) (o : Sys2Proof.Order) :
    Sys2Proof.Laws.ChainLegal.Statement (.ld a b x e y sc o) := by
  intro h c hc
  obtain rfl := Option.some.inj hc
  exact Sys2Proof.meChain_legal _ _ _ _ _ _ (by omega) (Sys2Proof.and_left h)

theorem Sys2Proof.Laws.ChainLegal.st (a b : Sys2Proof.GReg) (x : Option Sys2Proof.Index) (e : Int) (y : Sys2Proof.ScalarType) (sc : Sys2Proof.Scope) (o : Sys2Proof.Order) :
    Sys2Proof.Laws.ChainLegal.Statement (.st a b x e y sc o) := by
  intro h c hc
  obtain rfl := Option.some.inj hc
  exact Sys2Proof.meChain_legal _ _ _ _ _ _ (by omega) (Sys2Proof.and_left (Sys2Proof.and_left h))

theorem Sys2Proof.Laws.ChainLegal.bz (a : Sys2Proof.GReg) (e : Int) :
    Sys2Proof.Laws.ChainLegal.Statement (.bz a e) := by
  intro h c hc
  obtain rfl := Option.some.inj hc
  exact Sys2Proof.imm5Chain_legal (by omega) (by omega) h

theorem Sys2Proof.Laws.ChainLegal.bnz (a : Sys2Proof.GReg) (e : Int) :
    Sys2Proof.Laws.ChainLegal.Statement (.bnz a e) := by
  intro h c hc
  obtain rfl := Option.some.inj hc
  exact Sys2Proof.imm5Chain_legal (by omega) (by omega) h

theorem Sys2Proof.Laws.ChainLegal.bltz (a : Sys2Proof.GReg) (e : Int) :
    Sys2Proof.Laws.ChainLegal.Statement (.bltz a e) := by
  intro h c hc
  obtain rfl := Option.some.inj hc
  exact Sys2Proof.imm5Chain_legal (by omega) (by omega) h

theorem Sys2Proof.Laws.ChainLegal.bgez (a : Sys2Proof.GReg) (e : Int) :
    Sys2Proof.Laws.ChainLegal.Statement (.bgez a e) := by
  intro h c hc
  obtain rfl := Option.some.inj hc
  exact Sys2Proof.imm5Chain_legal (by omega) (by omega) h

theorem Sys2Proof.Laws.ChainLegal.j (e : Int) :
    Sys2Proof.Laws.ChainLegal.Statement (.j e) := by
  intro h c hc
  obtain rfl := Option.some.inj hc
  exact Sys2Proof.imm10Chain_legal (by omega) h

theorem Sys2Proof.Laws.ChainLegal.jal (e : Int) :
    Sys2Proof.Laws.ChainLegal.Statement (.jal e) := by
  intro h c hc
  obtain rfl := Option.some.inj hc
  exact Sys2Proof.imm10Chain_legal (by omega) h

theorem Sys2Proof.Laws.ChainLegal.jr (a b : Sys2Proof.GReg) :
    Sys2Proof.Laws.ChainLegal.Statement (.jr a b) := by
  intro h c hc
  obtain rfl := Option.some.inj hc
  exact Sys2Proof.plainChain_legal (Sys2Proof.noPage) (by omega)

theorem Sys2Proof.Laws.ChainLegal.pause (e : Int) :
    Sys2Proof.Laws.ChainLegal.Statement (.pause e) := by
  intro h c hc
  obtain rfl := Option.some.inj hc
  exact Sys2Proof.imm5Chain_legal (by omega) (by omega) h

theorem Sys2Proof.Laws.ChainLegal.pauseEnd (c : Nat) (k : Fin 4) :
    Sys2Proof.Laws.ChainLegal.Statement (.pauseEnd c k) := by
  intro _ c h; cases h

theorem Sys2Proof.Laws.ChainLegal.fence (sc : Sys2Proof.Scope) (o : Sys2Proof.Order) :
    Sys2Proof.Laws.ChainLegal.Statement (.fence sc o) := by
  intro _ c hc
  obtain rfl := Option.some.inj hc
  refine ⟨Sys2Proof.noPage, Sys2Proof.oneOpb (Sys2Proof.qualPayload_lt sc o (by omega)), Sys2Proof.noOpb, by simp, ?_,
    Sys2Proof.baseWord_lt (by omega) _ _⟩
  simp [Sys2Proof.present]

theorem Sys2Proof.Laws.ChainLegal.ifence :
    Sys2Proof.Laws.ChainLegal.Statement (.ifence) := by
  intro h c hc
  obtain rfl := Option.some.inj hc
  exact Sys2Proof.plainChain_legal (Sys2Proof.noPage) (by omega)

theorem Sys2Proof.Laws.ChainLegal.csrr (a : Sys2Proof.GReg) (n : Nat) :
    Sys2Proof.Laws.ChainLegal.Statement (.csrr a n) := by
  intro h c hc
  obtain rfl := Option.some.inj hc
  exact Sys2Proof.imm5Chain_legal (by omega) (by omega) (Sys2Proof.csr_fits h)

theorem Sys2Proof.Laws.ChainLegal.csrw (a : Sys2Proof.GReg) (n : Nat) :
    Sys2Proof.Laws.ChainLegal.Statement (.csrw a n) := by
  intro h c hc
  obtain rfl := Option.some.inj hc
  exact Sys2Proof.imm5Chain_legal (by omega) (by omega) (Sys2Proof.csr_fits h)

theorem Sys2Proof.Laws.ChainLegal.sync (d : Fin 8) :
    Sys2Proof.Laws.ChainLegal.Statement (.sync d) := by
  intro h c hc
  obtain rfl := Option.some.inj hc
  exact Sys2Proof.plainChain_legal (Sys2Proof.noPage) (by omega)

theorem Sys2Proof.Laws.ChainLegal.arrive (d : Fin 8) :
    Sys2Proof.Laws.ChainLegal.Statement (.arrive d) := by
  intro h c hc
  obtain rfl := Option.some.inj hc
  exact Sys2Proof.plainChain_legal (Sys2Proof.noPage) (by omega)

theorem Sys2Proof.Laws.ChainLegal.waitb (d : Fin 8) :
    Sys2Proof.Laws.ChainLegal.Statement (.waitb d) := by
  intro h c hc
  obtain rfl := Option.some.inj hc
  exact Sys2Proof.plainChain_legal (Sys2Proof.noPage) (by omega)

theorem Sys2Proof.Laws.ChainLegal.trap (e : Int) :
    Sys2Proof.Laws.ChainLegal.Statement (.trap e) := by
  intro h c hc
  obtain rfl := Option.some.inj hc
  exact Sys2Proof.imm5Chain_legal (by omega) (by omega) h

theorem Sys2Proof.Laws.ChainLegal.min (a b : Sys2Proof.GReg) (c : Option Sys2Proof.GReg) (y : Sys2Proof.ScalarType) :
    Sys2Proof.Laws.ChainLegal.Statement (.min a b c y) := by
  intro h c hc
  obtain rfl := Option.some.inj hc
  exact Sys2Proof.alChain_legal _ _ _ _ (by omega)

theorem Sys2Proof.Laws.ChainLegal.max (a b : Sys2Proof.GReg) (c : Option Sys2Proof.GReg) (y : Sys2Proof.ScalarType) :
    Sys2Proof.Laws.ChainLegal.Statement (.max a b c y) := by
  intro h c hc
  obtain rfl := Option.some.inj hc
  exact Sys2Proof.alChain_legal _ _ _ _ (by omega)

theorem Sys2Proof.Laws.ChainLegal.epush (n : Fin 3) (b : Sys2Proof.GReg) :
    Sys2Proof.Laws.ChainLegal.Statement (.epush n b) := by
  intro h c hc
  obtain rfl := Option.some.inj hc
  exact Sys2Proof.plainChain_legal (Sys2Proof.noPage) (by omega)

theorem Sys2Proof.Laws.ChainLegal.qpush (a b : Sys2Proof.GReg) :
    Sys2Proof.Laws.ChainLegal.Statement (.qpush a b) := by
  intro h c hc
  obtain rfl := Option.some.inj hc
  exact Sys2Proof.plainChain_legal (Sys2Proof.noPage) (by omega)

theorem Sys2Proof.Laws.ChainLegal.clkr (a : Sys2Proof.GReg) :
    Sys2Proof.Laws.ChainLegal.Statement (.clkr a) := by
  intro h c hc
  obtain rfl := Option.some.inj hc
  exact Sys2Proof.plainChain_legal (Sys2Proof.noPage) (by omega)

theorem Sys2Proof.Laws.ChainLegal.bfx (a b : Sys2Proof.GReg) (pos len : Nat) :
    Sys2Proof.Laws.ChainLegal.Statement (.bfx a b pos len) := by
  intro h c hc
  obtain rfl := Option.some.inj hc
  exact Sys2Proof.bfChain_legal _ _ _ _ (by omega)

theorem Sys2Proof.Laws.ChainLegal.bfi (a b : Sys2Proof.GReg) (pos len : Nat) :
    Sys2Proof.Laws.ChainLegal.Statement (.bfi a b pos len) := by
  intro h c hc
  obtain rfl := Option.some.inj hc
  exact Sys2Proof.bfChain_legal _ _ _ _ (by omega)

theorem Sys2Proof.Laws.ChainLegal.aadd (a b : Sys2Proof.GReg) (c : Option Sys2Proof.GReg) (y : Sys2Proof.ScalarType) (sc : Sys2Proof.Scope) (o : Sys2Proof.Order) :
    Sys2Proof.Laws.ChainLegal.Statement (.aadd a b c y sc o) := by
  intro h c hc
  obtain rfl := Option.some.inj hc
  exact Sys2Proof.atChain_legal _ _ _ _ _ _ (by omega)

theorem Sys2Proof.Laws.ChainLegal.aand (a b : Sys2Proof.GReg) (c : Option Sys2Proof.GReg) (y : Sys2Proof.ScalarType) (sc : Sys2Proof.Scope) (o : Sys2Proof.Order) :
    Sys2Proof.Laws.ChainLegal.Statement (.aand a b c y sc o) := by
  intro h c hc
  obtain rfl := Option.some.inj hc
  exact Sys2Proof.atChain_legal _ _ _ _ _ _ (by omega)

theorem Sys2Proof.Laws.ChainLegal.aor (a b : Sys2Proof.GReg) (c : Option Sys2Proof.GReg) (y : Sys2Proof.ScalarType) (sc : Sys2Proof.Scope) (o : Sys2Proof.Order) :
    Sys2Proof.Laws.ChainLegal.Statement (.aor a b c y sc o) := by
  intro h c hc
  obtain rfl := Option.some.inj hc
  exact Sys2Proof.atChain_legal _ _ _ _ _ _ (by omega)

theorem Sys2Proof.Laws.ChainLegal.axor (a b : Sys2Proof.GReg) (c : Option Sys2Proof.GReg) (y : Sys2Proof.ScalarType) (sc : Sys2Proof.Scope) (o : Sys2Proof.Order) :
    Sys2Proof.Laws.ChainLegal.Statement (.axor a b c y sc o) := by
  intro h c hc
  obtain rfl := Option.some.inj hc
  exact Sys2Proof.atChain_legal _ _ _ _ _ _ (by omega)

theorem Sys2Proof.Laws.ChainLegal.amin (a b : Sys2Proof.GReg) (c : Option Sys2Proof.GReg) (y : Sys2Proof.ScalarType) (sc : Sys2Proof.Scope) (o : Sys2Proof.Order) :
    Sys2Proof.Laws.ChainLegal.Statement (.amin a b c y sc o) := by
  intro h c hc
  obtain rfl := Option.some.inj hc
  exact Sys2Proof.atChain_legal _ _ _ _ _ _ (by omega)

theorem Sys2Proof.Laws.ChainLegal.amax (a b : Sys2Proof.GReg) (c : Option Sys2Proof.GReg) (y : Sys2Proof.ScalarType) (sc : Sys2Proof.Scope) (o : Sys2Proof.Order) :
    Sys2Proof.Laws.ChainLegal.Statement (.amax a b c y sc o) := by
  intro h c hc
  obtain rfl := Option.some.inj hc
  exact Sys2Proof.atChain_legal _ _ _ _ _ _ (by omega)

theorem Sys2Proof.Laws.ChainLegal.aswp (a b : Sys2Proof.GReg) (c : Option Sys2Proof.GReg) (y : Sys2Proof.ScalarType) (sc : Sys2Proof.Scope) (o : Sys2Proof.Order) :
    Sys2Proof.Laws.ChainLegal.Statement (.aswp a b c y sc o) := by
  intro h c hc
  obtain rfl := Option.some.inj hc
  exact Sys2Proof.atChain_legal _ _ _ _ _ _ (by omega)

theorem Sys2Proof.Laws.ChainLegal.acas (a b c : Sys2Proof.GReg) (y : Sys2Proof.ScalarType) (sc : Sys2Proof.Scope) (o : Sys2Proof.Order) :
    Sys2Proof.Laws.ChainLegal.Statement (.acas a b c y sc o) := by
  intro h c hc
  obtain rfl := Option.some.inj hc
  exact Sys2Proof.atChain_legal _ _ _ _ _ _ (by omega)

theorem Sys2Proof.Laws.ChainLegal.upd (a b : Sys2Proof.GReg) (y : Sys2Proof.ScalarType) (sc : Sys2Proof.Scope) (o : Sys2Proof.Order) :
    Sys2Proof.Laws.ChainLegal.Statement (.upd a b y sc o) := by
  intro h c hc
  obtain rfl := Option.some.inj hc
  exact Sys2Proof.atChain_legal _ _ _ _ _ _ (by omega)

theorem Sys2Proof.Laws.ChainLegal.updcfg (a b : Sys2Proof.GReg) :
    Sys2Proof.Laws.ChainLegal.Statement (.updcfg a b) := by
  intro h c hc
  obtain rfl := Option.some.inj hc
  exact Sys2Proof.plainChain_legal (Sys2Proof.page_le (by omega)) (by omega)

theorem Sys2Proof.Laws.ChainLegal.scfg (n : Fin 4) (b : Sys2Proof.GReg) :
    Sys2Proof.Laws.ChainLegal.Statement (.scfg n b) := by
  intro h c hc
  obtain rfl := Option.some.inj hc
  exact Sys2Proof.plainChain_legal (Sys2Proof.page_le (by omega)) (by omega)

theorem Sys2Proof.Laws.ChainLegal.senEnable (n : Fin 4) :
    Sys2Proof.Laws.ChainLegal.Statement (.senEnable n) := by
  intro h c hc
  obtain rfl := Option.some.inj hc
  exact Sys2Proof.plainChain_legal (Sys2Proof.page_le (by omega)) (by omega)

theorem Sys2Proof.Laws.ChainLegal.senDisable (n : Fin 4) :
    Sys2Proof.Laws.ChainLegal.Statement (.senDisable n) := by
  intro h c hc
  obtain rfl := Option.some.inj hc
  exact Sys2Proof.plainChain_legal (Sys2Proof.page_le (by omega)) (by omega)

theorem Sys2Proof.Laws.ChainLegal.pref (h : Fin 2) (b : Sys2Proof.GReg) (e : Int) :
    Sys2Proof.Laws.ChainLegal.Statement (.pref h b e) := by
  intro h c hc
  obtain rfl := Option.some.inj hc
  exact Sys2Proof.pageDispChain_legal (Sys2Proof.page_le (by omega)) (by omega) h

theorem Sys2Proof.Laws.ChainLegal.vld (v : Sys2Proof.VReg) (b : Sys2Proof.GReg) (e : Int) (x : Sys2Proof.KReg) (t : Sys2Proof.LaneType) :
    Sys2Proof.Laws.ChainLegal.Statement (.vld v b e x t) := by
  intro h c hc
  obtain rfl := Option.some.inj hc
  exact Sys2Proof.vmChain_legal _ _ _ (Sys2Proof.lane_lt t) (by omega) (by rw [Sys2Proof.qualLen_lane]; exact h)

theorem Sys2Proof.Laws.ChainLegal.vst (v : Sys2Proof.VReg) (b : Sys2Proof.GReg) (e : Int) (x : Sys2Proof.KReg) (t : Sys2Proof.LaneType) :
    Sys2Proof.Laws.ChainLegal.Statement (.vst v b e x t) := by
  intro h c hc
  obtain rfl := Option.some.inj hc
  exact Sys2Proof.vmChain_legal _ _ _ (Sys2Proof.lane_lt t) (by omega) (by rw [Sys2Proof.qualLen_lane]; exact h)

theorem Sys2Proof.Laws.ChainLegal.vldc (v : Sys2Proof.VReg) (b : Sys2Proof.GReg) (e : Int) (x : Sys2Proof.KReg) (t : Option Sys2Proof.LaneType) :
    Sys2Proof.Laws.ChainLegal.Statement (.vldc v b e x t) := by
  intro h c hc
  obtain rfl := Option.some.inj hc
  cases t with
  | none => exact Sys2Proof.vmChain_legal (q := 8) _ _ _ (by omega) (by omega) h
  | some t =>
    refine Sys2Proof.vmChain_legal _ _ _ (Sys2Proof.lane_lt t) (by omega) ?_
    rw [Sys2Proof.qualLen_lane]
    revert h
    cases t <;> exact id

theorem Sys2Proof.Laws.ChainLegal.vstc (v : Sys2Proof.VReg) (b : Sys2Proof.GReg) (e : Int) (x : Sys2Proof.KReg) (t : Sys2Proof.LaneType) :
    Sys2Proof.Laws.ChainLegal.Statement (.vstc v b e x t) := by
  intro h c hc
  obtain rfl := Option.some.inj hc
  exact Sys2Proof.vmChain_legal _ _ _ (Sys2Proof.lane_lt t) (by omega) (by rw [Sys2Proof.qualLen_lane]; exact h)

theorem Sys2Proof.Laws.ChainLegal.vadd (a b : Sys2Proof.VReg) (c : Option Sys2Proof.Third) (t : Sys2Proof.LaneType) :
    Sys2Proof.Laws.ChainLegal.Statement (.vadd a b c t) := by
  intro h c hc
  obtain rfl := Option.some.inj hc
  exact Sys2Proof.v2Chain_legal _ _ _ _ (by omega)

theorem Sys2Proof.Laws.ChainLegal.vsub (a b : Sys2Proof.VReg) (c : Option Sys2Proof.Third) (t : Sys2Proof.LaneType) :
    Sys2Proof.Laws.ChainLegal.Statement (.vsub a b c t) := by
  intro h c hc
  obtain rfl := Option.some.inj hc
  exact Sys2Proof.v2Chain_legal _ _ _ _ (by omega)

theorem Sys2Proof.Laws.ChainLegal.vmul (a b : Sys2Proof.VReg) (c : Option Sys2Proof.Third) (t : Sys2Proof.LaneType) :
    Sys2Proof.Laws.ChainLegal.Statement (.vmul a b c t) := by
  intro h c hc
  obtain rfl := Option.some.inj hc
  exact Sys2Proof.v2Chain_legal _ _ _ _ (by omega)

theorem Sys2Proof.Laws.ChainLegal.vfma (a b c : Sys2Proof.VReg) (x : Sys2Proof.KReg) (t : Sys2Proof.LaneType) :
    Sys2Proof.Laws.ChainLegal.Statement (.vfma a b c x t) := by
  intro h c hc
  obtain rfl := Option.some.inj hc
  exact Sys2Proof.v3Chain_legal _ _ _ _ (Fin.isLt _) (by omega)

theorem Sys2Proof.Laws.ChainLegal.vmin (a b : Sys2Proof.VReg) (c : Option Sys2Proof.Third) (t : Sys2Proof.LaneType) :
    Sys2Proof.Laws.ChainLegal.Statement (.vmin a b c t) := by
  intro h c hc
  obtain rfl := Option.some.inj hc
  exact Sys2Proof.v2Chain_legal _ _ _ _ (by omega)

theorem Sys2Proof.Laws.ChainLegal.vmax (a b : Sys2Proof.VReg) (c : Option Sys2Proof.Third) (t : Sys2Proof.LaneType) :
    Sys2Proof.Laws.ChainLegal.Statement (.vmax a b c t) := by
  intro h c hc
  obtain rfl := Option.some.inj hc
  exact Sys2Proof.v2Chain_legal _ _ _ _ (by omega)

theorem Sys2Proof.Laws.ChainLegal.vabs (a b : Sys2Proof.VReg) (x : Sys2Proof.KReg) (t : Sys2Proof.LaneType) :
    Sys2Proof.Laws.ChainLegal.Statement (.vabs a b x t) := by
  intro h c hc
  obtain rfl := Option.some.inj hc
  exact Sys2Proof.v1Chain_legal _ _ _ _ (by omega)

theorem Sys2Proof.Laws.ChainLegal.vneg (a b : Sys2Proof.VReg) (x : Sys2Proof.KReg) (t : Sys2Proof.LaneType) :
    Sys2Proof.Laws.ChainLegal.Statement (.vneg a b x t) := by
  intro h c hc
  obtain rfl := Option.some.inj hc
  exact Sys2Proof.v1Chain_legal _ _ _ _ (by omega)

theorem Sys2Proof.Laws.ChainLegal.vexp (a b : Sys2Proof.VReg) (x : Sys2Proof.KReg) (t : Sys2Proof.LaneType) :
    Sys2Proof.Laws.ChainLegal.Statement (.vexp a b x t) := by
  intro h c hc
  obtain rfl := Option.some.inj hc
  exact Sys2Proof.v1Chain_legal _ _ _ _ (by omega)

theorem Sys2Proof.Laws.ChainLegal.vln (a b : Sys2Proof.VReg) (x : Sys2Proof.KReg) (t : Sys2Proof.LaneType) :
    Sys2Proof.Laws.ChainLegal.Statement (.vln a b x t) := by
  intro h c hc
  obtain rfl := Option.some.inj hc
  exact Sys2Proof.v1Chain_legal _ _ _ _ (by omega)

theorem Sys2Proof.Laws.ChainLegal.vrcp (a b : Sys2Proof.VReg) (x : Sys2Proof.KReg) (t : Sys2Proof.LaneType) :
    Sys2Proof.Laws.ChainLegal.Statement (.vrcp a b x t) := by
  intro h c hc
  obtain rfl := Option.some.inj hc
  exact Sys2Proof.v1Chain_legal _ _ _ _ (by omega)

theorem Sys2Proof.Laws.ChainLegal.vrsq (a b : Sys2Proof.VReg) (x : Sys2Proof.KReg) (t : Sys2Proof.LaneType) :
    Sys2Proof.Laws.ChainLegal.Statement (.vrsq a b x t) := by
  intro h c hc
  obtain rfl := Option.some.inj hc
  exact Sys2Proof.v1Chain_legal _ _ _ _ (by omega)

theorem Sys2Proof.Laws.ChainLegal.vclt (a : Sys2Proof.KReg) (b c : Sys2Proof.VReg) (x : Sys2Proof.KReg) (t : Sys2Proof.LaneType) :
    Sys2Proof.Laws.ChainLegal.Statement (.vclt a b c x t) := by
  intro h c hc
  obtain rfl := Option.some.inj hc
  exact Sys2Proof.v3Chain_legal _ _ _ _ (Fin.isLt _) (by omega)

theorem Sys2Proof.Laws.ChainLegal.vcle (a : Sys2Proof.KReg) (b c : Sys2Proof.VReg) (x : Sys2Proof.KReg) (t : Sys2Proof.LaneType) :
    Sys2Proof.Laws.ChainLegal.Statement (.vcle a b c x t) := by
  intro h c hc
  obtain rfl := Option.some.inj hc
  exact Sys2Proof.v3Chain_legal _ _ _ _ (Fin.isLt _) (by omega)

theorem Sys2Proof.Laws.ChainLegal.vceq (a : Sys2Proof.KReg) (b c : Sys2Proof.VReg) (x : Sys2Proof.KReg) (t : Sys2Proof.LaneType) :
    Sys2Proof.Laws.ChainLegal.Statement (.vceq a b c x t) := by
  intro h c hc
  obtain rfl := Option.some.inj hc
  exact Sys2Proof.v3Chain_legal _ _ _ _ (Fin.isLt _) (by omega)

theorem Sys2Proof.Laws.ChainLegal.vsel (a b c : Sys2Proof.VReg) (x : Sys2Proof.KReg) (t : Sys2Proof.LaneType) :
    Sys2Proof.Laws.ChainLegal.Statement (.vsel a b c x t) := by
  intro h c hc
  obtain rfl := Option.some.inj hc
  exact Sys2Proof.v3Chain_legal _ _ _ _ (Fin.isLt _) (by omega)

theorem Sys2Proof.Laws.ChainLegal.vbcast (a : Sys2Proof.VReg) (b : Sys2Proof.GReg) (t : Sys2Proof.LaneType) :
    Sys2Proof.Laws.ChainLegal.Statement (.vbcast a b t) := by
  intro h c hc
  obtain rfl := Option.some.inj hc
  exact Sys2Proof.v1Chain_legal _ _ _ _ (by omega)

theorem Sys2Proof.Laws.ChainLegal.vmovg (a : Sys2Proof.GReg) (b : Sys2Proof.VReg) (n : Nat) (t : Sys2Proof.LaneType) :
    Sys2Proof.Laws.ChainLegal.Statement (.vmovg a b n t) := by
  intro h c hc
  obtain rfl := Option.some.inj hc
  exact Sys2Proof.laneChain_legal _ _ _ (Sys2Proof.lane_index h) (by omega)

theorem Sys2Proof.Laws.ChainLegal.vmovv (a : Sys2Proof.VReg) (b : Sys2Proof.GReg) (n : Nat) (t : Sys2Proof.LaneType) :
    Sys2Proof.Laws.ChainLegal.Statement (.vmovv a b n t) := by
  intro h c hc
  obtain rfl := Option.some.inj hc
  exact Sys2Proof.laneChain_legal _ _ _ (Sys2Proof.lane_index h) (by omega)

theorem Sys2Proof.Laws.ChainLegal.vgath (a : Sys2Proof.VReg) (b : Sys2Proof.GReg) (c : Sys2Proof.VReg) (x : Sys2Proof.KReg) (t : Sys2Proof.LaneType) :
    Sys2Proof.Laws.ChainLegal.Statement (.vgath a b c x t) := by
  intro h c hc
  obtain rfl := Option.some.inj hc
  exact Sys2Proof.v3Chain_legal _ _ _ _ (Fin.isLt _) (by omega)

theorem Sys2Proof.Laws.ChainLegal.vscat (a : Sys2Proof.VReg) (b : Sys2Proof.GReg) (c : Sys2Proof.VReg) (x : Sys2Proof.KReg) (t : Sys2Proof.LaneType) :
    Sys2Proof.Laws.ChainLegal.Statement (.vscat a b c x t) := by
  intro h c hc
  obtain rfl := Option.some.inj hc
  exact Sys2Proof.v3Chain_legal _ _ _ _ (Fin.isLt _) (by omega)

theorem Sys2Proof.Laws.ChainLegal.vpack (a b : Sys2Proof.VReg) (x : Sys2Proof.KReg) (t : Sys2Proof.LaneType) :
    Sys2Proof.Laws.ChainLegal.Statement (.vpack a b x t) := by
  intro h c hc
  obtain rfl := Option.some.inj hc
  exact Sys2Proof.v1Chain_legal _ _ _ _ (by omega)

theorem Sys2Proof.Laws.ChainLegal.vcmpk (a b : Sys2Proof.VReg) (x : Sys2Proof.KReg) (t : Sys2Proof.LaneType) :
    Sys2Proof.Laws.ChainLegal.Statement (.vcmpk a b x t) := by
  intro h c hc
  obtain rfl := Option.some.inj hc
  exact Sys2Proof.v1Chain_legal _ _ _ _ (by omega)

theorem Sys2Proof.Laws.ChainLegal.vrsum (b : Sys2Proof.VReg) (x : Sys2Proof.KReg) (t : Sys2Proof.LaneType) :
    Sys2Proof.Laws.ChainLegal.Statement (.vrsum b x t) := by
  intro h c hc
  obtain rfl := Option.some.inj hc
  exact Sys2Proof.v1Chain_legal _ _ _ _ (by omega)

theorem Sys2Proof.Laws.ChainLegal.vrmax (b : Sys2Proof.VReg) (x : Sys2Proof.KReg) (t : Sys2Proof.LaneType) :
    Sys2Proof.Laws.ChainLegal.Statement (.vrmax b x t) := by
  intro h c hc
  obtain rfl := Option.some.inj hc
  exact Sys2Proof.v1Chain_legal _ _ _ _ (by omega)

theorem Sys2Proof.Laws.ChainLegal.vargmx (b : Sys2Proof.VReg) (x : Sys2Proof.KReg) (t : Sys2Proof.LaneType) :
    Sys2Proof.Laws.ChainLegal.Statement (.vargmx b x t) := by
  intro h c hc
  obtain rfl := Option.some.inj hc
  exact Sys2Proof.v1Chain_legal _ _ _ _ (by omega)

theorem Sys2Proof.Laws.ChainLegal.vcvt (a b : Sys2Proof.VReg) (ts : Sys2Proof.LaneType) (x : Sys2Proof.KReg) (t : Sys2Proof.LaneType) :
    Sys2Proof.Laws.ChainLegal.Statement (.vcvt a b ts x t) := by
  intro h c hc
  obtain rfl := Option.some.inj hc
  exact Sys2Proof.v3Chain_legal _ _ _ _ (by have := ts.code_lt; omega) (by omega)

theorem Sys2Proof.Laws.ChainLegal.vhad (a b : Sys2Proof.VReg) (blk : Nat) (seed : Fin 16) (x : Sys2Proof.KReg) (t : Sys2Proof.LaneType) :
    Sys2Proof.Laws.ChainLegal.Statement (.vhad a b blk seed x t) := by
  intro h c hc
  obtain rfl := Option.some.inj hc
  exact Sys2Proof.hadChain_legal _ _ _ _ _ (Sys2Proof.had_blk h) (by omega)

theorem Sys2Proof.Laws.ChainLegal.vihad (a b : Sys2Proof.VReg) (blk : Nat) (seed : Fin 16) (x : Sys2Proof.KReg) (t : Sys2Proof.LaneType) :
    Sys2Proof.Laws.ChainLegal.Statement (.vihad a b blk seed x t) := by
  intro h c hc
  obtain rfl := Option.some.inj hc
  exact Sys2Proof.hadChain_legal _ _ _ _ _ (Sys2Proof.had_blk h) (by omega)

theorem Sys2Proof.Laws.ChainLegal.vloop (n : Nat) (b : Sys2Proof.GReg) :
    Sys2Proof.Laws.ChainLegal.Statement (.vloop n b) := by
  intro h c hc
  obtain rfl := Option.some.inj hc
  exact Sys2Proof.plainChain_legal (Sys2Proof.page_le (by omega)) (by omega)

theorem Sys2Proof.Laws.ChainLegal.vand (a b : Sys2Proof.VReg) (c : Option Sys2Proof.Third) (t : Sys2Proof.LaneType) :
    Sys2Proof.Laws.ChainLegal.Statement (.vand a b c t) := by
  intro h c hc
  obtain rfl := Option.some.inj hc
  exact Sys2Proof.v2Chain_legal _ _ _ _ (by omega)

theorem Sys2Proof.Laws.ChainLegal.vor (a b : Sys2Proof.VReg) (c : Option Sys2Proof.Third) (t : Sys2Proof.LaneType) :
    Sys2Proof.Laws.ChainLegal.Statement (.vor a b c t) := by
  intro h c hc
  obtain rfl := Option.some.inj hc
  exact Sys2Proof.v2Chain_legal _ _ _ _ (by omega)

theorem Sys2Proof.Laws.ChainLegal.vxor (a b : Sys2Proof.VReg) (c : Option Sys2Proof.Third) (t : Sys2Proof.LaneType) :
    Sys2Proof.Laws.ChainLegal.Statement (.vxor a b c t) := by
  intro h c hc
  obtain rfl := Option.some.inj hc
  exact Sys2Proof.v2Chain_legal _ _ _ _ (by omega)

theorem Sys2Proof.Laws.ChainLegal.vshl (a b : Sys2Proof.VReg) (c : Option Sys2Proof.Third) (t : Sys2Proof.LaneType) :
    Sys2Proof.Laws.ChainLegal.Statement (.vshl a b c t) := by
  intro h c hc
  obtain rfl := Option.some.inj hc
  exact Sys2Proof.v2Chain_legal _ _ _ _ (by omega)

theorem Sys2Proof.Laws.ChainLegal.vshr (a b : Sys2Proof.VReg) (c : Option Sys2Proof.Third) (t : Sys2Proof.LaneType) :
    Sys2Proof.Laws.ChainLegal.Statement (.vshr a b c t) := by
  intro h c hc
  obtain rfl := Option.some.inj hc
  exact Sys2Proof.v2Chain_legal _ _ _ _ (by omega)

theorem Sys2Proof.Laws.ChainLegal.kand (a b : Sys2Proof.KReg) (c : Option Sys2Proof.KReg) :
    Sys2Proof.Laws.ChainLegal.Statement (.kand a b c) := by
  intro h c hc
  obtain rfl := Option.some.inj hc
  exact Sys2Proof.noImmChain_legal (q := 0) (Sys2Proof.page_le (by omega)) (by omega) (Sys2Proof.opbMap_lt c _ fun k => Sys2Proof.opbOf_lt (by have := k.isLt; omega) (by omega)) (by omega)

theorem Sys2Proof.Laws.ChainLegal.kor (a b : Sys2Proof.KReg) (c : Option Sys2Proof.KReg) :
    Sys2Proof.Laws.ChainLegal.Statement (.kor a b c) := by
  intro h c hc
  obtain rfl := Option.some.inj hc
  exact Sys2Proof.noImmChain_legal (q := 0) (Sys2Proof.page_le (by omega)) (by omega) (Sys2Proof.opbMap_lt c _ fun k => Sys2Proof.opbOf_lt (by have := k.isLt; omega) (by omega)) (by omega)

theorem Sys2Proof.Laws.ChainLegal.knot (a b : Sys2Proof.KReg) :
    Sys2Proof.Laws.ChainLegal.Statement (.knot a b) := by
  intro h c hc
  obtain rfl := Option.some.inj hc
  exact Sys2Proof.plainChain_legal (Sys2Proof.page_le (by omega)) (by omega)

theorem Sys2Proof.Laws.ChainLegal.kmovKFromG (a : Sys2Proof.KReg) (b : Sys2Proof.GReg) :
    Sys2Proof.Laws.ChainLegal.Statement (.kmovKFromG a b) := by
  intro h c hc
  obtain rfl := Option.some.inj hc
  exact Sys2Proof.plainChain_legal (Sys2Proof.page_le (by omega)) (by omega)

theorem Sys2Proof.Laws.ChainLegal.kmovGFromK (a : Sys2Proof.GReg) (b : Sys2Proof.KReg) :
    Sys2Proof.Laws.ChainLegal.Statement (.kmovGFromK a b) := by
  intro h c hc
  obtain rfl := Option.some.inj hc
  exact Sys2Proof.noImmChain_legal (q := 0) (Sys2Proof.page_le (by omega)) (by omega) (Sys2Proof.oneOpb (by omega)) (by omega)

theorem Sys2Proof.Laws.ChainLegal.kmovKFromK (a b : Sys2Proof.KReg) :
    Sys2Proof.Laws.ChainLegal.Statement (.kmovKFromK a b) := by
  intro h c hc
  obtain rfl := Option.some.inj hc
  exact Sys2Proof.noImmChain_legal (q := 0) (Sys2Proof.page_le (by omega)) (by omega) (Sys2Proof.oneOpb (by omega)) (by omega)

theorem Sys2Proof.Laws.ChainLegal.tzero (t : Sys2Proof.TReg) :
    Sys2Proof.Laws.ChainLegal.Statement (.tzero t) := by
  intro h c hc
  obtain rfl := Option.some.inj hc
  exact Sys2Proof.plainChain_legal (Sys2Proof.page_le (by omega)) (by omega)

theorem Sys2Proof.Laws.ChainLegal.tload (t : Sys2Proof.TReg) (b : Sys2Proof.GReg) (e : Int) :
    Sys2Proof.Laws.ChainLegal.Statement (.tload t b e) := by
  intro h c hc
  obtain rfl := Option.some.inj hc
  exact Sys2Proof.pageDispChain_legal (Sys2Proof.page_le (by omega)) (by omega) h

theorem Sys2Proof.Laws.ChainLegal.tsave (t : Sys2Proof.TReg) (b : Sys2Proof.GReg) (e : Int) :
    Sys2Proof.Laws.ChainLegal.Statement (.tsave t b e) := by
  intro h c hc
  obtain rfl := Option.some.inj hc
  exact Sys2Proof.pageDispChain_legal (Sys2Proof.page_le (by omega)) (by omega) h

theorem Sys2Proof.Laws.ChainLegal.tstat (a : Sys2Proof.GReg) (t : Sys2Proof.TReg) :
    Sys2Proof.Laws.ChainLegal.Statement (.tstat a t) := by
  intro h c hc
  obtain rfl := Option.some.inj hc
  exact Sys2Proof.plainChain_legal (Sys2Proof.page_le (by omega)) (by omega)

theorem Sys2Proof.Laws.ChainLegal.twait (t : Sys2Proof.TReg) :
    Sys2Proof.Laws.ChainLegal.Statement (.twait t) := by
  intro h c hc
  obtain rfl := Option.some.inj hc
  exact Sys2Proof.plainChain_legal (Sys2Proof.page_le (by omega)) (by omega)

theorem Sys2Proof.Laws.ChainLegal.tdrop (t : Sys2Proof.TReg) :
    Sys2Proof.Laws.ChainLegal.Statement (.tdrop t) := by
  intro h c hc
  obtain rfl := Option.some.inj hc
  exact Sys2Proof.plainChain_legal (Sys2Proof.page_le (by omega)) (by omega)

theorem Sys2Proof.Laws.ChainLegal.asscfg (a b : Sys2Proof.GReg) :
    Sys2Proof.Laws.ChainLegal.Statement (.asscfg a b) := by
  intro h c hc
  obtain rfl := Option.some.inj hc
  exact Sys2Proof.plainChain_legal (Sys2Proof.page_le (by omega)) (by omega)

theorem Sys2Proof.Laws.ChainLegal.assay (a b : Sys2Proof.GReg) :
    Sys2Proof.Laws.ChainLegal.Statement (.assay a b) := by
  intro h c hc
  obtain rfl := Option.some.inj hc
  exact Sys2Proof.plainChain_legal (Sys2Proof.page_le (by omega)) (by omega)

theorem Sys2Proof.Laws.ChainLegal.draw (a b : Sys2Proof.GReg) :
    Sys2Proof.Laws.ChainLegal.Statement (.draw a b) := by
  intro h c hc
  obtain rfl := Option.some.inj hc
  exact Sys2Proof.plainChain_legal (Sys2Proof.page_le (by omega)) (by omega)

theorem Sys2Proof.Laws.ChainLegal.carrive (a b : Sys2Proof.GReg) :
    Sys2Proof.Laws.ChainLegal.Statement (.carrive a b) := by
  intro h c hc
  obtain rfl := Option.some.inj hc
  exact Sys2Proof.plainChain_legal (Sys2Proof.page_le (by omega)) (by omega)

theorem Sys2Proof.Laws.ChainLegal.cwait (a b : Sys2Proof.GReg) :
    Sys2Proof.Laws.ChainLegal.Statement (.cwait a b) := by
  intro h c hc
  obtain rfl := Option.some.inj hc
  exact Sys2Proof.plainChain_legal (Sys2Proof.page_le (by omega)) (by omega)

theorem Sys2Proof.Laws.ChainLegal.cpost (a b : Sys2Proof.GReg) :
    Sys2Proof.Laws.ChainLegal.Statement (.cpost a b) := by
  intro h c hc
  obtain rfl := Option.some.inj hc
  exact Sys2Proof.plainChain_legal (Sys2Proof.page_le (by omega)) (by omega)

theorem Sys2Proof.Laws.ChainLegal.gmask (v : Sys2Proof.VReg) (b : Sys2Proof.GReg) :
    Sys2Proof.Laws.ChainLegal.Statement (.gmask v b) := by
  intro h c hc
  obtain rfl := Option.some.inj hc
  exact Sys2Proof.plainChain_legal (Sys2Proof.page_le (by omega)) (by omega)

theorem Sys2Proof.Laws.ChainLegal.gstep (a b : Sys2Proof.GReg) :
    Sys2Proof.Laws.ChainLegal.Statement (.gstep a b) := by
  intro h c hc
  obtain rfl := Option.some.inj hc
  exact Sys2Proof.plainChain_legal (Sys2Proof.page_le (by omega)) (by omega)

theorem Sys2Proof.Laws.ChainLegal.mpop (a b : Sys2Proof.GReg) :
    Sys2Proof.Laws.ChainLegal.Statement (.mpop a b) := by
  intro h c hc
  obtain rfl := Option.some.inj hc
  exact Sys2Proof.plainChain_legal (Sys2Proof.page_le (by omega)) (by omega)

theorem Sys2Proof.Laws.ChainLegal.mstat (a b : Sys2Proof.GReg) :
    Sys2Proof.Laws.ChainLegal.Statement (.mstat a b) := by
  intro h c hc
  obtain rfl := Option.some.inj hc
  exact Sys2Proof.plainChain_legal (Sys2Proof.page_le (by omega)) (by omega)

theorem Sys2Proof.Laws.ChainLegal.crew (a b : Sys2Proof.GReg) :
    Sys2Proof.Laws.ChainLegal.Statement (.crew a b) := by
  intro h c hc
  obtain rfl := Option.some.inj hc
  exact Sys2Proof.plainChain_legal (Sys2Proof.page_le (by omega)) (by omega)

theorem Sys2Proof.Laws.ChainLegal.crewForm (c : Nat) (k : Fin 4) :
    Sys2Proof.Laws.ChainLegal.Statement (.crewForm c k) := by
  intro _ c h; cases h

theorem Sys2Proof.Laws.ChainLegal.split :
    Sys2Proof.Laws.ChainLegal.Statement (.split) := by
  intro h c hc
  obtain rfl := Option.some.inj hc
  exact Sys2Proof.plainChain_legal (Sys2Proof.page_le (by omega)) (by omega)

theorem Sys2Proof.Laws.ChainLegal.retx :
    Sys2Proof.Laws.ChainLegal.Statement (.retx) := by
  intro h c hc
  obtain rfl := Option.some.inj hc
  exact Sys2Proof.plainChain_legal (Sys2Proof.page_le (by omega)) (by omega)

theorem Sys2Proof.Laws.ChainLegal.ctxs (a b : Sys2Proof.GReg) :
    Sys2Proof.Laws.ChainLegal.Statement (.ctxs a b) := by
  intro h c hc
  obtain rfl := Option.some.inj hc
  exact Sys2Proof.plainChain_legal (Sys2Proof.page_le (by omega)) (by omega)

theorem Sys2Proof.Laws.ChainLegal.ctxl (a b : Sys2Proof.GReg) :
    Sys2Proof.Laws.ChainLegal.Statement (.ctxl a b) := by
  intro h c hc
  obtain rfl := Option.some.inj hc
  exact Sys2Proof.plainChain_legal (Sys2Proof.page_le (by omega)) (by omega)

theorem Sys2Proof.Laws.ChainLegal.tlbi (a b : Sys2Proof.GReg) :
    Sys2Proof.Laws.ChainLegal.Statement (.tlbi a b) := by
  intro h c hc
  obtain rfl := Option.some.inj hc
  exact Sys2Proof.plainChain_legal (Sys2Proof.page_le (by omega)) (by omega)

theorem Sys2Proof.Laws.ChainLegal.protw (a b : Sys2Proof.GReg) :
    Sys2Proof.Laws.ChainLegal.Statement (.protw a b) := by
  intro h c hc
  obtain rfl := Option.some.inj hc
  exact Sys2Proof.plainChain_legal (Sys2Proof.page_le (by omega)) (by omega)

theorem Sys2Proof.Laws.ChainLegal.halt :
    Sys2Proof.Laws.ChainLegal.Statement (.halt) := by
  intro h c hc
  obtain rfl := Option.some.inj hc
  exact Sys2Proof.plainChain_legal (Sys2Proof.page_le (by omega)) (by omega)

theorem Sys2Proof.Laws.ChainLegal.eventLineSet (c : Nat) (k : Fin 4) :
    Sys2Proof.Laws.ChainLegal.Statement (.eventLineSet c k) := by
  intro _ c h; cases h

theorem Sys2Proof.Laws.ChainLegal.eventLineWait (c : Nat) (k : Fin 4) :
    Sys2Proof.Laws.ChainLegal.Statement (.eventLineWait c k) := by
  intro _ c h; cases h

theorem Sys2Proof.Laws.ChainLegal.eventLineClear (c : Nat) (k : Fin 4) :
    Sys2Proof.Laws.ChainLegal.Statement (.eventLineClear c k) := by
  intro _ c h; cases h

theorem Sys2Proof.Laws.ChainLegal.eventLineTest (c : Nat) (k : Fin 4) :
    Sys2Proof.Laws.ChainLegal.Statement (.eventLineTest c k) := by
  intro _ c h; cases h

theorem Sys2Proof.Laws.ChainLegal.mutexTake (c : Nat) (k : Fin 4) :
    Sys2Proof.Laws.ChainLegal.Statement (.mutexTake c k) := by
  intro _ c h; cases h

theorem Sys2Proof.Laws.ChainLegal.mutexFree (c : Nat) (k : Fin 4) :
    Sys2Proof.Laws.ChainLegal.Statement (.mutexFree c k) := by
  intro _ c h; cases h

theorem Sys2Proof.Laws.ChainLegal.clusterBarrierCount (c : Nat) (k : Fin 4) :
    Sys2Proof.Laws.ChainLegal.Statement (.clusterBarrierCount c k) := by
  intro _ c h; cases h

theorem Sys2Proof.Laws.ChainLegal.clusterBarrierArrive (c : Nat) (k : Fin 4) :
    Sys2Proof.Laws.ChainLegal.Statement (.clusterBarrierArrive c k) := by
  intro _ c h; cases h

theorem Sys2Proof.Laws.ChainLegal.clusterPowerUp (cl : Nat) :
    Sys2Proof.Laws.ChainLegal.Statement (.clusterPowerUp cl) := by
  intro _ c h; cases h

theorem Sys2Proof.Laws.ChainLegal.arrivalSweep (c : Nat) (d : Fin 8) :
    Sys2Proof.Laws.ChainLegal.Statement (.arrivalSweep c d) := by
  intro _ c h; cases h

theorem Sys2Proof.Laws.ChainLegal.domainRelease (c : Nat) (d : Fin 8) :
    Sys2Proof.Laws.ChainLegal.Statement (.domainRelease c d) := by
  intro _ c h; cases h

theorem Sys2Proof.Laws.ChainLegal.exchangeWrite (c : Nat) (d : Fin 8) (n : Nat) :
    Sys2Proof.Laws.ChainLegal.Statement (.exchangeWrite c d n) := by
  intro _ c h; cases h

theorem Sys2Proof.Laws.ChainLegal.exchangeDrained (c : Nat) (d : Fin 8) :
    Sys2Proof.Laws.ChainLegal.Statement (.exchangeDrained c d) := by
  intro _ c h; cases h

theorem Sys2Proof.Laws.ChainLegal.exchangeMessageArrival (n : Nat) :
    Sys2Proof.Laws.ChainLegal.Statement (.exchangeMessageArrival n) := by
  intro _ c h; cases h

theorem Sys2Proof.Laws.ChainLegal.remoteAccess (n : Nat) :
    Sys2Proof.Laws.ChainLegal.Statement (.remoteAccess n) := by
  intro _ c h; cases h

theorem Sys2Proof.Laws.ChainLegal.deferredTrap (c : Nat) (k : Fin 4) :
    Sys2Proof.Laws.ChainLegal.Statement (.deferredTrap c k) := by
  intro _ c h; cases h

theorem Sys2Proof.Laws.ChainLegal.mma (c : Nat) :
    Sys2Proof.Laws.ChainLegal.Statement (.mma c) := by
  intro _ c h; cases h

theorem Sys2Proof.Laws.ChainLegal.mmas (c : Nat) :
    Sys2Proof.Laws.ChainLegal.Statement (.mmas c) := by
  intro _ c h; cases h

theorem Sys2Proof.Laws.ChainLegal.mmad (c : Nat) :
    Sys2Proof.Laws.ChainLegal.Statement (.mmad c) := by
  intro _ c h; cases h

theorem Sys2Proof.Laws.ChainLegal.mmai (c : Nat) :
    Sys2Proof.Laws.ChainLegal.Statement (.mmai c) := by
  intro _ c h; cases h

theorem Sys2Proof.Laws.ChainLegal.matrixCompletion (c : Nat) :
    Sys2Proof.Laws.ChainLegal.Statement (.matrixCompletion c) := by
  intro _ c h; cases h

theorem Sys2Proof.Laws.ChainLegal.copy (n : Nat) :
    Sys2Proof.Laws.ChainLegal.Statement (.copy n) := by
  intro _ c h; cases h

theorem Sys2Proof.Laws.ChainLegal.copyh (n : Nat) :
    Sys2Proof.Laws.ChainLegal.Statement (.copyh n) := by
  intro _ c h; cases h

theorem Sys2Proof.Laws.ChainLegal.copyCompletion (c : Nat) :
    Sys2Proof.Laws.ChainLegal.Statement (.copyCompletion c) := by
  intro _ c h; cases h

theorem Sys2Proof.Laws.ChainLegal.hemTileArrival (n : Nat) :
    Sys2Proof.Laws.ChainLegal.Statement (.hemTileArrival n) := by
  intro _ c h; cases h

theorem Sys2Proof.Laws.ChainLegal.lexe (cl : Nat) :
    Sys2Proof.Laws.ChainLegal.Statement (.lexe cl) := by
  intro _ c h; cases h

theorem Sys2Proof.Laws.ChainLegal.lexd (cl : Nat) :
    Sys2Proof.Laws.ChainLegal.Statement (.lexd cl) := by
  intro _ c h; cases h

theorem Sys2Proof.Laws.ChainLegal.lexiconCompletion (c : Nat) :
    Sys2Proof.Laws.ChainLegal.Statement (.lexiconCompletion c) := by
  intro _ c h; cases h

theorem Sys2Proof.Laws.ChainLegal.gatherArrival (n : Nat) :
    Sys2Proof.Laws.ChainLegal.Statement (.gatherArrival n) := by
  intro _ c h; cases h

theorem Sys2Proof.Laws.ChainLegal.gatherDeadline (id x b : Nat) :
    Sys2Proof.Laws.ChainLegal.Statement (.gatherDeadline id x b) := by
  intro _ c h; cases h

theorem Sys2Proof.Laws.ChainLegal.memberFailed (id x m : Nat) :
    Sys2Proof.Laws.ChainLegal.Statement (.memberFailed id x m) := by
  intro _ c h; cases h

theorem Sys2Proof.Laws.ChainLegal.drawEnd (id x b : Nat) :
    Sys2Proof.Laws.ChainLegal.Statement (.drawEnd id x b) := by
  intro _ c h; cases h

theorem Sys2Proof.Laws.ChainLegal.batchSwap (id x : Nat) :
    Sys2Proof.Laws.ChainLegal.Statement (.batchSwap id x) := by
  intro _ c h; cases h

theorem Sys2Proof.Laws.ChainLegal.timerRelease (n : Nat) :
    Sys2Proof.Laws.ChainLegal.Statement (.timerRelease n) := by
  intro _ c h; cases h

theorem Sys2Proof.Laws.ChainLegal.timerQueueAppend (n : Nat) :
    Sys2Proof.Laws.ChainLegal.Statement (.timerQueueAppend n) := by
  intro _ c h; cases h

theorem Sys2Proof.Laws.ChainLegal.mediaTick (id h : Nat) :
    Sys2Proof.Laws.ChainLegal.Statement (.mediaTick id h) := by
  intro _ c h; cases h

theorem Sys2Proof.Laws.ChainLegal.mediaTickElement (id h : Nat) :
    Sys2Proof.Laws.ChainLegal.Statement (.mediaTickElement id h) := by
  intro _ c h; cases h

theorem Sys2Proof.Laws.ChainLegal.mediaRecord (id : Nat) (r : BitVec 256) :
    Sys2Proof.Laws.ChainLegal.Statement (.mediaRecord id r) := by
  intro _ c h; cases h

theorem Sys2Proof.Laws.ChainLegal.timeLock (tai : Sys2Proof.Word) :
    Sys2Proof.Laws.ChainLegal.Statement (.timeLock tai) := by
  intro _ c h; cases h

theorem Sys2Proof.Laws.ChainLegal.timeFollow :
    Sys2Proof.Laws.ChainLegal.Statement (.timeFollow) := by
  intro _ c h; cases h

theorem Sys2Proof.Laws.ChainLegal.timeHoldover :
    Sys2Proof.Laws.ChainLegal.Statement (.timeHoldover) := by
  intro _ c h; cases h

theorem Sys2Proof.Laws.ChainLegal.commandDoorbell (p : Nat) :
    Sys2Proof.Laws.ChainLegal.Statement (.commandDoorbell p) := by
  intro _ c h; cases h

theorem Sys2Proof.Laws.ChainLegal.queueDoorbell (q : Nat) (w : Sys2Proof.Word) :
    Sys2Proof.Laws.ChainLegal.Statement (.queueDoorbell q w) := by
  intro _ c h; cases h

theorem Sys2Proof.Laws.ChainLegal.claim (p : Nat) :
    Sys2Proof.Laws.ChainLegal.Statement (.claim p) := by
  intro _ c h; cases h

theorem Sys2Proof.Laws.ChainLegal.unclaim (p : Nat) :
    Sys2Proof.Laws.ChainLegal.Statement (.unclaim p) := by
  intro _ c h; cases h

theorem Sys2Proof.Laws.ChainLegal.qcreate (p : Nat) :
    Sys2Proof.Laws.ChainLegal.Statement (.qcreate p) := by
  intro _ c h; cases h

theorem Sys2Proof.Laws.ChainLegal.qreset (p : Nat) :
    Sys2Proof.Laws.ChainLegal.Statement (.qreset p) := by
  intro _ c h; cases h

theorem Sys2Proof.Laws.ChainLegal.qdestroy (p : Nat) :
    Sys2Proof.Laws.ChainLegal.Statement (.qdestroy p) := by
  intro _ c h; cases h

theorem Sys2Proof.Laws.ChainLegal.seed (p : Nat) :
    Sys2Proof.Laws.ChainLegal.Statement (.seed p) := by
  intro _ c h; cases h

theorem Sys2Proof.Laws.ChainLegal.vocab (p : Nat) :
    Sys2Proof.Laws.ChainLegal.Statement (.vocab p) := by
  intro _ c h; cases h

theorem Sys2Proof.Laws.ChainLegal.media (p : Nat) :
    Sys2Proof.Laws.ChainLegal.Statement (.media p) := by
  intro _ c h; cases h

theorem Sys2Proof.Laws.ChainLegal.map (p : Nat) :
    Sys2Proof.Laws.ChainLegal.Statement (.map p) := by
  intro _ c h; cases h

theorem Sys2Proof.Laws.ChainLegal.attest (p : Nat) :
    Sys2Proof.Laws.ChainLegal.Statement (.attest p) := by
  intro _ c h; cases h

theorem Sys2Proof.Laws.ChainLegal.placementRound (id : Nat) :
    Sys2Proof.Laws.ChainLegal.Statement (.placementRound id) := by
  intro _ c h; cases h

theorem Sys2Proof.Laws.ChainLegal.entryRelease (l g : Nat) :
    Sys2Proof.Laws.ChainLegal.Statement (.entryRelease l g) := by
  intro _ c h; cases h

theorem Sys2Proof.Laws.ChainLegal.launchEnd (l : Nat) :
    Sys2Proof.Laws.ChainLegal.Statement (.launchEnd l) := by
  intro _ c h; cases h

theorem Sys2Proof.Laws.ChainLegal.barrier (q : Nat) :
    Sys2Proof.Laws.ChainLegal.Statement (.barrier q) := by
  intro _ c h; cases h

theorem Sys2Proof.Laws.ChainLegal.barrierComplete (q n : Nat) :
    Sys2Proof.Laws.ChainLegal.Statement (.barrierComplete q n) := by
  intro _ c h; cases h

theorem Sys2Proof.Laws.ChainLegal.copyPacket (q : Nat) :
    Sys2Proof.Laws.ChainLegal.Statement (.copyPacket q) := by
  intro _ c h; cases h

theorem Sys2Proof.Laws.ChainLegal.timerArmAbsolute (q : Nat) :
    Sys2Proof.Laws.ChainLegal.Statement (.timerArmAbsolute q) := by
  intro _ c h; cases h

theorem Sys2Proof.Laws.ChainLegal.timerArmPeriodic (q : Nat) :
    Sys2Proof.Laws.ChainLegal.Statement (.timerArmPeriodic q) := by
  intro _ c h; cases h

theorem Sys2Proof.Laws.ChainLegal.timerDisarm (q : Nat) :
    Sys2Proof.Laws.ChainLegal.Statement (.timerDisarm q) := by
  intro _ c h; cases h

theorem Sys2Proof.Laws.ChainLegal.signalStore (q : Nat) :
    Sys2Proof.Laws.ChainLegal.Statement (.signalStore q) := by
  intro _ c h; cases h

theorem Sys2Proof.Laws.ChainLegal.signalAdd (q : Nat) :
    Sys2Proof.Laws.ChainLegal.Statement (.signalAdd q) := by
  intro _ c h; cases h

theorem Sys2Proof.Laws.ChainLegal.signalDecrement (q : Nat) :
    Sys2Proof.Laws.ChainLegal.Statement (.signalDecrement q) := by
  intro _ c h; cases h

theorem Sys2Proof.Laws.ChainLegal.committeeStart (q : Nat) :
    Sys2Proof.Laws.ChainLegal.Statement (.committeeStart q) := by
  intro _ c h; cases h

theorem Sys2Proof.Laws.ChainLegal.committeeSequence (q : Nat) :
    Sys2Proof.Laws.ChainLegal.Statement (.committeeSequence q) := by
  intro _ c h; cases h

theorem Sys2Proof.Laws.ChainLegal.committeeStop (q : Nat) :
    Sys2Proof.Laws.ChainLegal.Statement (.committeeStop q) := by
  intro _ c h; cases h

theorem Sys2Proof.Laws.ChainLegal.nop (q : Nat) :
    Sys2Proof.Laws.ChainLegal.Statement (.nop q) := by
  intro _ c h; cases h

theorem Sys2Proof.Laws.ChainLegal.quantumEnd (l : Nat) :
    Sys2Proof.Laws.ChainLegal.Statement (.quantumEnd l) := by
  intro _ c h; cases h

theorem Sys2Proof.Laws.ChainLegal.preemptRequest (l : Nat) :
    Sys2Proof.Laws.ChainLegal.Statement (.preemptRequest l) := by
  intro _ c h; cases h

theorem Sys2Proof.Laws.ChainLegal.forcedPreempt (l : Nat) :
    Sys2Proof.Laws.ChainLegal.Statement (.forcedPreempt l) := by
  intro _ c h; cases h

theorem Sys2Proof.Laws.ChainLegal.powerGood (wide : Bool) (absent : List Nat) (valid : Bool) :
    Sys2Proof.Laws.ChainLegal.Statement (.powerGood wide absent valid) := by
  intro _ c h; cases h

theorem Sys2Proof.Laws.ChainLegal.functionReady (f : Fin 5) :
    Sys2Proof.Laws.ChainLegal.Statement (.functionReady f) := by
  intro _ c h; cases h

theorem Sys2Proof.Laws.ChainLegal.linkFailure (p : Fin 12) :
    Sys2Proof.Laws.ChainLegal.Statement (.linkFailure p) := by
  intro _ c h; cases h

theorem Sys2Proof.Laws.ChainLegal.throttleBubble (n : Nat) :
    Sys2Proof.Laws.ChainLegal.Statement (.throttleBubble n) := by
  intro _ c h; cases h

theorem Sys2Proof.Laws.ChainLegal.powerCapWrite (w : Sys2Proof.Word) :
    Sys2Proof.Laws.ChainLegal.Statement (.powerCapWrite w) := by
  intro _ c h; cases h

theorem Sys2Proof.Laws.ChainLegal.deviceStatusRead :
    Sys2Proof.Laws.ChainLegal.Statement (.deviceStatusRead) := by
  intro _ c h; cases h

theorem Sys2Proof.Laws.ChainLegal.illegalInstruction (n : Nat) (detail : Fin 3) :
    Sys2Proof.Laws.ChainLegal.Statement (.illegalInstruction n detail) := by
  intro _ c h; cases h

theorem Sys2Proof.Laws.ChainLegal.fetchFault :
    Sys2Proof.Laws.ChainLegal.Statement (.fetchFault) := by
  intro _ c h; cases h

theorem Sys2Proof.Laws.ChainLegal.lockRegained :
    Sys2Proof.Laws.ChainLegal.Statement (.lockRegained) := by
  intro _ c h; cases h

theorem Sys2Proof.Laws.ChainLegal.powerGate (cl : Nat) :
    Sys2Proof.Laws.ChainLegal.Statement (.powerGate cl) := by
  intro _ c h; cases h

theorem Sys2Proof.Laws.ChainLegal.hostStore (p n : Nat) (w : Sys2Proof.Word) :
    Sys2Proof.Laws.ChainLegal.Statement (.hostStore p n w) := by
  intro _ c h; cases h

theorem Sys2Proof.Laws.ChainLegal.peerAccess (p n : Nat) (op : Fin 12) (w w' : Sys2Proof.Word) :
    Sys2Proof.Laws.ChainLegal.Statement (.peerAccess p n op w w') := by
  intro _ c h; cases h
end

