-- ==== Sys2Proof/Tests/Slice0.lean ====
section
/-! SUPPORT. Tests: a word of every instruction of a slot, written out from the encoding tables of spec/03 and the operand
forms of spec/20-22, with what it decodes to; an ill-formed term for every check of WellFormed; and, for each statement for
the provers, states and operands that meet the hypotheses of its clauses. -/

namespace Sys2Proof.Tests

open Sys2Proof.Machine Sys2Proof.Claims

-- One theorem after another: the kernel evaluates in most of them, and many at once would need many stacks.
set_option Elab.async false

theorem test_decode_scalar0 :
    decode [0x00A6] = .ok (.ill 5 6) 1 ∧
    decode [0xFF03, 0x04A6] = .ok (.mov 5 6 .b) 2 ∧
    decode [0xFC01, 0x08A6] = .ok (.li 5 38) 2 ∧
    decode [0xFF06, 0xFD38, 0x0CA6] = .ok (.add 5 6 (some 7) .hz) 3 ∧
    decode [0xFF06, 0xFD38, 0x10A6] = .ok (.sub 5 6 (some 7) .hz) 3 ∧
    decode [0xFF06, 0xFD38, 0x14A6] = .ok (.and 5 6 (some 7) .hz) 3 ∧
    decode [0xFF06, 0xFD38, 0x18A6] = .ok (.or 5 6 (some 7) .hz) 3 ∧
    decode [0xFF06, 0xFD38, 0x1CA6] = .ok (.xor 5 6 (some 7) .hz) 3 ∧
    decode [0xFF06, 0xFD38, 0x20A6] = .ok (.shl 5 6 (some 7) .hz) 3 ∧
    decode [0xFF06, 0xFD38, 0x24A6] = .ok (.shr 5 6 (some 7) .hz) 3 ∧
    decode [0xFF06, 0xFD38, 0x28A6] = .ok (.sra 5 6 (some 7) .hz) 3 ∧
    decode [0xFF05, 0xFCFF, 0x2CBB] = .ok (.addi 5 (-5) .wz) 3 := by decide

theorem test_decode_scalar1 :
    decode [0xFF06, 0xFD38, 0x30A6] = .ok (.mul 5 6 (some 7) .hz) 3 ∧
    decode [0xFF06, 0xFD38, 0x34A6] = .ok (.mulh 5 6 (some 7) .hz) 3 ∧
    decode [0xFF06, 0xFD38, 0x38A6] = .ok (.div 5 6 (some 7) .hz) 3 ∧
    decode [0xFF06, 0xFD38, 0x3CA6] = .ok (.rem 5 6 (some 7) .hz) 3 ∧
    decode [0xFF06, 0xFD38, 0x40A6] = .ok (.slt 5 6 (some 7) .hz) 3 ∧
    decode [0xFF03, 0x44A6] = .ok (.clz 5 6 .b) 2 ∧
    decode [0xFF03, 0x48A6] = .ok (.popc 5 6 .b) 2 ∧
    decode [0xFF06, 0xFD38, 0x4CA6] = .ok (.clmul 5 6 (some 7) .hz) 3 ∧
    decode [0xFF06, 0xFD38, 0x50A6] = .ok (.clmulh 5 6 (some 7) .hz) 3 ∧
    decode [0xFCF0, 0x54A6] = .ok (.padd 5 6 (-16)) 2 ∧
    decode [0x58A6] = .ok (.pset 5 6) 1 ∧
    decode [0x5CA6] = .ok (.pget 5 6) 1 := by decide

theorem test_decode_scalar2 :
    decode [0xFF15, 0xFD3B, 0xFC10, 0x60A6] = .ok (.ld 5 6 (some ⟨7, 3⟩) 16 .wz .co .acq) 4 ∧
    decode [0xFFE1, 0xFD3A, 0xFC80, 0x64A6] = .ok (.st 5 6 (some ⟨7, 2⟩) (-128) .w .sy .rel) 4 ∧
    decode [0xFC01, 0x68A6] = .ok (.bz 5 38) 2 ∧
    decode [0xFC01, 0x6CA6] = .ok (.bnz 5 38) 2 ∧
    decode [0xFC01, 0x70A6] = .ok (.bltz 5 38) 2 ∧
    decode [0xFC01, 0x74A6] = .ok (.bgez 5 38) 2 ∧
    decode [0xFC01, 0x7803] = .ok (.j 1027) 2 ∧
    decode [0xFC01, 0x7C03] = .ok (.jal 1027) 2 ∧
    decode [0x80A6] = .ok (.jr 5 6) 1 ∧
    decode [0xFC03, 0x8404] = .ok (.pause 100) 2 ∧
    decode [0xFFB0, 0x8800] = .ok (.fence .dv .ar) 2 ∧
    decode [0x8C00] = .ok (.ifence) 1 := by decide

theorem test_decode_scalar3 :
    decode [0xFC02, 0x90A1] = .ok (.csrr 5 0x41) 2 ∧
    decode [0xFC02, 0x94A1] = .ok (.csrw 5 0x41) 2 ∧
    decode [0x9807] = .ok (.sync 7) 1 ∧
    decode [0x9C07] = .ok (.arrive 7) 1 ∧
    decode [0xA007] = .ok (.waitb 7) 1 ∧
    decode [0xFC03, 0xA404] = .ok (.trap 100) 2 ∧
    decode [0xFF06, 0xFD38, 0xA8A6] = .ok (.min 5 6 (some 7) .hz) 3 ∧
    decode [0xFF06, 0xFD38, 0xACA6] = .ok (.max 5 6 (some 7) .hz) 3 ∧
    decode [0xB046] = .ok (.epush 2 6) 1 ∧
    decode [0xB4A6] = .ok (.qpush 5 6) 1 ∧
    decode [0xB8A0] = .ok (.clkr 5) 1 ∧
    decode [0xFC02, 0xFC08, 0xBCA6] = .ok (.bfx 5 6 8 8) 3 := by decide

theorem test_decode_scalar4 :
    decode [0xFC02, 0xFC08, 0xC0A6] = .ok (.bfi 5 6 8 8) 3 := by decide

theorem test_decode_atomic0 :
    decode [0xFE01, 0xFF64, 0xFD38, 0x00A6] = .ok (.aadd 5 6 (some 7) .dz .cl .rel) 4 ∧
    decode [0xFE01, 0xFF64, 0xFD38, 0x04A6] = .ok (.aand 5 6 (some 7) .dz .cl .rel) 4 ∧
    decode [0xFE01, 0xFF64, 0xFD38, 0x08A6] = .ok (.aor 5 6 (some 7) .dz .cl .rel) 4 ∧
    decode [0xFE01, 0xFF64, 0xFD38, 0x0CA6] = .ok (.axor 5 6 (some 7) .dz .cl .rel) 4 ∧
    decode [0xFE01, 0xFF64, 0xFD38, 0x10A6] = .ok (.amin 5 6 (some 7) .dz .cl .rel) 4 ∧
    decode [0xFE01, 0xFF64, 0xFD38, 0x14A6] = .ok (.amax 5 6 (some 7) .dz .cl .rel) 4 ∧
    decode [0xFE01, 0xFF64, 0xFD38, 0x18A6] = .ok (.aswp 5 6 (some 7) .dz .cl .rel) 4 ∧
    decode [0xFE01, 0xFFA1, 0x20A6] = .ok (.upd 5 6 .w .dv .rel) 3 ∧
    decode [0xFE01, 0x24A6] = .ok (.updcfg 5 6) 2 ∧
    decode [0xFE01, 0x2866] = .ok (.scfg 3 6) 2 ∧
    decode [0xFE01, 0x2C61] = .ok (.senEnable 3) 2 ∧
    decode [0xFE01, 0x2C60] = .ok (.senDisable 3) 2 := by decide

theorem test_decode_atomic1 :
    decode [0xFE01, 0xFC40, 0x3026] = .ok (.pref 1 6 64) 3 ∧
    decode [0xFE01, 0xFF71, 0xFD38, 0x1CA6] = .ok (.acas 5 6 7 .w .cl .ar) 4 := by decide

theorem test_decode_vector0 :
    decode [0xFE02, 0xFF04, 0xFD03, 0xFC80, 0x00A6] = .ok (.vld 5 6 (-128) 3 .i16) 5 ∧
    decode [0xFE02, 0xFF04, 0xFD03, 0xFC80, 0x04A6] = .ok (.vst 5 6 (-128) 3 .i16) 5 ∧
    decode [0xFE02, 0xFF08, 0xFD03, 0xFC80, 0x08A6] = .ok (.vldc 5 6 (-128) 3 none) 5 ∧
    decode [0xFE02, 0xFF04, 0xFD03, 0xFC80, 0x0CA6] = .ok (.vstc 5 6 (-128) 3 .i16) 5 ∧
    decode [0xFE02, 0xFF02, 0xFDFF, 0x10A6] = .ok (.vadd 5 6 (some ⟨31, 7⟩) .fp16) 4 ∧
    decode [0xFE02, 0xFF02, 0xFDFF, 0x14A6] = .ok (.vsub 5 6 (some ⟨31, 7⟩) .fp16) 4 ∧
    decode [0xFE02, 0xFF02, 0xFDFF, 0x18A6] = .ok (.vmul 5 6 (some ⟨31, 7⟩) .fp16) 4 ∧
    decode [0xFE02, 0xFF02, 0xFDFF, 0x20A6] = .ok (.vmin 5 6 (some ⟨31, 7⟩) .fp16) 4 ∧
    decode [0xFE02, 0xFF02, 0xFDFF, 0x24A6] = .ok (.vmax 5 6 (some ⟨31, 7⟩) .fp16) 4 ∧
    decode [0xFE02, 0xFF01, 0xFD07, 0x28A6] = .ok (.vabs 5 6 7 .bf16) 4 ∧
    decode [0xFE02, 0xFF01, 0xFD07, 0x2CA6] = .ok (.vneg 5 6 7 .bf16) 4 ∧
    decode [0xFE02, 0xFF01, 0xFD07, 0x30A6] = .ok (.vexp 5 6 7 .bf16) 4 := by decide

theorem test_decode_vector1 :
    decode [0xFE02, 0xFF01, 0xFD07, 0x34A6] = .ok (.vln 5 6 7 .bf16) 4 ∧
    decode [0xFE02, 0xFF01, 0xFD07, 0x38A6] = .ok (.vrcp 5 6 7 .bf16) 4 ∧
    decode [0xFE02, 0xFF01, 0xFD07, 0x3CA6] = .ok (.vrsq 5 6 7 .bf16) 4 ∧
    decode [0xFE02, 0xFF07, 0x50A6] = .ok (.vbcast 5 6 .i64) 3 ∧
    decode [0xFE02, 0xFF01, 0xFD07, 0x64A6] = .ok (.vpack 5 6 7 .bf16) 4 ∧
    decode [0xFE02, 0xFF01, 0xFD07, 0x68A6] = .ok (.vcmpk 5 6 7 .bf16) 4 ∧
    decode [0xFE02, 0xFF01, 0xFD02, 0x6C06] = .ok (.vrsum 6 2 .bf16) 4 ∧
    decode [0xFE02, 0xFF01, 0xFD02, 0x7006] = .ok (.vrmax 6 2 .bf16) 4 ∧
    decode [0xFE02, 0xFF01, 0xFD02, 0x7406] = .ok (.vargmx 6 2 .bf16) 4 ∧
    decode [0xFE02, 0x8606] = .ok (.vloop 16 6) 2 ∧
    decode [0xFE02, 0xFF02, 0xFDFF, 0x88A6] = .ok (.vand 5 6 (some ⟨31, 7⟩) .fp16) 4 ∧
    decode [0xFE02, 0xFF02, 0xFDFF, 0x8CA6] = .ok (.vor 5 6 (some ⟨31, 7⟩) .fp16) 4 := by decide

theorem test_decode_vector2 :
    decode [0xFE02, 0xFF02, 0xFDFF, 0x90A6] = .ok (.vxor 5 6 (some ⟨31, 7⟩) .fp16) 4 ∧
    decode [0xFE02, 0xFD38, 0x9CA6] = .ok (.kand 5 6 (some 7)) 3 ∧
    decode [0xFE02, 0xFD38, 0xA0A6] = .ok (.kor 5 6 (some 7)) 3 ∧
    decode [0xFE02, 0xA4A6] = .ok (.knot 5 6) 2 ∧
    decode [0xFE02, 0xA8B1] = .ok (.kmovKFromG 5 17) 2 ∧
    decode [0xFE02, 0xFF03, 0xFDFF, 0x1CA6] = .ok (.vfma 5 6 31 7 .i32) 4 ∧
    decode [0xFE02, 0xFF06, 0xFDFF, 0x40A6] = .ok (.vclt 5 6 31 7 .fp64) 4 ∧
    decode [0xFE02, 0xFF06, 0xFDFF, 0x44A6] = .ok (.vcle 5 6 31 7 .fp64) 4 ∧
    decode [0xFE02, 0xFF06, 0xFDFF, 0x48A6] = .ok (.vceq 5 6 31 7 .fp64) 4 ∧
    decode [0xFE02, 0xFF03, 0xFDFF, 0x4CA6] = .ok (.vsel 5 6 31 7 .i32) 4 ∧
    decode [0xFE02, 0xFF05, 0xFC3F, 0x54A6] = .ok (.vmovg 5 6 63 .i8) 4 ∧
    decode [0xFE02, 0xFF05, 0xFC3F, 0x58A6] = .ok (.vmovv 5 6 63 .i8) 4 := by decide

theorem test_decode_vector3 :
    decode [0xFE02, 0xFF03, 0xFDFF, 0x5CA6] = .ok (.vgath 5 6 31 7 .i32) 4 ∧
    decode [0xFE02, 0xFF03, 0xFDFF, 0x60A6] = .ok (.vscat 5 6 31 7 .i32) 4 ∧
    decode [0xFE02, 0xFF01, 0xFD1A, 0x78A6] = .ok (.vcvt 5 6 .i32 2 .bf16) 4 ∧
    decode [0xFE02, 0xFF05, 0xFD02, 0xFC4B, 0x7CA6] = .ok (.vhad 5 6 3 9 2 .i8) 5 ∧
    decode [0xFE02, 0xFF05, 0xFD02, 0xFC4B, 0x80A6] = .ok (.vihad 5 6 3 9 2 .i8) 5 ∧
    decode [0xFE02, 0xFF04, 0xFDFF, 0x94A6] = .ok (.vshl 5 6 (some ⟨31, 7⟩) .i16) 4 ∧
    decode [0xFE02, 0xFF04, 0xFDFF, 0x98A6] = .ok (.vshr 5 6 (some ⟨31, 7⟩) .i16) 4 ∧
    decode [0xFE02, 0xFD01, 0xAA25] = .ok (.kmovGFromK 17 5) 3 ∧
    decode [0xFE02, 0xFD02, 0xA8A6] = .ok (.kmovKFromK 5 6) 3 := by decide

theorem test_decode_tile0 :
    decode [0xFE03, 0x0006] = .ok (.tzero 6) 2 ∧
    decode [0xFE03, 0xFC40, 0x04A6] = .ok (.tload 5 6 64) 3 ∧
    decode [0xFE03, 0xFC40, 0x08A6] = .ok (.tsave 5 6 64) 3 ∧
    decode [0xFE03, 0x0CA6] = .ok (.tstat 5 6) 2 ∧
    decode [0xFE03, 0x1006] = .ok (.twait 6) 2 ∧
    decode [0xFE03, 0x1406] = .ok (.tdrop 6) 2 := by decide

theorem test_decode_committee0 :
    decode [0xFE04, 0x00A6] = .ok (.asscfg 5 6) 2 ∧
    decode [0xFE04, 0x04A6] = .ok (.assay 5 6) 2 ∧
    decode [0xFE04, 0x08A6] = .ok (.draw 5 6) 2 ∧
    decode [0xFE04, 0x0CA6] = .ok (.carrive 5 6) 2 ∧
    decode [0xFE04, 0x10A6] = .ok (.cwait 5 6) 2 ∧
    decode [0xFE04, 0x14A6] = .ok (.cpost 5 6) 2 ∧
    decode [0xFE04, 0x18A6] = .ok (.gmask 5 6) 2 ∧
    decode [0xFE04, 0x1CA6] = .ok (.gstep 5 6) 2 ∧
    decode [0xFE04, 0x20A6] = .ok (.mpop 5 6) 2 ∧
    decode [0xFE04, 0x24A6] = .ok (.mstat 5 6) 2 := by decide

theorem test_decode_system0 :
    decode [0xFE05, 0x00A6] = .ok (.crew 5 6) 2 ∧
    decode [0xFE05, 0x0400] = .ok (.split) 2 ∧
    decode [0xFE05, 0x0800] = .ok (.retx) 2 ∧
    decode [0xFE05, 0x0CA6] = .ok (.ctxs 5 6) 2 ∧
    decode [0xFE05, 0x10A6] = .ok (.ctxl 5 6) 2 ∧
    decode [0xFE05, 0x14A6] = .ok (.tlbi 5 6) 2 ∧
    decode [0xFE05, 0x18A6] = .ok (.protw 5 6) 2 ∧
    decode [0xFE05, 0x1C00] = .ok (.halt) 2 := by decide

/-! ### Ill-formed terms are refused -/

theorem test_illFormed_immediates :
    (Instr.li 5 (2 ^ 36)).wellFormed = false ∧ (Instr.addi 5 (2 ^ 28) .w).wellFormed = false ∧
    (Instr.padd 5 6 (2 ^ 31)).wellFormed = false ∧ (Instr.bz 5 (-2 ^ 36 - 1)).wellFormed = false ∧
    (Instr.j (2 ^ 41)).wellFormed = false ∧ (Instr.jal (-2 ^ 41 - 1)).wellFormed = false ∧
    (Instr.pause (2 ^ 36)).wellFormed = false ∧ (Instr.trap (2 ^ 36)).wellFormed = false ∧
    (Instr.pref 1 6 (2 ^ 23)).wellFormed = false ∧ (Instr.tload 1 6 (2 ^ 23)).wellFormed = false ∧
    (Instr.tsave 1 6 (2 ^ 23)).wellFormed = false := by decide

theorem test_illFormed_displacements :
    (Instr.ld 5 6 (some ⟨7, 0⟩) (2 ^ 15) .w .co .rlx).wellFormed = false ∧
    (Instr.st 5 6 none (2 ^ 31) .d .co .rlx).wellFormed = false ∧
    (Instr.vld 1 6 (2 ^ 15) 1 .fp32).wellFormed = false ∧ (Instr.vst 1 6 (2 ^ 15) 0 .i8).wellFormed = false ∧
    (Instr.vldc 1 6 (2 ^ 15) 0 none).wellFormed = false ∧ (Instr.vstc 1 6 (2 ^ 7) 1 .i8).wellFormed = false := by decide

theorem test_illFormed_types_and_orders :
    (Instr.ld 5 6 none 0 .d .co .rel).wellFormed = false ∧ (Instr.st 5 6 none 0 .d .co .acq).wellFormed = false ∧
    (Instr.st 5 6 none 0 .wz .co .rlx).wellFormed = false ∧ (Instr.fence .co .rlx).wellFormed = false ∧
    (Instr.aadd 5 6 none .h .co .rlx).wellFormed = false ∧ (Instr.acas 5 6 7 .b .co .rlx).wellFormed = false ∧
    (Instr.upd 5 6 .h .co .rlx).wellFormed = false ∧ (Instr.upd 5 6 .d .sy .rlx).wellFormed = false ∧
    (Instr.upd 5 6 .d .co .acq).wellFormed = false ∧ (Instr.vexp 1 2 0 .i32).wellFormed = false ∧
    (Instr.vshl 1 2 none .fp32).wellFormed = false := by decide

theorem test_illFormed_numbers :
    (Instr.csrr 5 0x006).wellFormed = false ∧ (Instr.csrw 5 0x0A1).wellFormed = false ∧
    (Instr.bfx 5 6 64 1).wellFormed = false ∧ (Instr.bfi 5 6 60 5).wellFormed = false ∧
    (Instr.vmovg 5 1 16 .fp32).wellFormed = false ∧ (Instr.vmovv 1 5 8 .i64).wellFormed = false ∧
    (Instr.vhad 1 2 2 0 0 .fp32).wellFormed = false ∧ (Instr.vihad 1 2 1 0 0 .fp64).wellFormed = false ∧
    (Instr.vloop 0 5).wellFormed = false ∧ (Instr.vloop 17 5).wellFormed = false ∧
    (Instr.mma 5120).wellFormed = false ∧ (Instr.lexe 320).wellFormed = false ∧ (Instr.nop 1024).wellFormed = false ∧
    (Instr.powerGood false [5120] true).wellFormed = false := by decide

/-- A schedule that names an ill-formed row stops, by name. -/
theorem test_illFormed_refused :
    step { State.reset with schedule := [.event (.mma 5120)] } = .refused .illFormed ∧
    step { State.reset with schedule := [.slot 5120 0] } = .fault .noSuchCore := by
  constructor <;> rfl

/-! ### A word of the table, placed and run from reset -/

/-- g5 of slot 0 of core 1 after a step from reset with a word placed. -/
def g5After (nbits w : Nat) : Option Word :=
  match step (State.reset.withFetchWord nbits w) with
  | .next t => some (vget (t.slotOf 1 0).g 5 0)
  | .fault _ => none
  | .refused _ => none

-- LI g5, 38: an IMM of payload 1 and the field 6 (03 R51); CLZ g5, g1 of index 0 is 64 (20 R353).
theorem test_step_from_reset :
    decodeTableWord 32 0x08A6FC01 = some (.li 5 38) ∧ g5After 32 0x08A6FC01 = some 38 ∧ g5After 16 0x44A1 = some 64 := by
  decide +kernel

-- OPB with C = 1 where 0 is required: the base word carries the fault, DETAIL 0 (03 R53, step 4).
theorem test_decode_opb_c :
    decode [0xFE02, 0xFF01, 0xFD02, 0xFC40, 0x0886] = .ok (.vldc 4 6 64 2 (some .bf16)) 5 ∧
    decode [0xFE02, 0xFF01, 0xFD0A, 0xFC40, 0x0886] = .bad (.baseWord 4) ∧ (Reject.baseWord 4).detail = 0 := by decide

-- SHA-384 of "abc", from FIPS 180-4's example.
theorem test_sha384 :
    Machine.sha384 [0x61, 0x62, 0x63] = Machine.beBytes 48
      0xCB00753F45A35E8BB5A03D699AC65007272C32AB0EDED1631A8B605A43FF5BED8086072BA1E7CC2358BAECA134C825A7 := by
  decide +kernel

/-! ### Witnesses: for each statement, states and operands that meet the hypotheses of its clauses together -/

/-- A user launch of one slot on core 1. -/
def u1 : State := State.reset.bootUser 1
/-- The same with the slot changed. -/
def slotWith (f : Slot → Slot) : State := u1.modMe f
/-- The same with the core changed. -/
def coreWith (f : CoreState → CoreState) : State := u1.modMyCore f
/-- The same with general registers 5, 6 and 7. -/
def gWith (x y z : Word) : State := slotWith (fun t => { t with g := vset (vset (vset t.g 5 x) 6 y) 7 z })
/-- A slot whose sequencer holds one marker. -/
def busy : State := slotWith (fun t => { t with seq := [.mark 0 true] })
/-- A crew of the slot of `u1` alone. -/
def crew1 : Crew := ⟨0, 0, 1, 0, 0, [(1, 0)], []⟩
/-- The slot of the step on core 0, at firmware privilege. -/
def fw : State := { State.reset with cur := ⟨0, 0⟩ }
/-- An entry of claim 0 for the first 64 KiB page of translated space: its tier and its R and W. -/
def entryAt0 (tier rw : Nat) : Entry :=
  BitVec.ofNat 128 (2 ^ 63 + 0x10000000 + tier * 2 ^ 125 + rw * 2 ^ 121)
/-- `u1` with that translation cached and the pointer in g6. -/
def paged (tier rw : Nat) : State :=
  (gWith 0 0x100000000000 0).modMyCore (fun x => { x with tlb := [entryAt0 tier rw] })
/-- A store of 8 bytes at 0x100 that waits in the buffer. -/
def pending : Pend := ⟨0, (List.range 8).map (fun i => (sram 1 0x100 + i, BitVec.ofNat 8 (0x77 / 256 ^ i))), 0, none, none, false⟩
/-- A slot whose stores wait. -/
def deferring (l : List Pend) : State :=
  slotWith (fun t => { t with deferStores := true, buffer := l, g := vset t.g 6 0x100 })

/-- A computation answers this value. -/
def okIs {E A : Type} [DecidableEq A] (x : Except E A) (v : A) : Bool :=
  match x with
  | .ok w => decide (w = v)
  | .error _ => false

theorem okIs_iff {E A : Type} [DecidableEq A] {x : Except E A} {v : A} : okIs x v = true ↔ x = .ok v := by
  cases x <;> simp [okIs]

theorem witness_AluResults :
    okIs (u1.ports [6, 5] [5]) () ∧ okIs (u1.ports [6, 7] [29]) () ∧ (29 : GReg).val ≠ 25 ∧ alTable ≠ [] := by
  decide +kernel

theorem witness_RegisterResults :
    okIs (u1.ports [6] [5]) () ∧ (5 : GReg).val ≠ 25 ∧ fieldOk 0 64 = true ∧ fieldOk 63 1 = true ∧
    okIs (u1.ports [5] [5]) () ∧ okIs (u1.ports [6, 5] [5]) () ∧ inMap (paddSum (u1.peekG 5) (u1.readG 6).1 0) ∧
    ¬ inMap (paddSum (u1.peekG 5) (u1.readG 6).1 (-1)) ∧ tagOk (u1.readG 6).1 = true ∧
    tagOk ((gWith 0 1 0).readG 6).1 = false := by
  unfold inMap
  decide +kernel

theorem witness_RegisterFrames :
    (0 : GReg).val ≠ 25 ∧ okIs (u1.ports [6, (none : Option GReg).getD 5] [5]) () ∧ okIs (u1.ports [6] [0]) () ∧
    okIs (u1.ports [6, 0] [0]) () ∧ okIs (u1.ports [] [0]) () ∧ okIs (u1.ports [0] [0]) () := by
  decide +kernel

theorem witness_PortFields :
    u1.me.taken = none ∧ (27 : GReg).val ∈ [24, 26, 27, 28, 30, 31] ∧ u1.myCore.port 3 = [] ∧
    (coreWith (fun x => x.setPort 3 [7])).myCore.port 3 = [7] ∧
    (coreWith (fun x => x.setPort 3 [7])).me.taken = none ∧
    portDepth 5 ≤ ((coreWith (fun x => x.setPort 5 (List.replicate 16 0))).myCore.port 5).length ∧
    (u1.myCore.port 5).length < portDepth 5 := by
  decide +kernel

theorem witness_ControlFlow :
    u1.me.forced = none ∧ okIs (u1.ports [5] []) () ∧ decide ((u1.readG 5).1.toNat ≠ 0) = false ∧
    decide ((u1.readG 5).1.toNat = 0) = true ∧ inMap (u1.me.pc.toNat + 2 * 0) ∧ u1.me.pc.toNat + 2 * 0 ≠ 0x800000000000 ∧
    ¬ inMap (u1.me.pc.toNat + 2 * (-1)) ∧ (u1.me.pc.toNat : Int) + 2 * 0x400000000000 = 0x800000000000 ∧ u1.me.seq = [] ∧
    busy.me.seq ≠ [] ∧ busy.me.forced = none ∧ okIs (busy.ports [5] []) () ∧ okIs (u1.ports [6] [5]) () ∧ (u1.readG 6).1.toNat % 2 = 0 ∧
    (u1.readG 6).1.toNat < 0x800000000000 ∧ ((gWith 0 1 0).readG 6).1.toNat % 2 = 1 ∧
    okIs ((gWith 0 1 0).ports [6] [5]) () ∧
    (∀ s ∈ [gWith 0 0x800000000002 0, fw.modMe (fun t => { t with g := vset t.g 6 0x800000000002 })],
      s.me.forced = none ∧ okIs (s.ports [6] [5]) () ∧ (s.readG 6).1.toNat % 2 = 0 ∧
      0x800000000000 < (s.readG 6).1.toNat ∧ (s.readG 6).1.toNat < 2 ^ 48) ∧
    (gWith 0 0x800000000002 0).isFw 1 = false ∧ fw.isFw 0 = true := by
  unfold inMap
  decide +kernel

theorem witness_SlotControl :
    u1.me.forced = none ∧ u1.me.seq = [] ∧ (u1.me.pc.toNat : Int) + 2 * 0x400000000000 = 0x800000000000 ∧
    okIs (u1.ports [23] [0]) () ∧ (u1.readG 23).1.toNat = 0x800000000000 ∧ busy.me.seq ≠ [] ∧ busy.me.forced = none ∧
    u1.me.crew = none ∧ ((slotWith (fun t => { t with prem := 1 })).slotOf 1 0).prem = 1 ∧
    (slotWith (fun t => { t with crew := some crew1 })).me.crew = some crew1 ∧ u1.me.seqTouches = false ∧
    u1.releaseReady 1 0 = true ∧
    ({ u1 with remotes := [⟨0, 1, 0, 1, 0, .store 8 0, .nobody, 0, 0, none, none⟩] } : State).releaseReady 1 0 = false ∧
    okIs (u1.ports [6] []) () ∧ fatOk (u1.readG 6).1 = true ∧ inMap (fatVa (u1.readG 6).1 + 64) ∧
    ¬ inMap (fatVa (u1.readG 6).1 + (-1)) ∧ fatOk ((gWith 0 0x1000000000000 0).readG 6).1 = false ∧
    u1.me.seqReads = false ∧ (slotWith (fun t => { t with seq := [.op ⟨.vld 1 2 0 0 .fp32, 0, 0⟩] })).me.seqReads = true ∧
    narrowPass u1 .cl .rel ∧ ¬ narrowPass u1 .dv .rel ∧ u1.me.fences = [] := by
  unfold inMap narrowPass
  decide +kernel

theorem witness_AccessTraps :
    okIs (meAddr u1 6 none 1) 1 ∧ 1 % byteCount .d ≠ 0 ∧ okIs (u1.ports (meSources 6 none) [5]) () ∧
    okIs (u1.ports (meSources 6 none ++ [5]) []) () ∧ okIs (meAddr u1 6 none 0x100000) 0x100000 ∧
    0x100000 % byteCount .d = 0 ∧ u1.me.seqTouches = false ∧ mayRelease u1 .co .rlx ∧
    rowFor 0x100000 (byteCount .d) = .unmapped := by
  unfold mayRelease narrowPass
  decide +kernel

theorem witness_SelfLoadsAndStores :
    okIs (u1.ports (meSources 6 (some ⟨7, 3⟩)) [5]) () ∧ okIs (meAddr u1 6 (some ⟨7, 3⟩) 0xEFFF8) 0xEFFF8 ∧
    0xEFFF8 % byteCount .d = 0 ∧ selfReady u1 0xEFFF8 (byteCount .d) true false ∧ Memory.wf u1.mem = true ∧
    okIs (u1.ports (meSources 6 (some ⟨7, 3⟩) ++ [5]) []) () ∧ selfReady u1 0xEFFF8 (byteCount .d) false true ∧
    mayRelease u1 .co .rlx := by
  unfold selfReady mayRelease narrowPass noPending readable
  decide +kernel

/-- A launch of one slot on each of cores 1 and 2. -/
def two : State :=
  let r : Rect := ⟨1, 0, 2, 1⟩
  let s : State :=
    { u1 with
      claims := u1.claims.map (fun x => { x with rect := r })
      launches := u1.launches.map (fun l => { l with w := 2, groups := [⟨r, true, Phase.start 0⟩] }) }
  let t := s.modCore 1 (fun x => { x with doms := vset x.doms 0 (entryDom0 2 1 1) })
  t.setCore 2 (t.coreOf 1)
/-- The slot waiting for a reply, or with it. -/
def replied : State := (gWith 0 0x100000008 0).modMe (fun t => { t with wait := .reply 5 })

theorem witness_RemoteLoadsAndStores :
    (∀ s ∈ [gWith 0 0x100000008 0, replied],
      okIs (s.ports (meSources 6 none) [5]) () ∧ okIs (meAddr s 6 none 0) 0x100000008 ∧
      0x100000008 % byteCount .d = 0 ∧ sliceReady s 0x100000008 (byteCount .d) 1 ∧
      okIs (s.ports (meSources 6 none ++ [5]) []) () ∧ mayRelease s .cl .rel) ∧
    u1.me.wait = .none ∧ replied.me.wait = .reply 5 ∧ replied.me.mine = [] := by
  unfold sliceReady mayRelease narrowPass noPending
  decide +kernel

theorem witness_AtomicResults :
    Memory.wf u1.mem = true ∧ ScalarType.d.atomicOk = true ∧ okIs (ea (u1.readG 6).1 0 0 0) 0 ∧ 0 % byteCount .d = 0 ∧
    selfReady u1 0 (byteCount .d) true true ∧ mayRelease u1 .co .ar ∧ okIs (u1.ports [6, (some 7 : Option GReg).getD 5] [5]) () ∧
    okIs (u1.ports [6, 7, 5] [5]) () ∧ atomicTable ≠ [] := by
  unfold selfReady mayRelease narrowPass noPending readable
  decide +kernel

theorem witness_AtomicResults_remote :
    (∀ s ∈ [gWith 0 0x100000008 0, replied],
      okIs (ea (s.readG 6).1 0 0 0) 0x100000008 ∧ sliceReady s 0x100000008 (byteCount .d) 1 ∧ mayRelease s .co .ar ∧
      okIs (s.ports [6, (none : Option GReg).getD 5] [5]) () ∧ okIs (s.ports [6, 7, 5] [5]) () ∧
      okIs (s.ports [6, 5] []) () ∧ s.cur.core = 1) ∧
    atomicTable.length = 7 ∧
    (let s := two.modMe (fun t => { t with g := vset t.g 6 0x100100008 })
     okIs (ea (s.readG 6).1 0 0 0) 0x100100008 ∧ sliceReady s 0x100100008 (byteCount .d) 2 ∧ mayRelease s .co .rlx ∧
     okIs (s.ports [6, 5] [5]) () ∧ okIs (s.ports [6, 7, 5] [5]) () ∧ 2 ≠ s.cur.core) := by
  unfold sliceReady mayRelease narrowPass noPending
  decide +kernel

theorem witness_SelfLoadsAndStores_buffer :
    (∀ s ∈ [deferring [], deferring [pending]],
      okIs (s.ports (meSources 6 none ++ [5]) []) () ∧ okIs (s.ports (meSources 6 none) [5]) () ∧
      okIs (meAddr s 6 none 0) 0x100 ∧ 0x100 % byteCount .d = 0 ∧ rowFor 0x100 (byteCount .d) = .self ∧
      s.myCore.grants (localNeeds false true) 0x100 (byteCount .d) = true ∧
      s.myCore.grants (localNeeds true false) 0x100 (byteCount .d) = true ∧
      s.ownRemote s.cur.core s.cur.slot.val (sram s.cur.core 0x100) (byteCount .d) = false ∧
      s.me.deferStores = true ∧ s.isDet s.cur.core = false ∧ s.me.early = [] ∧ s.me.seqTouches = false ∧
      s.narrowHeld (sram s.cur.core 0x100) (byteCount .d) = false ∧ Memory.wf s.mem = true ∧ s.cur.core < numCores) ∧
    (deferring [pending]).me.buffer = [pending] ∧ pending.done = false ∧ pending.after = 0 ∧ pending.scope = none ∧
    pending.cells = (List.range (byteCount .d)).map (fun i =>
      (sram (deferring [pending]).cur.core 0x100 + i, BitVec.ofNat 8 ((0x77 : Word).toNat / 256 ^ i))) := by
  decide +kernel

/-- A sufficient form of `entryFor` and `readable`. -/
def pagedOk (s : State) (en : Entry) (adr n : Nat) : Bool :=
  rowFor adr n == .page && (s.translate s.cur.core (s.claimId s.cur.core) adr).1 == some en && entOk en &&
  !s.peerDown en && !(cached s adr).narrowHeld (entPhys en adr) n && !(cached s adr).poisonedIn (entPhys en adr) n

theorem pagedOk_iff {s : State} {en : Entry} {adr n : Nat} :
    pagedOk s en adr n = true ↔ entryFor s adr n en ∧ readable (cached s adr) (entPhys en adr) n := by
  simp [pagedOk, entryFor, readable, and_assoc]

theorem witness_RemoteLoadsAndStores_page :
    (∀ s ∈ [paged 0 3, paged 0 0, paged 2 3, paged 5 3, gWith 0 0x100000000000 0],
      noPending s ∧ s.isDet s.cur.core = false ∧ okIs (s.ports (meSources 6 none) [5]) () ∧
      okIs (s.ports (meSources 6 none ++ [5]) []) () ∧ okIs (meAddr s 6 none 0) 0x100000000000 ∧ Memory.wf s.mem = true ∧
      okIs (ea (s.readG 6).1 0 0 0) 0x100000000000 ∧ okIs (s.ports [6, (none : Option GReg).getD 5] [5]) () ∧
      mayRelease s .co .ar ∧ rowFor 0x100000000000 (byteCount .d) = .page) ∧
    pagedOk (meState (paged 0 3) 6 none) (entryAt0 0 3) 0x100000000000 (byteCount .d) = true ∧
    pagedOk ((meState (paged 0 3) 6 none).readG 5).2 (entryAt0 0 3) 0x100000000000 (byteCount .d) = true ∧
    pagedOk (((paged 0 3).readG 6).2.readG 5).2 (entryAt0 0 3) 0x100000000000 (byteCount .d) = true ∧
    entR (entryAt0 0 3) = true ∧ entW (entryAt0 0 3) = true ∧ entTier (entryAt0 0 3) = 0 ∧
    (meState (paged 0 3) 6 none).ownRemote 1 0 (entPhys (entryAt0 0 3) 0x100000000000) (byteCount .d) = false ∧
    entR (entryAt0 0 0) = false ∧ entW (entryAt0 0 0) = false ∧
    pagedOk (meState (paged 0 0) 6 none) (entryAt0 0 0) 0x100000000000 (byteCount .d) = true ∧
    pagedOk (((paged 2 3).readG 6).2.readG 5).2 (entryAt0 2 3) 0x100000000000 (byteCount .d) = true ∧
    entTier (entryAt0 2 3) = 2 ∧ entOk (entryAt0 5 3) = false ∧
    ((meState (paged 5 3) 6 none).translate 1 ((paged 5 3).claimId 1) 0x100000000000).1 = some (entryAt0 5 3) ∧
    ((meState (gWith 0 0x100000000000 0) 6 none).translate 1 (u1.claimId 1) 0x100000000000).1 = none := by
  unfold noPending mayRelease narrowPass
  decide +kernel

/-- The same with one slot changed. -/
def twoWith (c : Nat) (f : Slot → Slot) : State := two.modSlot c 0 f
/-- A slot with a handler. -/
def handler : State := slotWith (fun t => { t with trapvec := 0x100 })
/-- The same in its handler. -/
def inside (skip : Bool) : State :=
  slotWith (fun t => { t with trapvec := 0x100, inh := true, vskip := skip, replay := [.op ⟨.knot 0 0, 0, 0⟩] })
/-- The slot of `u1` with an arrival state for domain 0. -/
def arrived (x : Arrival) : State := slotWith (fun t => { t with arr := vset t.arr 0 x })
/-- A copy command of slot 0 of core 1 that has not run. -/
def copying : EngineCmd :=
  ⟨7, 0, .slot 1 0, 0, 0, 0, Vector.replicate 16 0, false, none, false, [], none, [], false, [], 0, 0, 0, [], false⟩
/-- Core 1 of `two` with its part in domain 0. -/
def runIn (s : State) (c : Nat) (r : DomRun) : State := s.modCore c (fun x => x.setRun 0 r)

theorem witness_TrapEntry :
    handled handler 1 0 0x0D ∧ (handler.slotOf 1 0).crew = none ∧
    handled (slotWith (fun t => { t with trapvec := 0x100, crew := some crew1 })) 1 0 0x0D ∧
    ((slotWith (fun t => { t with trapvec := 0x100, crew := some crew1 })).slotOf 1 0).crew = some crew1 ∧
    (1, 0) ∈ crew1.members := by
  unfold handled
  decide +kernel

theorem witness_TrapInstructions :
    handler.me.crew = none ∧ handled handler handler.cur.core handler.cur.slot.val 0x0D ∧
    handled handler handler.cur.core handler.cur.slot.val 0x01 ∧ u1.isFw u1.cur.core = false ∧
    0x010 ∉ userWrites ∧ 0x020 ∉ userWrites ∧ u1.me.inh = false := by
  unfold handled
  decide +kernel

theorem witness_FatalAndFetchFaults :
    (u1.residentOf 1).isSome = true ∧ (u1.slotOf 1 0).crew = none ∧ ¬ handled u1 1 0 0x0D ∧ ¬ handled handler 1 0 0x05 ∧
    (let s := handler.modMyCore (fun x => { x with regions := Vector.replicate 8 0 })
     s.me.ahead = (0, []) ∧ s.me.pc.toNat + 2 ≤ 0x100000 ∧ s.isFw s.cur.core = false ∧
     s.myCore.grants [100] s.me.pc.toNat 2 = false ∧ s.me.crew = none ∧
     handled s s.cur.core s.cur.slot.val 0x04) ∧
    u1.unwritten ((u1.launches.flatMap Launch.cores)) = [] ∧
    ({ u1 with copies := [copying] } : State).unwritten ((u1.launches.flatMap Launch.cores)) ≠ [] := by
  unfold handled
  decide +kernel

theorem witness_ReturnAndDeferredTraps :
    (inside false).me.inh = true ∧ (inside false).me.vskip = false ∧ (inside true).me.inh = true ∧
    (inside true).me.vskip = true ∧ (inside true).me.replay = .op ⟨.knot 0 0, 0, 0⟩ :: [] ∧ (inside false).me.replay ≠ [] ∧
    (inside false).me.trappc.toNat ≠ 0x800000000000 ∧ (inside true).me.buffer = [] ∧
    (let s := (inside true).modMe (fun t => { t with replay := [.loop [⟨.knot 0 0, 0, 0⟩, ⟨.knot 1 1, 0, 0⟩] 3 1] })
     s.me.inh = true ∧ s.me.vskip = true ∧ s.me.replay = .loop [⟨.knot 0 0, 0, 0⟩, ⟨.knot 1 1, 0, 0⟩] 3 1 :: []) ∧
    (let s := (inside false).modMe (fun t => { t with trappc := 0x800000000000 })
     s.me.inh = true ∧ s.me.trappc.toNat = 0x800000000000 ∧ s.me.replay ≠ [] ∧ s.me.vskip = false) ∧
    (let s := (inside false).modMe (fun t => { t with trappc := 0x800000000000, replay := [] })
     s.me.inh = true ∧ s.me.trappc.toNat = 0x800000000000 ∧ s.me.replay = [] ∧ s.me.seq = []) ∧
    (u1.slotOf 1 0).deferred = none ∧
    (let s := slotWith (fun t => { t with trapvec := 0x100, deferred := some ⟨0x0B, 1, 4⟩ })
     (s.slotOf 1 0).deferred = some ⟨0x0B, 1, 4⟩ ∧ (s.slotOf 1 0).crew = none ∧ handled s 1 0 0x0B ∧ (s.slotOf 1 0).seq = []) := by
  unfold handled
  decide +kernel

theorem witness_CsrReads :
    okIs (u1.ports [] [5]) () ∧ (5 : GReg).val ≠ 25 ∧ u1.me.seq = [] ∧ busy.me.seq ≠ [] ∧ okIs (busy.ports [] [5]) () ∧
    (u1.residentOf u1.cur.core).isSome = true ∧ ∀ p, p < 8 → (u1.myCore.port p).length ≤ portDepth p := by
  decide +kernel

theorem witness_CsrWrites :
    okIs (u1.ports [5] []) () ∧ u1.me.seq = [] ∧ (u1.readG 5).1.getLsbD 63 = false ∧
    (∀ k : Fin 4, vget (u1.slotOf u1.cur.core k.val).arr 1 .idle = .idle) ∧
    (let s := slotWith (fun t => { t with arr := vset t.arr 1 .arrived })
     okIs (s.ports [5] []) () ∧ ∃ k : Fin 4, vget (s.slotOf s.cur.core k.val).arr 1 .idle ≠ .idle) := by
  decide +kernel

/-- A value for DOM1 that names slot 0 of `h` rows of one core. -/
def domValue (h : Nat) : Word := BitVec.ofNat 64 (2 ^ 63 + 2 ^ 56 + 2 ^ 24 * h + 2 ^ 16)
/-- A slot about to write it. -/
def domWriter (h : Nat) : State := gWith (domValue h) 0 0

theorem witness_CsrWrites_domain :
    ∀ h ∈ ([1, 2] : List Nat),
      okIs ((domWriter h).ports [5] []) () ∧
      (∀ k : Fin 4, vget ((domWriter h).slotOf (domWriter h).cur.core k.val).arr 1 .idle = .idle) ∧
      ((domWriter h).readG 5).1 = domValue h ∧ (domValue h).getLsbD 63 = true ∧
      (domWriter h).groupRect (domWriter h).cur.core = some ⟨1, 0, 1, 1⟩ ∧
      ((domWriter h).residentOf (domWriter h).cur.core).map (·.slots) = some 1 := by
  decide +kernel

theorem witness_CsrWrites_domGood : domGood (domWriter 1) 1 (domValue 1) ⟨1, 0, 1, 1⟩ 1 := by
  unfold domGood
  refine ⟨⟨0, by decide +kernel, by decide +kernel⟩, by decide +kernel, by decide +kernel, by decide +kernel,
    by decide +kernel, by decide +kernel, by decide +kernel, by decide +kernel, by decide +kernel, by decide +kernel,
    fun j hj u hu _ => ?_⟩
  obtain rfl : j = 0 := by omega
  subst hu
  decide +kernel

theorem witness_CsrWrites_domBad : ¬ domGood (domWriter 2) 1 (domValue 2) ⟨1, 0, 1, 1⟩ 1 := by
  unfold domGood
  intro h
  have h6 := h.2.2.2.2.2.1
  revert h6
  decide +kernel

theorem witness_Updates :
    Memory.wf u1.mem = true ∧ okIs (u1.ports [6, 5] []) () ∧ okIs (ea (u1.readG 6).1 0 0 0) 0 ∧ 0 % byteCount .w = 0 ∧
    selfReady u1 0 (byteCount .w) true true ∧ mayRelease u1 .co .rel := by
  unfold selfReady mayRelease narrowPass noPending readable
  decide +kernel

theorem witness_Updates_descriptor :
    okIs (u1.ports [6] [5]) () ∧ okIs (ea (u1.readG 6).1 0 0 0) 0 ∧
    selfReady u1 0 32 true false ∧ bytesAt u1 (sram u1.cur.core 0) 32 / 2 ^ 160 = 0 ∧
    (∀ i, i < 3 → bytesAt u1 (sram u1.cur.core 0) 32 / 2 ^ (128 + 8 * i) % 2 = 0 →
      bytesAt u1 (sram u1.cur.core 0) 32 / 2 ^ (136 + 8 * i) % 2 = 0) ∧
    (let s := u1.writeBytes (sram 1 20) [1]
     okIs (s.ports [6] [5]) () ∧ okIs (ea (s.readG 6).1 0 0 0) 0 ∧ selfReady s 0 32 true false ∧
     bytesAt s (sram s.cur.core 0) 32 / 2 ^ 160 ≠ 0) := by
  unfold selfReady noPending readable
  decide +kernel

theorem witness_Updates_order :
    (let s := u1.writeBytes (sram 1 18) [1]
     okIs (s.ports [6] [5]) () ∧ okIs (ea (s.readG 6).1 0 0 0) 0 ∧ selfReady s 0 32 true false ∧
     bytesAt s (sram s.cur.core 0) 32 / 2 ^ 128 % 2 = 0 ∧ bytesAt s (sram s.cur.core 0) 32 / 2 ^ 144 % 2 = 1) := by
  unfold selfReady noPending readable
  decide +kernel

/-- The members of domain 0 of `two` hold different registers, and core 2 has executed its arrival. -/
def unequal (w : Wait) : State :=
  runIn ((twoWith 1 (fun t => { t with arr := vset t.arr 0 .arrived, wait := w })).modCore 2
    (fun x => { x with doms := vset x.doms 0 (x.dom 0 ||| 0x40) })) 2 { DomRun.reset with executed := true }

theorem witness_DomainInstructions :
    (vget u1.myCore.doms 0 0).getLsbD 63 = true ∧ (bits (vget u1.myCore.doms 0 0) 56 4).testBit u1.cur.slot.val = true ∧
    vget u1.me.arr 0 .idle = .idle ∧ (∃ l, u1.residentOf u1.cur.core = some l ∧ l.preempt = .none) ∧
    u1.releaseReady u1.cur.core u1.cur.slot.val = true ∧ u1.me.wait ≠ .request ∧
    (vget u1.myCore.doms 1 0).getLsbD 63 = false ∧ vget (arrived .released).me.arr 0 .idle = .released ∧
    (let s : State := { u1 with cur := ⟨1, 1⟩ }
     (vget s.myCore.doms 0 0).getLsbD 63 = true ∧ (bits (vget s.myCore.doms 0 0) 56 4).testBit s.cur.slot.val = false) ∧
    (let s : State := { u1 with launches := u1.launches.map (fun l => { l with preempt := .forced }) }
     ∃ l, s.residentOf s.cur.core = some l ∧ l.preempt = .forced) ∧
    (let s : State := { u1 with remotes := [⟨0, 1, 0, 1, 0, .store 8 0, .nobody, 0, 0, none, none⟩] }
     s.releaseReady s.cur.core s.cur.slot.val = false ∧ vget s.me.arr 0 .idle = .idle) ∧
    (let s := slotWith (fun t => { t with arr := vset t.arr 0 .released, wait := .request })
     vget s.me.arr 0 .idle = .released ∧ s.me.wait = .request) ∧
    vget (arrived .arrived).me.arr 0 .idle = .arrived ∧ ¬ differs (arrived .arrived) 0 ∧
    (∀ w ∈ ([.none, .request] : List Wait),
      vget (unequal w).me.arr 0 .idle = .arrived ∧ (unequal w).me.mismatch.getLsbD 0 = false ∧
      (unequal w).disagree (unequal w).cur.core 0 = true ∧ (unequal w).me.wait = w) ∧
    (unequal .none).groupRect 1 = some ⟨1, 0, 2, 1⟩ ∧ 2 ∈ (⟨1, 0, 2, 1⟩ : Rect).cores ∧
    (unequal .none).meets 1 0 2 = true ∧ (bits (((unequal .none).coreOf 2).dom 0) 56 4).testBit 0 = true ∧
    (let s := slotWith (fun t => { t with arr := vset t.arr 0 .arrived, mismatch := 1 })
     vget s.me.arr 0 .idle = .arrived ∧ s.me.mismatch.getLsbD 0 = true) ∧
    (let s := slotWith (fun t => { t with arr := vset t.arr 0 .arrived, wait := .request })
     vget s.me.arr 0 .idle = .arrived ∧ s.me.wait = .request ∧ ¬ differs s 0) := by
  unfold differs
  decide +kernel

theorem witness_DomainEvents :
    (unequal .none).agree 1 0 = false ∧
    (slotWith (fun t => { t with mismatch := 1 })).marked 1 0 = true ∧
    (let x : Slot → Slot := fun t => { t with arr := vset t.arr 0 .arrived }
     let s := (runIn (twoWith 1 x) 1 { DomRun.reset with executed := true })
     let u := runIn s 2 { DomRun.reset with counted := true }
     (∀ z ∈ [s, u], mayCount z 1 0) ∧
     (∃ m ∈ s.members 1 0, m ≠ 1 ∧ ((s.coreOf m).runOf 0).counted = false) ∧
     (∀ m ∈ u.members 1 0, m ≠ 1 → ((u.coreOf m).runOf 0).counted = true) ∧ u.spansOf (u.claimId 1) 0 = [] ∧
     (let v : State := { u with spans := [⟨0, 0, 3, false, false⟩] }
      ∃ y ∈ v.spansOf (v.claimId 1) 0, y.come = false)) ∧
    ((u1.coreOf 1).runOf 0).releasing = false ∧
    (let s := runIn u1 1 { DomRun.reset with releasing := true }
     ((s.coreOf 1).runOf 0).releasing = true ∧ domExchange ((s.coreOf 1).dom 0) = true ∧
     ((s.coreOf 1).runOf 0).exchange = false ∧ s.planPoison 1 = none) ∧
    (let s : State := { runIn u1 1 { DomRun.reset with releasing := true } with poisoned := [sram 1 0x40] }
     let z := s.modCore 1 (fun x => { x with planbase := 0x40 })
     (z.planPoison 1).isSome = true ∧ (z.residentOf 1).isSome = true) ∧
    (let s := runIn u1 1 { DomRun.reset with releasing := true, exchange := true }
     ((s.coreOf 1).runOf 0).releasing = true ∧ ((s.coreOf 1).runOf 0).exchange = true) ∧
    (let s := (runIn u1 1 { DomRun.reset with releasing := true }).modCore 1
      (fun x => { x with doms := vset x.doms 0 (x.dom 0 &&& 0xBFFFFFFFFFFFFFFF) })
     ((s.coreOf 1).runOf 0).releasing = true ∧ domExchange ((s.coreOf 1).dom 0) = false) := by
  unfold mayCount
  decide +kernel

theorem witness_DomainEvents_links :
    (∀ l ∈ ([[⟨0, 0, 3, true, false⟩], [⟨0, 0, 3, true, false⟩, ⟨0, 0, 4, true, false⟩],
        [⟨0, 0, 3, true, false⟩, ⟨0, 0, 4, true, true⟩]] : List (List SpanBarrier)),
      (let s : State := { runIn (runIn two 1 { DomRun.reset with counted := true }) 2 { DomRun.reset with counted := true } with spans := l }
       s.linkWaiter 0 0 = some 1 ∧ 3 ∉ s.linksDown ∧ (∀ x ∈ s.spansOf 0 0, x.sent = true))) := by
  decide +kernel

theorem witness_ExchangeAndMessages :
    (let s := runIn two 1 { DomRun.reset with exchange := true, due := [⟨0, 2, 0xEFFF8, 1⟩] }
     Memory.wf s.mem = true ∧ s.isDet 1 = false ∧ ((s.coreOf 1).runOf 0).due[0]? = some ⟨0, 2, 0xEFFF8, 1⟩ ∧
     s.poisonedIn (sram 1 0) 8 = false ∧ s.routerBit 2 (s.claimId 1) = true ∧ (s.residentOf 1).isSome = true ∧
     ({ s with poisoned := [8 * (sram 1 0 / 8)] } : State).poisonedIn (sram 1 0) 8 = true ∧
     ({ s with claims := s.claims.map (fun x => { x with rect := ⟨1, 0, 1, 1⟩ }) } : State).routerBit 2 (s.claimId 1) = false ∧
     s.gated.contains (clusterOf (sram 2 0xEFFF8 / 2 ^ 20)) = false) ∧
    (let s := runIn two 1 { DomRun.reset with exchange := true }
     (∃ l, s.residentOf 1 = some l ∧ l.det = false) ∧ ((s.coreOf 1).runOf 0).exchange = true ∧
     ((s.coreOf 1).runOf 0).sent = false ∧ ((s.coreOf 1).runOf 0).counted = false ∧
     ((s.coreOf 1).runOf 0).releasing = false ∧ ((s.coreOf 1).runOf 0).due = [] ∧ s.remotes = [] ∧ s.latches = []) ∧
    (let s : State := { two with messages := [⟨1, 2, [5]⟩] }
     s.messages[0]? = some ⟨1, 2, [5]⟩ ∧ (∀ x ∈ s.messages.take 0, x.src = 1 → x.dst ≠ 2) ∧
     s.claimId 1 = s.claimId 2 ∧ s.away 2 = false ∧ s.isDet 2 = false ∧
     ({ s with launches := s.launches.map (fun l => { l with det := true }) } : State).isDet 2 = true ∧ (s.coreOf 2).inUse 0 + 1 ≤ 32) ∧
    okIs (two.ports [6] [25]) () ∧ two.groupRect two.cur.core = some ⟨1, 0, 2, 1⟩ ∧
    (∃ l, two.residentOf two.cur.core = some l ∧ l.det = false) ∧ two.myCore.owner = none ∧ two.myCore.port 1 = [] ∧
    bits (two.readG 6).1 32 32 = 0 ∧ bits (two.readG 6).1 0 13 < 2 * 1 ∧ bits (two.readG 6).1 13 3 = 0 ∧
    two.releaseReady two.cur.core two.cur.slot.val = true ∧
    (let s := twoWith 1 (fun t => { t with g := vset t.g 6 0x2002 })
     2 * 1 ≤ bits (s.readG 6).1 0 13) ∧
    (let s := twoWith 1 (fun t => { t with g := vset t.g 6 0x2001 })
     0 < bits (s.readG 6).1 13 3 ∧ bits (s.readG 6).1 0 13 < 2 * 1 ∧ bits (s.readG 6).1 32 32 = 0) ∧
    (let s := two.modMyCore (fun x => { x.setPort 1 [0x2001] with owner := some ⟨0, 1⟩ })
     okIs (s.ports [6] [25]) () ∧ s.myCore.owner = some ⟨s.cur.slot.val, 1⟩ ∧ s.myCore.port 1 = 0x2001 :: [] ∧
     s.releaseReady s.cur.core s.cur.slot.val = true ∧
     ({ s with remotes := [⟨0, 1, 0, 1, 0, .store 8 0, .nobody, 0, 0, none, none⟩] } : State).releaseReady s.cur.core s.cur.slot.val =
       false) := by
  decide +kernel

theorem witness_CrewResults :
    (let s := twoWith 1 (fun t => { t with g := vset t.g 6 0x1020000 })
     s.me.wait = .none ∧ s.me.crew = none ∧ okIs (s.ports [6] [5]) () ∧ s.groupRect s.cur.core = some ⟨1, 0, 2, 1⟩ ∧
     crewBad (s.readG 6).1 (colOf s.cur.core - 1) (rowOf s.cur.core - 0) 2 1 = false ∧
     (∀ k : Fin 4, k ≠ s.cur.slot → (s.slotOf s.cur.core k.val).crew = none)) ∧
    crewBad (two.readG 6).1 (colOf two.cur.core - 1) (rowOf two.cur.core - 0) 2 1 = true ∧
    (slotWith (fun t => { t with wait := .formed 1 })).me.wait = .formed 1 ∧
    okIs ((slotWith (fun t => { t with wait := .formed 1 })).ports [6] [5]) () ∧
    (let s := (twoWith 1 (fun t => { t with wait := .crew 0x1020000 })).modSlot 2 0
      (fun t => { t with wait := .crew 0x1020000 })
     (s.slotOf 1 0).wait = .crew 0x1020000 ∧
     (∀ m ∈ s.crewCores 1 0x1020000, ((s.coreOf m).waitsFor 0x1020000).isSome = true) ∧
     (∀ m ∈ s.crewCores 1 0x1020000, ∀ j : Fin 4, (s.slotOf m j.val).crew = none) ∧
     s.otherCrewed = false ∧ s.crewClash s.cur.core 0x1020000 = false) ∧
    (let s := (twoWith 1 (fun t => { t with wait := .crew 0x1020000 })).modSlot 2 0
      (fun t => { t with wait := .crew 0x2020000 })
     s.me.wait = .crew 0x1020000 ∧ s.otherCrewed = false ∧ s.crewClash s.cur.core 0x1020000 = true) ∧
    (slotWith (fun t => { t with wait := .clash })).me.wait = .clash ∧
    (u1.slotOf 1 0).wait = .none := by
  decide +kernel

/-- A 512-bit record with the given values at byte offsets. -/
def recWith (l : List (Nat × Nat)) : Rec := BitVec.ofNat 512 ((l.map (fun p => p.2 * 2 ^ (8 * p.1))).sum)
/-- The sequencer of the slot about to execute one instruction, with two vector registers, a mask and FFLAGS as given. -/
def next1 (i : Instr) (x y : Vec) : State :=
  slotWith (fun t => { t with seq := [.op ⟨i, 0, 7⟩], v := vset (vset t.v 1 x) 2 y, k := vset t.k 1 0x5 })
/-- A slot that holds 16 vector instructions. -/
def full : State := slotWith (fun t => { t with seq := List.replicate 16 (.op ⟨.knot 0 0, 0, 0⟩) })
/-- A descriptor of a stream of `n` FP32 elements from 0x100 on, reading or writing. -/
def streamRec (n dir : Nat) : Rec := recWith [(0, 0x100), (7, 8), (8, n), (12, 1), (16, 1), (20, 4), (33, dir)]
/-- The slot about to execute VADD v4, v1 with a stream on v1. -/
def streaming (dir pos : Nat) : State :=
  (next1 (.vadd 4 1 none .fp32) 0 0).modMe (fun t => t.setStream 1 ⟨streamRec 2 dir, true, true, false, pos, []⟩)
/-- The slot about to reach a marker. -/
def marked (e : Bool) : State := slotWith (fun t => { t with seq := [.mark 1 e] })

theorem witness_VectorDispatch :
    passed (.vadd 1 2 none .fp32) = some none ∧ u1.me.replay = [] ∧ u1.me.collect = none ∧ seqSize u1.me.seq < 16 ∧
    passed (.vbcast 1 29 .fp32) = some (some 29) ∧ passed (.gmask 1 6) = some (some 6) ∧ okIs (u1.ports [6] []) () ∧
    (inside false).me.replay ≠ [] ∧ full.me.replay = [] ∧ full.me.collect = none ∧ 16 ≤ seqSize full.me.seq ∧
    passed (.vbcast 1 25 .fp32) = some (some 25) := by
  decide +kernel

/-- `u1` with the word of MOV g5, g6 at its pc. -/
def atMov : State := u1.writeBytes (sram 1 0) [0xA6, 0x04]

/-- One word that stands at the pc. -/
theorem stands_one {s : State} {w : Half} (ha : s.me.ahead = (0, [])) (hp : s.me.pc.toNat + 2 ≤ 2 ^ 20)
    (hb : bytesAt s (sram s.cur.core s.me.pc.toNat) 2 = w.toNat)
    (hc : s.poisonedIn (sram s.cur.core s.me.pc.toNat) 2 = false)
    (hg : s.myCore.grants [100] s.me.pc.toNat 2 = true) : standsAtPc s [w] := by
  refine ⟨ha, by simpa using hp, ?_⟩
  intro j v h
  cases j with
  | zero =>
    cases h
    exact ⟨hb, hc, .inr hg⟩
  | succ j => simp at h

/-- The same while the slot collects a body. -/
def inBody : State := atMov.modMe (fun t => { t with collect := some ⟨2, 2, []⟩ })

theorem witness_VectorLoop_step :
    inBody.cur.core < 5120 ∧ inBody.schedule = [] ∧ mayFetch inBody.catchUp ∧ inBody.catchUp.me.collect ≠ none ∧
    decode [0x04A6] = .ok (.mov 5 6 .d) ([0x04A6] : List Half).length ∧ standsAtPc inBody.catchUp [0x04A6] ∧
    passed (.mov 5 6 .d) = none := by
  have caught : standsAtPc inBody.catchUp [0x04A6] := by apply stands_one <;> decide +kernel
  unfold mayFetch
  exact ⟨by decide, rfl, by decide +kernel, by decide +kernel, by decide, caught, rfl⟩

theorem witness_VectorLoop :
    u1.me.collect = none ∧ u1.me.replay = [] ∧ okIs (u1.ports [6] []) () ∧
    (∀ left : Fin 3, (slotWith (fun t => { t with collect := some ⟨left.val, 2, []⟩ })).me.collect =
      some ⟨left.val, 2, []⟩) ∧
    seqSize u1.me.seq + ([] : List VEntry).length < 16 ∧ passed (.vadd 1 2 none .i8) = some none := by
  decide +kernel

/-- A slot that waits for nothing executes the entry at the head of its sequencer. -/
theorem executes_of {s : State} {i : Instr} {pc : VAddr} {g : Word} {rest : List SeqItem}
    (h : s.me.seq = .op ⟨i, pc, g⟩ :: rest ∧ s.me.deferred = none ∧ s.me.run = .running ∧
      s.frozen s.cur.core = false ∧ s.me.vmiss = false ∧ s.me.buffer = [])
    (hw : s.me.wait = .none) : executes s i pc g rest :=
  ⟨h.1, h.2.1, h.2.2.1, h.2.2.2.1, by simp [hw], h.2.2.2.2⟩

/-- The instructions of these witnesses execute, whatever vector registers they read. -/
theorem next1_executes (i : Instr) (x y : Vec) : executes (next1 i x y) i 0 7 [] :=
  executes_of ⟨rfl, rfl, rfl, rfl, rfl, rfl⟩ rfl

theorem witness_IntegerVectors :
    LaneType.i32.isFloat = false ∧ laneTable ≠ [] ∧ compareTable ≠ [] ∧
    plain (next1 (.vadd 1 2 none .i32) 3 4) 1 ∧
    active (next1 (.vshl 4 1 (some ⟨2, 1⟩) .i8) 3 4) 1 0 ∧ ¬ active (next1 (.vshl 4 1 (some ⟨2, 1⟩) .i8) 3 4) 1 1 := by
  unfold plain active
  decide +kernel

theorem witness_IntegerVectors_executes :
    executes (next1 (.vadd 1 2 none .i32) 3 4) (.vadd 1 2 none .i32) 0 7 [] ∧
    executes (next1 (.vshl 4 1 (some ⟨2, 1⟩) .i8) 3 4) (.vshl 4 1 (some ⟨2, 1⟩) .i8) 0 7 [] ∧
    executes (next1 (.vclt 2 1 2 1 .i64) 3 4) (.vclt 2 1 2 1 .i64) 0 7 [] :=
  ⟨next1_executes _ _ _, next1_executes _ _ _, next1_executes _ _ _⟩

theorem witness_MaskAndMoves_executes :
    executes (next1 (.kand 1 2 none) 0 0) (.kand 1 2 none) 0 7 [] ∧
    executes (next1 (.kmovKFromG 1 6) 0 0) (.kmovKFromG 1 6) 0 7 [] ∧
    executes (next1 (.vbcast 1 6 .fp64) 0 0) (.vbcast 1 6 .fp64) 0 7 [] ∧
    executes (next1 (.vmovv 1 6 63 .i8) 0 0) (.vmovv 1 6 63 .i8) 0 7 [] ∧
    executes (next1 (.vsel 4 1 2 1 .i16) 3 4) (.vsel 4 1 2 1 .i16) 0 7 [] :=
  ⟨next1_executes _ _ _, next1_executes _ _ _, next1_executes _ _ _, next1_executes _ _ _, next1_executes _ _ _⟩

theorem witness_MaskAndMoves :
    (6 : GReg).val ≠ 29 ∧ plain (next1 (.vbcast 1 6 .fp64) 0 0) 1 ∧ 63 < LaneType.i8.lanes ∧ u1.me.replay = [] ∧
    u1.me.seq = [] ∧ okIs (u1.ports [] [5]) () ∧ busy.me.replay = [] ∧ busy.me.seq ≠ [] := by
  unfold plain
  decide +kernel

theorem witness_FloatVectors :
    laneFmt .fp32 = some fp32Fmt ∧
    (let s := next1 (.vadd 1 2 none .fp32) 0x7F800001 0
     plain s 1 ∧ plain s 2 ∧ s.me.fen = 0 ∧
     (fp32Fmt.read (lane s 1 .fp32 0)).isNan = true ∧ fp32Fmt.read (lane s 1 .fp32 0) = .nan true) := by
  unfold plain
  decide +kernel

theorem witness_FloatVectors_executes :
    executes (next1 (.vadd 1 2 none .fp32) 0x7F800001 0) (.vadd 1 2 none .fp32) 0 7 [] := next1_executes _ _ _

theorem witness_Streams :
    okIs (u1.ports [6] []) () ∧ okIs (ea (u1.readG 6).1 0 0 0) 0 ∧ selfReady u1 0 64 true false ∧
    u1.me.willBeEnabled 1 = false ∧ 0 % 64 = 0 ∧
    streamBad (BitVec.ofNat 512 (bytesAt u1 (sram u1.cur.core 0) 64)) = true ∧
    (let s := u1.writeBytes (sram 1 0) (leBytes 64 (streamRec 2 0).toNat)
     okIs (s.ports [6] []) () ∧ okIs (ea (s.readG 6).1 0 0 0) 0 ∧ selfReady s 0 64 true false ∧
     streamBad (BitVec.ofNat 512 (bytesAt s (sram s.cur.core 0) 64)) = false) := by
  unfold selfReady noPending readable
  decide +kernel

theorem witness_Streams_state :
    u1.me.seq = [] ∧ u1.me.replay = [] ∧ (vget u1.me.streams 1 Stream.reset).configured = false ∧
    (marked true).me.marks 1 = true ∧ okIs ((marked true).ports [6] []) () ∧
    (let s := slotWith (fun t => t.setStream 1 ⟨streamRec 2 0, true, true, false, 0, []⟩)
     okIs (s.ports [6] []) () ∧ s.me.marks 1 = false ∧ s.me.willBeEnabled 1 = true ∧ s.me.seq = [] ∧ s.me.replay = [] ∧
     s.pushesOut 1 = false) ∧
    (let s := slotWith (fun t => { t.setStream 1 ⟨streamRec 2 0, true, false, false, 0, []⟩ with
       replay := [.op ⟨.knot 0 0, 0, 0⟩] })
     s.me.willBeEnabled 1 = false ∧ (vget s.me.streams 1 Stream.reset).configured = true ∧ s.me.replay ≠ []) ∧
    (let s := slotWith (fun t => t.setStream 1 ⟨streamRec 2 0, true, false, false, 0, []⟩)
     s.me.willBeEnabled 1 = false ∧ (vget s.me.streams 1 Stream.reset).configured = true ∧ s.me.replay = []) ∧
    busy.me.seq ≠ [] ∧
    (∀ e : Bool, (marked e).me.seq = .mark 1 e :: [] ∧ (marked e).me.deferred = none ∧ (marked e).me.run = .running ∧
      (marked e).frozen (marked e).cur.core = false) ∧
    (streaming 1 0).me.bound 1 = some ⟨streamRec 2 1, true, true, false, 0, []⟩ ∧
    (⟨streamRec 2 1, true, true, false, 0, []⟩ : Stream).writes = true ∧
    (streaming 0 2).me.bound 1 = some ⟨streamRec 2 0, true, true, false, 2, []⟩ ∧
    (⟨streamRec 2 0, true, true, false, 2, []⟩ : Stream).writes = false ∧
    8 * (⟨streamRec 2 0, true, true, false, 2, []⟩ : Stream).bytes = LaneType.fp32.width ∧
    (⟨streamRec 2 0, true, true, false, 2, []⟩ : Stream).total ≤ 2 := by
  decide +kernel

theorem witness_Streams_executes :
    (∀ (e : Bool) (a : Nat), (marked e).me.wait ≠ .page a) ∧
    executes (streaming 1 0) (.vadd 4 1 none .fp32) 0 7 [] ∧
    executes (streaming 0 2) (.vadd 4 1 none .fp32) 0 7 [] := by
  have h (e : Bool) : (marked e).me.wait = .none := rfl
  exact ⟨fun e a => by simp [h], executes_of (by decide +kernel) (by decide +kernel),
    executes_of (by decide +kernel) (by decide +kernel)⟩


/-- The sequencer about to execute one instruction with the value `g` in its g field, v1 holding lanes 0, 1, 2, … of 32
bits. -/
def nextG (i : Instr) (g : Word) : State :=
  slotWith (fun t => { t with seq := [.op ⟨i, 0, g⟩], v := vset t.v 1 (BitVec.ofNat 512 ((List.range 16).map (fun j => j * 2 ^ (32 * j))).sum) })

theorem nextG_executes (i : Instr) (g : Word) : executes (nextG i g) i 0 g [] :=
  executes_of ⟨rfl, rfl, rfl, rfl, rfl, rfl⟩ rfl

/-- `elemReady` of the elements of `n` bytes that lie one after the other from an offset on, as a computation. -/
def rowReady (s : State) (p : Word) (off n lanes : Nat) (writes : Bool) : Bool :=
  (List.range lanes).all (fun i =>
    let e := fatVa p + off + n * i
    e % n == 0 && rowFor e n == .self && s.myCore.grants (localNeeds (!writes) writes) e n &&
    !s.ownRemote s.cur.core s.cur.slot.val (sram s.cur.core e) n &&
    !s.narrowHeld (sram s.cur.core e) n && !s.poisonedIn (sram s.cur.core e) n)

theorem rowReady_elem {s : State} {p : Word} {off n lanes : Nat} {writes : Bool}
    (h : rowReady s p off n lanes writes = true) (i : Nat) (hi : i < lanes) :
    elemReady s p ((off : Int) + (i * n : Nat)) n writes := by
  have e : elemAt p ((off : Int) + (i * n : Nat)) = fatVa p + off + n * i := by
    unfold elemAt
    rw [Nat.mul_comm n i]
    omega
  simp only [rowReady, List.all_eq_true, List.mem_range, Bool.and_eq_true, beq_iff_eq, Bool.not_eq_true'] at h
  obtain ⟨⟨⟨⟨⟨h1, h2⟩, h3⟩, h4⟩, h5⟩, h6⟩ := h i hi
  refine ⟨by omega, ?_, ?_, ?_, ?_, fun _ => ?_⟩ <;> rw [e]
  · exact h1
  · exact h2
  · simp [h3]
  · exact h4
  · exact ⟨h5, h6⟩

/-- The pointer to 0x100 in format `f`. -/
def ptr (f : Nat) : Word := BitVec.ofNat 64 (f * 2 ^ 58 + 0x100)

theorem witness_VectorDispatch_memory :
    (∀ i ∈ ([.vld 4 6 64 1 .fp32, .vst 1 6 64 1 .fp32, .vgath 4 6 1 0 .fp32, .vscat 1 6 1 0 .fp32] : List Instr),
      noStores (nextG i 0x100) ∧ plain (nextG i 0x100) 4 ∧ plain (nextG i 0x100) 1 ∧ Memory.wf (nextG i 0x100).mem = true ∧
      rowReady (nextG i 0x100) 0x100 64 4 16 false = true ∧ rowReady (nextG i 0x100) 0x100 64 4 16 true = true ∧
      rowReady (nextG i 0x100) 0x100 0 4 16 false = true ∧ rowReady (nextG i 0x100) 0x100 0 4 16 true = true ∧
      (List.range 16).all (fun j => lane (nextG i 0x100) 1 .fp32 j == j)) ∧
    (6 : GReg).val ≠ 29 ∧ fatOk 0x100 = true := by
  unfold noStores plain
  decide +kernel

theorem witness_VectorDispatch_memory_executes (d : Int) (x : KReg) (t : LaneType) (ty : Option LaneType) (g : Word) :
    executes (nextG (.vld 4 6 d x t) g) (.vld 4 6 d x t) 0 g [] ∧ executes (nextG (.vst 1 6 d x t) g) (.vst 1 6 d x t) 0 g [] ∧
    executes (nextG (.vgath 4 6 1 x t) g) (.vgath 4 6 1 x t) 0 g [] ∧
    executes (nextG (.vscat 1 6 1 x t) g) (.vscat 1 6 1 x t) 0 g [] ∧
    executes (nextG (.vldc 4 6 d x ty) g) (.vldc 4 6 d x ty) 0 g [] ∧
    executes (nextG (.vstc 1 6 d x t) g) (.vstc 1 6 d x t) 0 g [] :=
  ⟨nextG_executes _ _, nextG_executes _ _, nextG_executes _ _, nextG_executes _ _, nextG_executes _ _, nextG_executes _ _⟩

-- VLDC of i16, sm4 and b8p4sf elements; VSTC of BF16 and of b8p3sf, which loses bits of lane 9 but not of lane 1.
theorem witness_VectorDispatch_converts :
    (∀ f ∈ ([6, 9, 3, 0x13] : List Nat), vFmtOk (ptr f) = true ∧ fatBlk (ptr f) = 0 ∧ fatOk (ptr f) = true) ∧
    rowReady (nextG (.vldc 4 6 0 0 none) (ptr 6)) (ptr 6) 0 (max 1 (fmtBits (fatFmt (ptr 6)) / 8)) 16 false = true ∧
    rowReady (nextG (.vldc 4 6 0 0 none) (ptr 9)) (ptr 9) 0 (max 1 (fmtBits (fatFmt (ptr 9)) / 8)) 16 false = true ∧
    rawLane (fatFmt (ptr 6)) none = .fp32 ∧ rawLane (fatFmt (ptr 9)) none = .i32 ∧
    rowReady (nextG (.vstc 1 6 0 0 .i32) (ptr 0x12)) (ptr 0x12) 0 (fmtBits (fatFmt (ptr 0x12)) / 8) 16 true = true ∧
    8 ≤ fmtBits (fatFmt (ptr 0x12)) ∧ 8 ≤ fmtBits (fatFmt (ptr 3)) ∧ fmtNarrow (fatFmt (ptr 3)) = false ∧
    fmtNarrow (fatFmt (ptr 0x12)) = true ∧
    (∀ i, i < 16 → (fmtExact (fatFmt (ptr 0x12)) (laneRead .i32 i) (fmtEncode (fatFmt (ptr 0x12)) .rne (laneRead .i32 i)).1 =
      decide (i ≠ 9 ∧ i ≠ 11 ∧ i ≠ 13 ∧ i ≠ 15))) := by
  decide +kernel

theorem witness_VectorDispatch_traps :
    (∀ j, j < LaneType.fp32.lanes → 0 ≤ (fatVa 0x101 : Int) + (0 + (j * (LaneType.fp32.width / 8) : Nat)) ∧
      (fatVa 0x101 : Int) + (0 + (j * (LaneType.fp32.width / 8) : Nat)) < 2 ^ 48) ∧
    elemAt 0x101 (0 + (0 * (LaneType.fp32.width / 8) : Nat)) % (LaneType.fp32.width / 8) ≠ 0 ∧ fatOk 0x101 = true ∧
    (let s := (nextG (.vst 1 6 0 0 .fp32) 0x100).modMyCore (fun x => { x with regions := Vector.replicate 8 0 })
     s.isFw s.cur.core = false ∧
     (List.range 16).all (fun j => rowFor (0x100 + 4 * j) 4 == .self && !s.myCore.grants (localNeeds false true) (0x100 + 4 * j) 4)) := by
  decide +kernel

theorem witness_IntegerVectors_ops :
    (∀ i ∈ ([.vfma 4 1 2 0 .i32, .vabs 4 1 0 .i32, .vneg 4 1 1 .i32, .vcvt 4 1 .i8 0 .i32, .vhad 4 1 0 0 0 .i32,
        .vihad 4 1 1 0 0 .i32, .vhad 4 1 0 3 0 .i32] : List Instr),
      plain (nextG i 0) 4 ∧ plain (nextG i 0) 1 ∧ plain (nextG i 0) 2) ∧
    LaneType.i32.isFloat = false ∧ LaneType.i8.isFloat = false ∧ 2 ^ (1 + 3) ≤ LaneType.i32.lanes ∧
    (3 : Fin 16) ≠ 0 ∧ seedAt (nextG (.vhad 4 1 0 3 0 .i32) 0) 3 = 0 ∧
    (let s := { nextG (.vhad 4 1 0 3 0 .i32) 0 with launches := u1.launches.map (fun l => { l with seeds := vset l.seeds 3 5 }) }
     seedAt s 3 ≠ 0) := by
  unfold plain
  decide +kernel

theorem witness_IntegerVectors_ops_executes :
    executes (nextG (.vfma 4 1 2 0 .i32) 0) (.vfma 4 1 2 0 .i32) 0 0 [] ∧
    executes (nextG (.vabs 4 1 0 .i32) 0) (.vabs 4 1 0 .i32) 0 0 [] ∧
    executes (nextG (.vneg 4 1 1 .i32) 0) (.vneg 4 1 1 .i32) 0 0 [] ∧
    executes (nextG (.vcvt 4 1 .i8 0 .i32) 0) (.vcvt 4 1 .i8 0 .i32) 0 0 [] ∧
    executes (nextG (.vhad 4 1 0 3 0 .i32) 0) (.vhad 4 1 0 3 0 .i32) 0 0 [] ∧
    executes (nextG (.vihad 4 1 1 0 0 .i32) 0) (.vihad 4 1 1 0 0 .i32) 0 0 [] :=
  ⟨nextG_executes _ _, nextG_executes _ _, nextG_executes _ _, nextG_executes _ _, nextG_executes _ _, nextG_executes _ _⟩

/-- Lanes of 32 bits that are all a multiple of 16. -/
def sixteens : State :=
  (nextG (.vihad 4 1 1 0 0 .i32) 0).modMe (fun t => { t with v := vset t.v 1 (BitVec.ofNat 512 ((List.range 16).map (fun j => 16 * j * 2 ^ (32 * j))).sum) })

-- The row of a block of 16 lanes that are multiples of 16 is a multiple of 16.
theorem witness_IntegerVectors_vihad :
    (List.range 16).all (fun i =>
      let h := hadamardRow (2 ^ (1 + 3)) (fun p => signedLane 32 (lane sixteens 1 .i32 (i / 2 ^ (1 + 3) * 2 ^ (1 + 3) + p))) (i % 2 ^ (1 + 3))
      h == 2 ^ (1 + 3) * (h / 16)) := by
  decide +kernel

theorem witness_MaskAndMoves_reductions :
    (nextG (.vpack 4 1 1 .i32) 0).myCore.inUse 6 < 16 ∧ plain (nextG (.vpack 4 1 1 .i32) 0) 4 ∧
    plain (nextG (.vpack 4 1 1 .i32) 0) 1 ∧ LaneType.i32.isFloat = false ∧
    16 ≤ ((nextG (.vrsum 1 1 .i32) 0).modMyCore (fun x => x.setPort 6 (List.replicate 16 0))).myCore.inUse 6 ∧
    noStores (nextG (.gmask 4 6) 0x100) ∧ rowReady (nextG (.gmask 4 6) 0x100) 0x100 0 2 1 false = true ∧
    (nextG (.vrmax 1 1 .i32) 0).me.k = Vector.replicate 8 0 ∧
    (∀ i, i < LaneType.i32.lanes → ¬ active (nextG (.vrmax 1 1 .i32) 0) 1 i) ∧
    (∀ j, j < LaneType.i32.lanes → active (nextG (.vrmax 1 0 .i32) 0) 0 j →
      signedLane LaneType.i32.width (lane (nextG (.vrmax 1 0 .i32) 0) 1 .i32 j) ≤
        signedLane LaneType.i32.width (lane (nextG (.vrmax 1 0 .i32) 0) 1 .i32 15) ∧
      (j < 15 → signedLane LaneType.i32.width (lane (nextG (.vargmx 1 0 .i32) 0) 1 .i32 j) <
        signedLane LaneType.i32.width (lane (nextG (.vargmx 1 0 .i32) 0) 1 .i32 15))) := by
  unfold noStores plain active
  decide +kernel

theorem witness_MaskAndMoves_reductions_executes :
    executes (nextG (.vpack 4 1 1 .i32) 0) (.vpack 4 1 1 .i32) 0 0 [] ∧
    executes (nextG (.vcmpk 4 1 1 .i32) 0) (.vcmpk 4 1 1 .i32) 0 0 [] ∧
    executes (nextG (.vrsum 1 1 .i32) 0) (.vrsum 1 1 .i32) 0 0 [] ∧
    executes (nextG (.vrmax 1 1 .i32) 0) (.vrmax 1 1 .i32) 0 0 [] ∧
    executes (nextG (.vargmx 1 1 .i32) 0) (.vargmx 1 1 .i32) 0 0 [] ∧
    executes (nextG (.gmask 4 6) 0x100) (.gmask 4 6) 0 0x100 [] :=
  ⟨nextG_executes _ _, nextG_executes _ _, nextG_executes _ _, nextG_executes _ _, nextG_executes _ _, nextG_executes _ _⟩

theorem witness_FloatVectors_specials :
    (∀ i ∈ ([.vabs 4 1 0 .fp32, .vneg 4 1 1 .bf16, .vexp 4 1 0 .fp32, .vln 4 1 0 .fp64, .vrcp 4 1 0 .fp16, .vrsq 4 1 0 .bf16] :
        List Instr), plain (nextG i 0) 4 ∧ plain (nextG i 0) 1 ∧ (nextG i 0).me.fen = 0) ∧
    laneFmt .fp32 = some fp32Fmt ∧ functionTable.length = 4 := by
  unfold plain
  decide +kernel

theorem witness_FloatVectors_specials_executes :
    executes (nextG (.vabs 4 1 0 .fp32) 0) (.vabs 4 1 0 .fp32) 0 0 [] ∧
    executes (nextG (.vneg 4 1 1 .bf16) 0) (.vneg 4 1 1 .bf16) 0 0 [] ∧
    executes (nextG (.vexp 4 1 0 .fp32) 0) (.vexp 4 1 0 .fp32) 0 0 [] ∧
    executes (nextG (.vln 4 1 0 .fp64) 0) (.vln 4 1 0 .fp64) 0 0 [] ∧
    executes (nextG (.vrcp 4 1 0 .fp16) 0) (.vrcp 4 1 0 .fp16) 0 0 [] ∧
    executes (nextG (.vrsq 4 1 0 .bf16) 0) (.vrsq 4 1 0 .bf16) 0 0 [] :=
  ⟨nextG_executes _ _, nextG_executes _ _, nextG_executes _ _, nextG_executes _ _, nextG_executes _ _, nextG_executes _ _⟩

theorem witness_FloatVectors_lanes :
    (∀ i ∈ ([.vadd 1 2 none .fp32, .vsub 4 1 (some ⟨2, 1⟩) .bf16, .vmin 1 2 none .fp16, .vfma 4 1 2 1 .fp64,
        .vcvt 4 1 .i8 0 .fp32, .vclt 2 1 2 1 .fp32, .vrsum 1 1 .fp32, .vrmax 1 1 .fp32] : List Instr),
      plain (next1 i 0x40000000 0x3F800000) 1 ∧ plain (next1 i 0x40000000 0x3F800000) 2 ∧
      plain (next1 i 0x40000000 0x3F800000) 4 ∧ (next1 i 0x40000000 0x3F800000).me.fen = 0 ∧
      (next1 i 0x40000000 0x3F800000).myCore.inUse 6 < 16) ∧
    active (next1 (.vrsum 1 1 .fp32) 0x40000000 0x3F800000) 1 0 ∧
    (let s := next1 (.vrmax 1 1 .fp32) 0x40000000 0x3F800000
     (fp32Fmt.read (lane s 1 .fp32 0)).isNan = false ∧ (fp32Fmt.read (lane s 2 .fp32 0)).isNan = false ∧
     ∀ j, j < LaneType.fp32.lanes → active s 1 j → (fp32Fmt.read (lane s 1 .fp32 j)).isNan = false ∧
       Num.below (fp32Fmt.read (lane s 1 .fp32 0)) (fp32Fmt.read (lane s 1 .fp32 j)) = false ∧
       (j < 0 → Num.below (fp32Fmt.read (lane s 1 .fp32 j)) (fp32Fmt.read (lane s 1 .fp32 0)) = true)) := by
  unfold plain active
  decide +kernel

theorem witness_FloatVectors_lanes_executes :
    executes (next1 (.vadd 1 2 none .fp32) 0x40000000 0x3F800000) (.vadd 1 2 none .fp32) 0 7 [] ∧
    executes (next1 (.vsub 4 1 (some ⟨2, 1⟩) .bf16) 0 0) (.vsub 4 1 (some ⟨2, 1⟩) .bf16) 0 7 [] ∧
    executes (next1 (.vmin 1 2 none .fp16) 0 0) (.vmin 1 2 none .fp16) 0 7 [] ∧
    executes (next1 (.vfma 4 1 2 1 .fp64) 0 0) (.vfma 4 1 2 1 .fp64) 0 7 [] ∧
    executes (next1 (.vcvt 4 1 .i8 0 .fp32) 0 0) (.vcvt 4 1 .i8 0 .fp32) 0 7 [] ∧
    executes (next1 (.vclt 2 1 2 1 .fp32) 0 0) (.vclt 2 1 2 1 .fp32) 0 7 [] ∧
    executes (next1 (.vrsum 1 1 .fp32) 0 0) (.vrsum 1 1 .fp32) 0 7 [] ∧
    executes (next1 (.vrmax 1 1 .fp32) 0x40000000 0) (.vrmax 1 1 .fp32) 0 7 [] ∧
    executes (next1 (.vargmx 1 1 .fp32) 0x40000000 0) (.vargmx 1 1 .fp32) 0 7 [] :=
  ⟨next1_executes _ _ _, next1_executes _ _ _, next1_executes _ _ _, next1_executes _ _ _, next1_executes _ _ _,
    next1_executes _ _ _, next1_executes _ _ _, next1_executes _ _ _, next1_executes _ _ _⟩

theorem witness_FloatVectors_rounding :
    0x3F800000 < 2 ^ (1 + fp32Fmt.w + fp32Fmt.m) ∧ (fp32Fmt.read 0x3F800000).isNan = false ∧
    special (fp32Fmt.read (fp32Fmt.encode .rup (.fin true 1 (-200))).1) = false := by
  decide +kernel

/-- A matrix record of code `code` on tile 0 with CLEAR: M, N and K given, both operands at 0x100 in format `fmt`. -/
def mxRec (code m n k fmt : Nat) : Rec :=
  recWith [(0, code), (1, 4), (8, 8), (10, m), (11, n), (12, k), (16, 0x100), (23, 4 * fmt), (24, 0x100), (31, 4 * fmt)]
/-- A running matrix command. -/
def mxRunOf (r : Rec) (w : Option Word) : MxRun := ⟨⟨r, 0, 0, []⟩, w, false, false, false, [], []⟩
/-- Core 1 running a matrix command. -/
def running (r : Rec) (w : Option Word) : State := coreWith (fun x => { x with mxRun := some (mxRunOf r w) })
/-- A raw copy of 8 bytes inside the core's own slice of the claim window. -/
def copyRec : Rec :=
  recWith [(0, 0x10), (1, 4), (8, 0x100000000), (16, 0x100000100), (24, 8), (28, 1), (30, 1), (32, 1), (44, 1)]
/-- A COPYH of 32 BF16 elements to the scale tile of the core itself. -/
def copyhRec : Rec :=
  recWith [(0, 0x11), (1, 4), (8, 0x100000000), (15, 12), (16, 0x100000100), (23, 4 * 0x32), (24, 32), (28, 1), (30, 1),
    (32, 2), (44, 1)]
/-- A lexicon command over one byte or token of the core's own slice. -/
def lexRec (code : Nat) : Rec := recWith [(0, code), (1, 4), (16, 0x100000000), (24, 1), (32, 0x100000100), (40, 1)]
/-- An engine command of slot 0 of core 1. -/
def cmdOf (r : Rec) (w : Option Word) : EngineCmd :=
  { number := 3, cluster := clusterOf 1, pusher := .slot 1 0, pc := 0, claim := 0, record := r
    seeds := Vector.replicate 16 0, started := false, vocab := none, missing := false, refused := [], done := w
    early := [], slow := false, pend := [], next := 0, out := 0, flags := 0, scales := [], orphan := false }
/-- Vocabulary 0: the token 256 is spelt by two zero bytes. -/
def vocab0 : Vocab := ⟨0, [([0, 0], false)]⟩
/-- The state with vocabulary 0 in the claim. -/
def withVocab : State := { u1 with claims := u1.claims.map (fun x => { x with vocabs := [vocab0] }) }
/-- The state with a record at offset 0x40 of the core and g6 pointing at it. -/
def pushing (r : Rec) : State :=
  (gWith 0 0x40 0).writeBytes (sram 1 0x40) (leBytes 64 r.toNat)

/-- Where every read is possible, it has a place whose bytes can be corrected. -/
theorem reads_of_all {s : State} {c : Nat} {m : MxRun}
    (h : (s.mxReads c m.cmd.record).all (fun p =>
      match s.mxPlace c m.refused p.2.1 p.2.2 with
      | .at a => !s.poisonedIn a p.2.2
      | .poison _ => false
      | .miss => false
      | .bad => false
      | .fault _ => false) = true) :
    ∀ p ∈ s.mxReads c m.cmd.record, ∃ a, s.mxPlace c m.refused p.2.1 p.2.2 = .at a ∧ s.poisonedIn a p.2.2 = false := by
  intro p hp
  have h1 := List.all_eq_true.mp h p hp
  revert h1
  rcases s.mxPlace c m.refused p.2.1 p.2.2 with a | _ | _ | _ <;> intro h1
  · exact ⟨a, rfl, by simpa using h1⟩
  all_goals cases h1

theorem witness_Tiles :
    tileFree u1 0 ∧ tileFree u1 7 ∧ (u1.myCore.tileOf 0).kind ≠ .fp64 ∧
    ((running (mxRec 1 1 1 1 3) none).myCore.planned.tileOf 0).kind ≠ .odd ∧
    (running (mxRec 1 1 1 1 3) none).myCore.inFlight 0 = true ∧
    ((coreWith (fun x => x.setTile 1 Tile.oddHalf)).myCore.planned.tileOf 1).kind = .odd ∧
    okIs (u1.ports [] [5]) () ∧ u1.myCore.mxRun = none ∧ u1.myCore.mxQueue = [] ∧ (u1.myCore.tileOf 0).blk < 8 ∧
    (u1.myCore.tileOf 0).seed < 16 := by
  unfold tileFree
  decide +kernel

theorem witness_TileImages :
    (let s := gWith 0 (2 <<< 58) 0
     okIs (s.ports [6] []) () ∧ okIs (ea (s.readG 6).1 0 0 0) 0 ∧ fatFmt (s.readG 6).1 = 2 ∧ fatBlk (s.readG 6).1 = 0 ∧
     tileFree s 0 ∧ selfReady s 0 8192 true false ∧ selfReady s 0 8192 false true ∧
     (s.myCore.tileOf 0).valid = false ∧ (s.myCore.planned.tileOf 0).kind = .fp32) ∧
    (let s := (gWith 0 (2 <<< 58) 0).modMyCore (fun x => x.setTile 0 { Tile.reset with valid := true })
     Memory.wf s.mem = true ∧ okIs (s.ports [6] []) () ∧ okIs (ea (s.readG 6).1 0 0 0) 0 ∧ tileFree s 0 ∧
     selfReady s 0 8192 false true ∧ (s.myCore.tileOf 0).valid = true ∧ (s.myCore.tileOf 0).kind = .fp32 ∧
     (s.myCore.planned.tileOf 0).kind = .fp32 ∧ (s.myCore.tileOf 0).blk = 0) := by
  unfold selfReady tileFree noPending readable
  decide +kernel

theorem witness_Pushes :
    (∀ p ∈ ([(0, mxRec 1 1 1 1 3), (1, copyRec), (1, copyhRec), (2, lexRec 0x20), (2, lexRec 0x21)] : List (Nat × Rec)),
      recordAt (pushing p.2) p.1 ((pushing p.2).readG 6).1.toNat p.2 ∧ (pushing p.2).engineRoom p.1 = true ∧
      (pushing p.2).isDet (pushing p.2).cur.core = false ∧ okIs ((pushing p.2).ports [6] []) ()) ∧
    (let s := (pushing (mxRec 1 1 1 1 3)).modMyCore (fun x =>
       { x with mxRun := some (mxRunOf (mxRec 1 1 1 1 3) none), mxQueue := List.replicate 4 ⟨mxRec 1 1 1 1 3, 0, 0, []⟩ })
     recordAt s 0 (s.readG 6).1.toNat (mxRec 1 1 1 1 3) ∧ s.engineRoom 0 = false) ∧
    ((gWith 0 1 0).readG 6).1.toNat % 64 ≠ 0 ∧ 0xFFFC0 < ((gWith 0 0xFFFE0 0).readG 6).1.toNat ∧
    selfReady u1 (u1.readG 6).1.toNat 64 true false ∧
    engineOf (bytesAt u1 (sram u1.cur.core (u1.readG 6).1.toNat) 1) ≠ some 0 := by
  simp only [recordAt, ← okIs_iff]
  unfold selfReady noPending readable
  decide +kernel

/-- Queue 0 active, in host memory, of claim 0, with two entries and indices as given. -/
def withQueue (wr rd : Nat) (r : List Running) : State :=
  u1.setQueue 0
    { state := .active, base := 0x1000, host := true, logsize := 1, prio := 0, claim := 0, wr := wr, rd := rd
      running := r, placing := none, noted := none, fault := none }

theorem witness_Pushes_queue :
    (let s := withQueue 0 0 []
     Memory.wf s.mem = true ∧ okIs (s.ports [6, 5] []) () ∧ ((s.readG 6).2.readG 5).1.toNat < 1024 ∧
     (s.queueOf ((s.readG 6).2.readG 5).1.toNat).state = .active ∧
     (s.queueOf ((s.readG 6).2.readG 5).1.toNat).claim = s.claimId s.cur.core ∧ (s.readG 6).1.toNat % 64 = 0 ∧
     selfReady s (s.readG 6).1.toNat 64 true false ∧ s.releaseReady s.cur.core s.cur.slot.val = true ∧
     s.isDet s.cur.core = false ∧
     s.ringAddr ((s.readG 6).2.readG 5).1.toNat (s.queueOf ((s.readG 6).2.readG 5).1.toNat).wr true =
       some (hostBase + 0x1000)) ∧
    2 ^ ((withQueue 2 0 []).queueOf 0).logsize ≤ ((withQueue 2 0 []).queueOf 0).wr - ((withQueue 2 0 []).queueOf 0).rd ∧
    1023 < (((gWith 1024 0 0).readG 6).2.readG 5).1.toNat ∧
    (u1.queueOf ((u1.readG 6).2.readG 5).1.toNat).state = .absent := by
  unfold selfReady noPending readable
  decide +kernel

theorem witness_MatrixRuns :
    (∀ p ∈ ([(1, mxRec 1 1 1 1 3), (2, mxRec 2 1 1 4 3), (3, mxRec 3 1 1 1 1), (4, mxRec 4 1 1 1 8)] : List (Nat × Rec)),
      mxRuns (running p.2 none) 1 (mxRunOf p.2 none) p.1 ∧ (mxG p.1 (mxA p.2).fmt (mxB p.2).fmt).isSome = true) ∧
    mxG 4 (mxA (mxRec 4 1 1 1 8)).fmt (mxB (mxRec 4 1 1 1 8)).fmt = some 2 ∧ (u1.coreOf 1).mxRun = none ∧
    (let r := recWith [(0, 1), (8, 8), (10, 1), (11, 1), (12, 1), (16, 0x100), (23, 0xC8), (24, 0x100), (31, 0xC8),
       (47, 0x80)]
     ((running r none).coreOf 1).mxRun = some (mxRunOf r none) ∧ recCode r = 1 ∧
     (running r none).frozen 1 = false ∧ ((running r none).coreOf 1).mxHem r = .absent) := by
  unfold mxRuns
  refine ⟨?_, ?_⟩
  · intro p hp
    simp only [List.mem_cons, List.not_mem_nil, or_false] at hp
    rcases hp with rfl | rfl | rfl | rfl <;> and_intros <;> first | decide +kernel | rfl | exact reads_of_all (by decide +kernel)
  · and_intros <;> decide +kernel

theorem witness_Completions :
    (∀ w : Fin 2, (let s := running (mxRec 1 1 1 1 3) (some (fieldAt 16 w.val))
      (s.coreOf 1).mxRun = some (mxRunOf (mxRec 1 1 1 1 3) (some (fieldAt 16 w.val))) ∧ s.frozen 1 = false ∧
      recNotify (mxRec 1 1 1 1 3) = true ∧ (s.coreOf 1).inUse 2 < 8)) ∧
    (let s : State := { u1 with copies := [cmdOf copyRec (some 0)] }
     endedOf 1 s.copies = some (cmdOf copyRec (some 0)) ∧ (s.coreOf 1).copyBuf = [] ∧ (s.coreOf 1).lexBuf = [] ∧
     s.hems = [] ∧ recNotify copyRec = true ∧ ((s.coreOf 1).port 3).length < 8) ∧
    (let s : State := { (coreWith (fun x => x.setPort 3 (List.replicate 8 0))) with copies := [cmdOf copyRec (some 0)] }
     endedOf 1 s.copies = some (cmdOf copyRec (some 0)) ∧ 8 ≤ ((s.coreOf 1).port 3).length) ∧
    (let s : State := { u1 with copies := [cmdOf copyhRec (some 0)], hems := [⟨1, ⟨2, 0, []⟩, 0, 3⟩] }
     endedOf 1 s.copies = some (cmdOf copyhRec (some 0)) ∧ ∃ h ∈ s.hems, h.number = (cmdOf copyhRec none).number) ∧
    (let s : State := { u1 with lexicons := [cmdOf (lexRec 0x20) (some 0)] }
     endedOf 1 s.lexicons = some (cmdOf (lexRec 0x20) (some 0)) ∧ (s.coreOf 1).copyBuf = [] ∧
     (s.coreOf 1).lexBuf = [] ∧ recNotify (lexRec 0x20) = true) := by
  decide +kernel

theorem witness_Completions_hem :
    (let h : HemMsg := ⟨1, ⟨2, 0, []⟩, 0, 3⟩
     let s : State := { u1 with hems := [h], copies := [cmdOf copyhRec (some 0)] }
     let z : State := { (coreWith (fun x => { x with hem := List.replicate 16 ⟨2, 0, []⟩ })) with hems := [h] }
     s.hems[0]? = some h ∧ (∀ y ∈ s.hems.take 0, y.dst = h.dst → y.tile.src ≠ h.tile.src) ∧
     (∀ x ∈ s.copies, x.number = h.number → x.pend = []) ∧ s.routerBit h.dst h.claim = true ∧ s.away h.dst = false ∧
     (s.coreOf h.dst).hem.length < 16 ∧ z.hems[0]? = some h ∧ z.routerBit h.dst h.claim = true ∧
     z.away h.dst = false ∧ 16 ≤ (z.coreOf h.dst).hem.length ∧ u1.routerBit 1 9 = false) := by
  decide +kernel

/-- The state with one copy command. -/
def copyAt (r : Rec) : State := { u1 with copies := [cmdOf r none] }

/-- A command of slot 0 of core 1 at its start is fresh where no slot of that core has read a word ahead. -/
theorem fresh_of {s : State} {x : EngineCmd}
    (h : x.early = [] ∧ x.slow = false ∧ x.pend = [] ∧ x.next = 0 ∧ x.out = 0 ∧ x.flags = 0 ∧ x.scales = [])
    (hp : x.pusher = .slot 1 0) (he : ∀ j : Fin 4, (s.slotOf 1 j.val).early = []) (hl : s.latches = []) : freshCmd s x := by
  refine ⟨h.1, h.2.1, h.2.2.1, h.2.2.2.1, h.2.2.2.2.1, h.2.2.2.2.2.1, h.2.2.2.2.2.2, fun c k hc j => ?_, hl⟩
  rw [hp] at hc
  cases hc
  exact he j

theorem u1_early : ∀ j : Fin 4, (u1.slotOf 1 j.val).early = [] := by decide +kernel

theorem copyAt_fresh (r : Rec) : freshCmd (copyAt r) (cmdOf r none) :=
  fresh_of ⟨rfl, rfl, rfl, rfl, rfl, rfl, rfl⟩ rfl u1_early rfl

theorem copyRuns_of {s : State} {n code : Nat} {x : EngineCmd}
    (h : s.copies.find? (fun y => y.number == n) = some x ∧ recCode x.record = code ∧ s.engReady x = true ∧
      s.copyMayStart x = true) (hf : freshCmd s x) : copyRuns s n x code :=
  ⟨h.1, h.2.1, h.2.2.1, h.2.2.2, hf⟩

theorem witness_EngineRuns_raw :
    Memory.wf (copyAt copyRec).mem = true ∧
    fatFmt (recWord copyRec 8) = 0 ∧ fatFmt (recWord copyRec 16) = 0 ∧ elementCount copyRec = 8 ∧
    (∀ e, e < 8 → 0 ≤ elementVa copyRec 8 32 e ∧
      okIs ((copyAt copyRec).engPlace (cmdOf copyRec none) (elementVa copyRec 8 32 e).toNat 1 false) (sram 1 e) ∧
      (copyAt copyRec).poisonedIn (sram 1 e) 1 = false) ∧
    (∀ e, e < 8 → 0 ≤ elementVa copyRec 16 44 e ∧
      okIs ((copyAt copyRec).engPlace (cmdOf copyRec none) (elementVa copyRec 16 44 e).toNat 1 true)
        (sram 1 (0x100 + e))) ∧
    (∀ e, e < 8 → ∀ d, d < 8 → sram 1 e ≠ sram 1 (0x100 + d)) ∧
    (∃ x, (let s : State := { u1 with copies := [x] }
      s.copies.find? (fun y => y.number == 3) = some x ∧ s.engReady x = false)) := by
  and_intros <;> first | exact ⟨cmdOf copyRec (some 0), by decide +kernel⟩ | decide +kernel

/-- A COPYH of 32 scaled elements whose scale byte the hem buffer holds, to the core's own slice as BF16. -/
def fromHemRec : Rec :=
  recWith [(0, 0x11), (1, 4), (8, 0x100000000), (15, 4 * 0x32), (16, 0x100000100), (23, 12), (24, 32), (28, 1), (30, 1),
    (32, 1), (44, 2), (58, 2)]
/-- A core that holds a hem tile of sequence `q` from source 2, and the command. -/
def hemming (q : Nat) : State :=
  { (coreWith (fun x => { x with hem := [⟨2, q, [127]⟩] })) with copies := [cmdOf fromHemRec none] }

/-- A COPY of 32 BF16 elements to scaled ones, the scale byte in memory, and one of a BF16 element that the b8p3sf of its
destination cannot hold. -/
def scaledRec : Rec :=
  recWith [(0, 0x10), (1, 4), (8, 0x100000000), (15, 12), (16, 0x100000100), (23, 4 * 0x32), (24, 32), (28, 1), (30, 1),
    (32, 2), (44, 1), (56, 0x100000200)]
/-- The second. -/
def narrowRec : Rec :=
  recWith [(0, 0x10), (1, 4), (8, 0x100000000), (15, 12), (16, 0x100000100), (23, 4 * 0x12), (24, 1), (28, 1), (30, 1),
    (32, 2), (44, 1)]

/-- `copyPlaces`, as a test. -/
def placesTest (s : State) (x : EngineCmd) (src dst scale : Nat → Nat) : Bool :=
  let a := copySrc x.record
  let b := copyDst x.record
  let n := copyCount x.record
  let inMem (o : CopyOp) : Bool := o.scaled && !copyIsHem x.record
  let rd (va k p : Nat) : Bool := okIs (s.engPlace x va k false) p && !s.poisonedIn p k
  (List.range n).all (fun e => decide (0 ≤ a.addr x.record e) && decide (0 ≤ b.addr x.record e) &&
    rd (a.addr x.record e).toNat a.size (src e) && okIs (s.engPlace x (b.addr x.record e).toNat b.size true) (dst e)) &&
  (List.range ((n + 31) / 32)).all (fun q =>
    (!inMem a || rd (bits (copyScale x.record) 0 48 + q) 1 (scale q)) &&
    (!inMem b || okIs (s.engPlace x (bits (copyScale x.record) 0 48 + q) 1 true) (scale q))) &&
  (List.range n).all (fun d => (List.range d).all (fun e =>
    decide (dst e + b.size ≤ dst d ∨ dst d + b.size ≤ dst e))) &&
  (!inMem b || (List.range ((n + 31) / 32)).all (fun q =>
    (List.range n).all (fun e => decide (scale q < dst e ∨ dst e + b.size ≤ scale q)) &&
    (List.range q).all (fun p => scale p != scale q)))

theorem copyPlaces_of {s : State} {x : EngineCmd} {src dst scale : Nat → Nat}
    (h : placesTest s x src dst scale = true) : copyPlaces s x src dst scale := by
  simp only [placesTest, Bool.and_eq_true, Bool.or_eq_true, List.all_eq_true, List.mem_range, decide_eq_true_eq,
    Bool.not_eq_true', okIs_iff] at h
  obtain ⟨⟨⟨h1, h2⟩, h3⟩, h4⟩ := h
  have blk : ∀ q, 32 * q < copyCount x.record → q < (copyCount x.record + 31) / 32 := fun q hq => by omega
  have mem {o : CopyOp} (ho : o.scaled = true ∧ copyIsHem x.record = false) :
      (o.scaled && !copyIsHem x.record) ≠ false := by simp [ho.1, ho.2]
  refine ⟨fun e he => ?_, fun q hq => ⟨fun hm => ?_, fun hm => ?_⟩, fun e d hed hd => ?_, fun hm q e hq he => ?_,
    fun hm q p hqp hp => ?_⟩
  · obtain ⟨⟨⟨ha, hb⟩, hr⟩, hw⟩ := h1 e he
    exact ⟨ha, hb, hr, hw⟩
  · exact ((h2 q (blk q hq)).1.resolve_left (mem hm))
  · exact ((h2 q (blk q hq)).2.resolve_left (mem hm))
  · rcases h3 d hd e hed with h5 | h5
    · exact .inl h5
    · exact .inr (.inl h5)
  · exact (h4.resolve_left (mem hm) q (blk q hq)).1 e he
  · have := (h4.resolve_left (mem hm) p (blk p hp)).2 q hqp
    simpa using this

theorem hemming_fresh (q : Nat) (h : q ∈ ([0, 5] : List Nat)) : freshCmd (hemming q) (cmdOf fromHemRec none) := by
  simp only [List.mem_cons, List.not_mem_nil, or_false] at h
  rcases h with rfl | rfl <;> exact fresh_of ⟨rfl, rfl, rfl, rfl, rfl, rfl, rfl⟩ rfl (by decide +kernel) rfl

theorem witness_EngineRuns_runs :
    copyRuns (copyAt copyRec) 3 (cmdOf copyRec none) 0x10 ∧ copyRuns (copyAt scaledRec) 3 (cmdOf scaledRec none) 0x10 ∧
    copyRuns (copyAt narrowRec) 3 (cmdOf narrowRec none) 0x10 ∧ copyRuns (copyAt copyhRec) 3 (cmdOf copyhRec none) 0x11 ∧
    copyRuns (hemming 0) 3 (cmdOf fromHemRec none) 0x11 ∧ copyRuns (hemming 5) 3 (cmdOf fromHemRec none) 0x11 :=
  ⟨copyRuns_of (by decide +kernel) (copyAt_fresh _), copyRuns_of (by decide +kernel) (copyAt_fresh _),
    copyRuns_of (by decide +kernel) (copyAt_fresh _), copyRuns_of (by decide +kernel) (copyAt_fresh _),
    copyRuns_of (by decide +kernel) (hemming_fresh 0 (by simp)), copyRuns_of (by decide +kernel) (hemming_fresh 5 (by simp))⟩

theorem witness_EngineRuns_converts :
    (copyDst copyhRec).scaled = true ∧ (copySrc copyhRec).scaled = false ∧ (cmdOf copyhRec none).orphan = false ∧
    (copySrc fromHemRec).scaled = true ∧
    ((hemming 0).coreOf (cmdOf fromHemRec none).home).hemCheck (copyHsrc fromHemRec) (copySeq fromHemRec) = .ready ∧
    ((hemming 5).coreOf (cmdOf fromHemRec none).home).hemCheck (copyHsrc fromHemRec) (copySeq fromHemRec) =
      .mismatch 2 5 0 := by
  decide +kernel

/-- The narrow copy with its BF16 element 1.0078125 in memory. -/
def narrowAt : State := (copyAt narrowRec).writeBytes (sram 1 0) [0x81, 0x3F]

theorem witness_EngineRuns_places :
    copyPlaces (copyAt copyRec) (cmdOf copyRec none) (sram 1) (fun e => sram 1 (0x100 + e)) (fun _ => 0) ∧
    copyPlaces (copyAt scaledRec) (cmdOf scaledRec none) (fun e => sram 1 (2 * e)) (fun e => sram 1 (0x100 + e))
      (fun q => sram 1 (0x200 + q)) ∧
    copyPlaces (copyAt copyhRec) (cmdOf copyhRec none) (fun e => sram 1 (2 * e)) (fun e => sram 1 (0x100 + e)) (fun _ => 0) ∧
    copyPlaces (hemming 0) (cmdOf fromHemRec none) (sram 1) (fun e => sram 1 (0x100 + 2 * e)) (fun _ => 0) ∧
    copyPlaces narrowAt (cmdOf narrowRec none) (sram 1) (fun e => sram 1 (0x100 + e)) (fun _ => 0) := by
  exact ⟨copyPlaces_of (by decide +kernel), copyPlaces_of (by decide +kernel), copyPlaces_of (by decide +kernel),
    copyPlaces_of (by decide +kernel), copyPlaces_of (by decide +kernel)⟩

theorem witness_EngineRuns_inexact :
    (let x := cmdOf narrowRec none
     copyRaw x.record = false ∧ fmtNarrow (copyDst x.record).fmt = true ∧ (copyDst x.record).tag = none ∧
     0 < copyCount x.record ∧
     (targetCode x (unitValue x (sourceValue narrowAt x (sram 1) (fun _ => 0))) 0).2 = false) ∧
    copyRaw copyRec = true ∧ copyRaw scaledRec = false ∧ (copyDst scaledRec).scaled = true := by
  decide +kernel

/-- The state with one lexicon command over `n` bytes or tokens, and vocabulary 0. -/
def lexAt (code : Nat) : State := { withVocab with lexicons := [cmdOf (lexRec code) none] }

theorem lexAt_fresh (r : Rec) (c : Nat) : freshCmd (lexAt c) (cmdOf r none) :=
  fresh_of ⟨rfl, rfl, rfl, rfl, rfl, rfl, rfl⟩ rfl u1_early rfl

theorem lexServes_of {s : State} {cl code : Nat} {x : EngineCmd}
    (h : s.lexicons.find? (fun y => y.cluster == cl && !y.written && !s.detOwned y) = some x ∧
      s.lexicons.find? (fun y => y.number == x.number) = some x ∧ recCode x.record = code ∧ s.engReady x = true)
    (hf : freshCmd s x) : lexServes s cl x code :=
  ⟨h.1, h.2.1, h.2.2.1, h.2.2.2, hf⟩

theorem witness_EngineRuns_serves :
    lexServes (lexAt 0x20) (clusterOf 1) (cmdOf (lexRec 0x20) none) 0x20 ∧
    lexServes (lexAt 0x21) (clusterOf 1) (cmdOf (lexRec 0x21) none) 0x21 :=
  ⟨lexServes_of (by decide +kernel) (lexAt_fresh _ _), lexServes_of (by decide +kernel) (lexAt_fresh _ _)⟩

theorem witness_EngineRuns_lexicon :
    (∀ c ∈ ([0x20, 0x21] : List Nat), Memory.wf (lexAt c).mem = true ∧
      (lexAt c).lexVocab (cmdOf (lexRec c) none) = some vocab0) ∧
    (∀ c ∈ ([0x20, 0x21] : List Nat), lexCount (lexRec c) = 1 ∧ lexCap (lexRec c) = 1) ∧
    okIs ((lexAt 0x20).engPlace (cmdOf (lexRec 0x20) none) (lexIn (lexRec 0x20)) 1 false) (sram 1 0) ∧
    (lexAt 0x20).poisonedIn (sram 1 0) 1 = false ∧
    okIs ((lexAt 0x20).engPlace (cmdOf (lexRec 0x20) none) (lexOut (lexRec 0x20)) 4 true) (sram 1 0x100) ∧
    okIs ((lexAt 0x21).engPlace (cmdOf (lexRec 0x21) none) (lexIn (lexRec 0x21)) 4 false) (sram 1 0) ∧
    (lexAt 0x21).poisonedIn (sram 1 0) 4 = false ∧
    okIs ((lexAt 0x21).engPlace (cmdOf (lexRec 0x21) none) (lexOut (lexRec 0x21)) 1 true) (sram 1 0x100) ∧
    (∀ c ∈ ([0x20, 0x21] : List Nat),
      ({ u1 with lexicons := [cmdOf (lexRec c) none] } : State).lexVocab (cmdOf (lexRec c) none) = none) := by
  decide +kernel

/-- A member whose seat is core `c` alone, of weight 1. -/
def memberOn (c : Nat) : Member :=
  ⟨true, false, 0, 0, 0x3F800000, 0, ⟨colOf c, rowOf c, 1, 1⟩, 0, 0, 0, false⟩
/-- A batch slot in a state, with members ACTIVE and nothing pending. -/
def batch (st : StepState) (n : Nat) (arrived : List Nat) : BatchSlot :=
  { seqid := 1, pos := 0, seed := 0, members := List.replicate n (.active, 0), state := st, reason := 0,
    arrived := arrived, present := arrived, t0 := 0, chain := 0, short := false, dl := false, draws := [], params := 0
    drawer := (0, 0, 0), drawLaunch := none, packet := (0, 0), slotout := 0, kv := List.replicate n ⟨0, [], false⟩ }
/-- A committee whose assay seat is core `ac` alone and whose members' seats are single cores. -/
def seated (ac : Nat) (ms : List Nat) (ys : List (Nat × BatchSlot)) : Committee :=
  { claim := 0, index := 0, quorum := 1, table := true, spec := false, draft := 0, draftmax := 0, deadline := 0xFFFFFFFF
    vocab := 1, aseat := ⟨colOf ac, rowOf ac, 1, 1⟩, mbuf := 0x10000, rbuf := 0x80000, tablePtr := 0, tableLen := 0
    grammar := 0, chainOff := 0, batchOff := 0x1000, members := ms.map memberOn, slots := ys, vacated := [], waiting := []
    stopping := [], window := 0 }
/-- The slot of `u1` on a core of a committee, g5 and g6 as given. -/
def sitting (cm : Committee) (x y : Word) : State := { gWith x y 0 with committees := [cm] }
/-- The same core an assay core whose expression is WSUM. -/
def assaying (cm : Committee) (x y : Word) : State :=
  (sitting cm x y).modMyCore (fun z => { z with assay := some ⟨[0x36], Vector.replicate 4 0⟩ })
/-- A gather element of batch slot 255 with nobody present. -/
def gatherEl : Word := q7Element 1 255 0 0 false false 0 0

/-- With nobody present nothing is read, so an ASSAY whose writes are allowed has its results. -/
theorem assayTokens_ok {s : State} {cm : Committee} {x : Assay} {i first : Nat} : ∀ ts : List Nat,
    ts.all (fun t => (s.selfAccess (cm.resultBuf i + 4 * t) 4 false true 1).isOk) = true →
    (s.assayTokens cm x i first [] ts).isOk = true
  | [], _ => rfl
  | t :: ts, h => by
    simp only [List.all_cons, Bool.and_eq_true] at h
    have ih := assayTokens_ok (s := s) (cm := cm) (x := x) (i := i) (first := first) ts h.2
    have hw := h.1
    rcases hr : s.selfAccess (cm.resultBuf i + 4 * t) 4 false true 1 with _ | a
    · rw [hr] at hw; cases hw
    rcases hs : s.assayTokens cm x i first [] ts with _ | rs
    · rw [hs] at ih; cases ih
    by_cases hv : cm.vocab ≤ first + t <;>
      simp [State.assayTokens, State.readEach, hr, hs, hv, bind, Except.bind, Except.isOk, Except.toBool]

theorem witness_Assay :
    (let y := seated 1 [2] [(255, batch .combine 1 [])]
     let s : State := { (sitting y 0 0x40).writeBytes (sram 1 0x40) [0x36] with committees := [y] }
     okIs (s.ports [6] [5]) () ∧ s.committeeOf s.cur.core = some y ∧ y.aseat.has s.cur.core = true ∧
     okIs (ea (s.readG 6).1 0 0 0) 0x40 ∧ selfReady s 0x40 32 true false ∧
     assayOps ((List.range 16).map (fun i => bytesAt s (sram s.cur.core (0x40 + i)) 1)) = some [0x36]) ∧
    (let y := seated 2 [1] []
     (sitting y 0 0).committeeOf 1 = some y ∧ y.aseat.has 1 = false) ∧
    (let cm := seated 1 [2] [(255, batch .combine 1 [])]
     let s := assaying cm 0 gatherEl
     Memory.wf s.mem = true ∧ okIs (s.ports [6, 5] []) () ∧ onCommittee s cm ∧
     s.myCore.assay = some ⟨[0x36], Vector.replicate 4 0⟩ ∧ elKind (s.readG 6).1 = 1 ∧
     (cm.slot? (elSlot (s.readG 6).1)).isSome = true ∧ ((s.readG 6).2.readG 5).1.toNat ≤ elCount (s.readG 6).1 ∧
     (∀ m, m < 8 → elMask (s.readG 6).1 m = true → cm.valid m = true) ∧ noPending s) := by
  unfold selfReady onCommittee noPending readable
  decide +kernel

theorem witness_Assay_tokens :
    (let cm := seated 1 [2] [(255, batch .combine 1 [])]
     let s := assaying cm 0 gatherEl
     (s.assayTokens cm ⟨[0x36], Vector.replicate 4 0⟩ 0 (4096 * cm.aseat.index s.cur.core) [] (List.range 4096)).isOk =
       true ∧ cm.weights ((List.range 8).filter (elMask (s.readG 6).1)) = []) :=
  ⟨assayTokens_ok _ (by decide +kernel), by decide +kernel⟩

theorem witness_CommitteeInstructions :
    (let cm := seated 2 [1] [(255, batch .idle 1 [])]
     let s := sitting cm 1 255
     let z := sitting { cm with spec := true } 0x82 255
     onCommittee s cm ∧ cm.memberAt s.cur.core = some 0 ∧ okIs (s.ports [6, 5] []) () ∧
     (cm.slot? (s.readG 6).1.toNat).isSome = true ∧ ((s.readG 6).2.readG 5).1 = 1 ∧
     s.releaseReady s.cur.core s.cur.slot.val = true ∧ onCommittee z { cm with spec := true } ∧
     ((z.readG 6).2.readG 5).1.toNat % 16 = 2 ∧ ((z.readG 6).2.readG 5).1.toNat / 16 = 8 ∧
     okIs ((sitting cm 256 255).ports [6, 5] []) () ∧ onCommittee (sitting cm 256 0) cm ∧
     (cm.slot? ((sitting cm 256 0).readG 6).1.toNat).isSome = false) ∧
    (let cm := seated 2 [1] [(255, batch .idle 1 [])]
     let w := q7Element 1 255 0 0 false false 0 0
     let s := (sitting cm 0 255).modMyCore (fun x => x.setPort 7 [w])
     let z := (sitting cm 0 254).modMyCore (fun x => x.setPort 7 [w])
     onCommittee s cm ∧ okIs (s.ports [6] [5]) () ∧ (s.readG 6).2.inPort 7 = [w] ∧ (s.readG 6).1.toNat = 255 ∧
     elSlot w = 255 ∧ okIs ((sitting cm 0 256).ports [6] [5]) () ∧ ((sitting cm 0 256).readG 6).1 = 256 ∧
     ((sitting cm 0 256).readG 6).2.inPort 7 = [] ∧ (z.readG 6).2.inPort 7 = [w] ∧
     elSlot w ≠ (z.readG 6).1.toNat ∧ (z.readG 6).1.toNat < 256) ∧
    (let y := batch .combine 1 []
     let cm := seated 1 [2] [(255, y)]
     let s := sitting cm (0x3F800000 <<< 32) gatherEl
     onCommittee s cm ∧ okIs (s.ports [6, 5] []) () ∧ s.releaseReady s.cur.core s.cur.slot.val = true ∧
     cm.slot? (elSlot (s.readG 6).1) = some y ∧ cm.aseat.has s.cur.core = true ∧ elKind (s.readG 6).1 = 1 ∧
     bits ((s.readG 6).2.readG 5).1 16 16 = 0 ∧ topPOk (bits ((s.readG 6).2.readG 5).1 32 32) = true ∧
     y.draws.contains s.cur.core = false) ∧
    (let y := batch .drawn 1 []
     let cm := seated 1 [2] [(255, y)]
     let s := sitting cm (q7Element 2 255 0 0 false false 0 0) 0
     onCommittee s cm ∧ okIs (s.ports [6, 5] []) () ∧ s.releaseReady s.cur.core s.cur.slot.val = true ∧
     (s.readG 6).1 = 0 ∧ cm.slot? (elSlot ((s.readG 6).2.readG 5).1) = some y ∧ cm.aseat.root = s.cur.core ∧ cm.stopping = [] ∧
     elKind ((s.readG 6).2.readG 5).1 = 2 ∧ elReason ((s.readG 6).2.readG 5).1 = 0 ∧ cm.quorum ≤ y.electors.length ∧
     elKind ((sitting cm gatherEl 0).readG 5).1 ≠ 2) := by
  unfold onCommittee
  decide +kernel

/-- No member of the sequence has more than its pending posts. -/
theorem pending_le (y : BatchSlot) (n : Nat) (h : y.members.all (fun p => decide (p.2 ≤ n)) = true) (m : Nat) :
    y.pending m ≤ n := by
  unfold BatchSlot.pending
  rcases hm : y.members[m]? with _ | p
  · simp
  · simpa using List.all_eq_true.mp h p (List.mem_of_getElem? hm)

theorem witness_CommitteeInstructions_pending : ∀ m, (batch .drawn 1 []).pending m < 8 := fun m =>
  Nat.lt_succ_of_le (Nat.le_trans (pending_le (batch .drawn 1 []) 0 (by decide) m) (by decide))

/-- A committee that names a grammar at 0x100. -/
def gramCommittee : Committee := { seated 2 [1] [] with grammar := 0x100 }
/-- Its grammar in the self window: two states, one bitmap byte, and the transition entries of two buckets. -/
def gram (st tok : Word) (map : Nat) (es : List (Nat × Nat × Nat)) : State :=
  (((sitting gramCommittee st tok).writeBytes (sram 1 0x100) (leBytes 8 0x200 ++ leBytes 8 0x300 ++ leBytes 4 2 ++ [1])).writeBytes
    (sram 1 0x200) (leBytes 1 map)).writeBytes (sram 1 0x300)
      (es.flatMap (fun e => leBytes 4 e.1 ++ leBytes 4 e.2.1 ++ leBytes 4 e.2.2 ++ leBytes 4 0))

theorem witness_GrammarStep :
    (let s := sitting gramCommittee 0 0
     (5 : GReg).val < 24 ∧ okIs (s.ports [6] []) () ∧ s.committeeOf s.cur.core = some gramCommittee ∧
     gramCommittee.grammar ≠ 0) ∧
    (sitting (seated 2 [1] []) 0 0).committeeOf 1 = some (seated 2 [1] []) ∧ (seated 2 [1] []).grammar = 0 := by
  decide +kernel

theorem witness_GrammarStep_header (s : State)
    (hs : s ∈ [gram 0 0 1 [(5, 0, 3), (0, 0, 9)], gram 2 0 1 [], gram 0 1 1 []]) :
    grammarIs s gramCommittee 0x200 0x300 2 1 := by
  simp only [List.mem_cons, List.not_mem_nil, or_false] at hs
  rcases hs with rfl | rfl | rfl <;> unfold grammarIs reads selfReady noPending readable <;> and_intros <;> decide +kernel

theorem witness_GrammarStep_bits :
    ((gram 2 0 1 []).peekG 5).toNat = 2 ∧ ((gram 0 1 1 []).readG 6).1.toNat = gramCommittee.vocab ∧
    reads (gram 0 0 0 []) (bitmapByte gramCommittee 0x200 0 0) 1 0 ∧
    reads (gram 0 0 1 []) (bitmapByte gramCommittee 0x200 0 0) 1 1 := by
  unfold reads selfReady noPending readable
  and_intros <;> decide +kernel

theorem witness_GrammarStep_found :
    (let s := gram 0 0 1 [(5, 0, 3), (0, 0, 9)]
     probeHolds s 0x300 1 0 0 1 0 0 ∧ reads s (probeAt 0x300 1 0 0 1 + 8) 4 9 ∧ probeHolds s 0x300 1 0 0 0 5 0) := by
  unfold probeHolds reads selfReady noPending readable
  and_intros <;> decide +kernel

theorem witness_GrammarStep_empty :
    (let s := gram 0 0 1 [(5, 0, 3), (0xFFFFFFFF, 0, 0)]
     probeHolds s 0x300 1 0 0 0 5 0 ∧ reads s (probeAt 0x300 1 0 0 1) 4 0xFFFFFFFF) := by
  unfold probeHolds reads selfReady noPending readable
  and_intros <;> decide +kernel

theorem witness_GrammarStep_full :
    (let s := gram 0 0 1 [(5, 0, 3), (0, 1, 9)]
     probeHolds s 0x300 1 0 0 0 5 0 ∧ probeHolds s 0x300 1 0 0 1 0 1) := by
  unfold probeHolds reads selfReady noPending readable
  and_intros <;> decide +kernel

/-- The committee `cm` installed, with one arrival of member 0 in batch slot 255. -/
def delivering (cm : Committee) : State := { u1 with committees := [cm], arrivals := [⟨0, 0, 0, 255, 0, 0⟩] }

theorem witness_CommitteeRows_arrival (ms : List Nat) (hm : ms ∈ ([[1], [1, 2]] : List (List Nat))) (st : StepState)
    (hs : st ∈ ([.idle, .gather] : List StepState)) :
    (let y := batch st ms.length []
     let cm := seated 3 ms [(255, y)]
     let s := delivering cm
     s.arrivals[0]? = some ⟨cm.claim, cm.index, 0, 255, 0, 0⟩ ∧ s.arrivals.take 0 = [] ∧
     s.committee? cm.claim cm.index = some cm ∧ cm.slot? 255 = some y ∧ mayArrive y 0 ∧ 0 < y.members.length ∧
     s.isDet (cm.rootOf 0) = false ∧ (y.kv[0]?).any (·.withdraw) = false ∧ cm.spec = false ∧ s.deadlineOf cm = none ∧ cm.quorum ≤ y.electors.length ∧ y.chain < 16) := by
  unfold mayArrive
  simp only [List.mem_cons, List.not_mem_nil, or_false] at hm hs
  rcases hm with rfl | rfl <;> rcases hs with rfl | rfl <;> decide +kernel

theorem witness_CommitteeRows_deadline :
    (∃ i ∈ (batch .idle 2 []).electors, i ≠ 0 ∧ (batch .idle 2 []).arrived.contains i = false) ∧
    (∀ i ∈ (batch .gather 2 [1]).electors, i ≠ 0 → (batch .gather 2 [1]).arrived.contains i = true) ∧
    (let y := batch .gather 2 [0]
     let cm : Committee := { seated 3 [1, 2] [(0, y)] with deadline := 5 }
     let s : State := { delivering cm with time := 5 }
     s.committee? cm.claim cm.index = some cm ∧ cm.slot? 0 = some y ∧ s.deadlinePassed cm y = true ∧
     mayArrive y 1 ∧ (y.kv[1]?).any (·.withdraw) = false ∧ s.isDet (cm.rootOf 1) = false ∧
     ({ s with arrivals := [⟨0, 0, 1, 0, 0, 0⟩] } : State).arrivals[0]? = some ⟨cm.claim, cm.index, 1, 0, 0, 0⟩ ∧
     cm.quorum ≤ y.electors.length ∧ ({ s with time := 4 } : State).deadlinePassed cm y = false) := by
  unfold mayArrive
  decide +kernel

theorem witness_CommitteeRows_failure :
    (let y := batch .idle 2 []
     let cm : Committee := { seated 3 [1, 2] [(255, y)] with members := [{ memberOn 1 with faulted := true }, memberOn 2] }
     (delivering cm).committee? 0 0 = some cm ∧ (cm.members[0]?).any (·.faulted) = true ∧ cm.slots = [(255, y)] ∧
     0 < y.members.length ∧ cm.quorum ≤ (y.setMember 0 .failed 0).electors.length ∧
     (cm.members[1]?).any (·.faulted) = false) ∧
    (let y := batch .drawing 2 [0]
     let cm := seated 3 [1, 2] [(0, y)]
     (delivering cm).committee? 0 0 = some cm ∧ cm.slot? 0 = some y ∧ (delivering cm).isDet cm.aseat.root = false ∧
     (delivering cm).poisoned = []) := by
  decide +kernel

theorem witness_CommitteeRows_admission :
    (let cm : Committee := { seated 3 [1, 2] [(0, batch .gather 2 [0])] with window := 2, waiting := [⟨7, 9, 0, (0, 1), none⟩] }
     let s : State := { delivering cm with ready := 0x1F }
     s.committee? 0 0 = some cm ∧ s.ready.getLsbD 2 = true ∧ cm.freeSlot = some 1 ∧
     (seated 3 [1, 2] []).window = 0) := by
  decide +kernel

theorem witness_CommitteeRows_pages :
    (let cm : Committee := { seated 3 [1, 2] [(0, batch .gather 2 [0])] with window := 2, waiting := [⟨7, 9, 0, (0, 1), none⟩] }
     let s : State := { delivering cm with ready := 0x1F }
     s.kvHeld + cm.kvNeed ≤ Config.kvPages) :=
  Nat.le_trans (by decide +kernel : _ ≤ 0) (Nat.zero_le _)

/-- A timer of claim 0 on core 1, due at 64. -/
def timerOf (period : Nat) : Timer := ⟨3, 0, period, 64, 0, false, .element 1⟩
/-- `u1` with that timer at a device time. -/
def wheel (period time : Nat) : State := { u1 with timers := [timerOf period], time := time }

theorem witness_DeviceTimeAndWheel :
    u1.timeMode = .free ∧ u1.timeHold = none ∧ u1.time ≤ (0 : Word).toNat ∧
    (0 : Word).toNat < ({ u1 with time := 1 } : State).time ∧
    ({ u1 with timeHold := some 7, time := 7 } : State).timeHold = some 7 ∧
    ({ u1 with timeHold := some 7, time := 6 } : State).time < 7 ∧
    ({ u1 with timeMode := .locked } : State).timeMode ≠ .free ∧
    ({ u1 with timeMode := .holdover } : State).timeMode = .holdover ∧
    (∀ p ∈ ([0, 64, 1000000] : List Nat), timerDue (wheel p 64) 0 (timerOf p) ∧ (timerOf p).target = .element 1 ∧
      (wheel p 64).runsFor (timerOf p).claim 1 = true ∧ (((wheel p 64).coreOf 1).port 4).length < 8 ∧
      ((wheel p 64).coreOf 1).notes = []) ∧
    (wheel 0 0).timers[0]? = some (timerOf 0) ∧ (wheel 0 0).time < (timerOf 0).due ∧ (wheel 0 65).time % 64 ≠ 0 ∧
    (let s : State := { State.reset with timers := [timerOf 0], time := 64 }
     timerDue s 0 (timerOf 0) ∧ s.runsFor 0 1 = false) ∧
    (∀ wr ∈ ([1, 2] : List Nat),
      (let s : State := { withQueue wr 0 [] with appends := [⟨0, 0, 7⟩] }
       Memory.wf s.mem = true ∧ s.appends[0]? = some ⟨0, 0, 7⟩ ∧ (s.queueOf 0).claim = 0 ∧ (s.queueOf 0).state = .active ∧
       (s.ringAddr 0 (s.queueOf 0).wr true).isSome = true)) ∧
    ((withQueue 1 0 []).queueOf 0).wr - ((withQueue 1 0 []).queueOf 0).rd < 2 ^ ((withQueue 1 0 []).queueOf 0).logsize ∧
    2 ^ ((withQueue 2 0 []).queueOf 0).logsize ≤ ((withQueue 2 0 []).queueOf 0).wr - ((withQueue 2 0 []).queueOf 0).rd := by
  unfold timerDue
  decide +kernel

/-- A stream of claim 0 whose window is in the slice of core 1: intervals of 100 from 1000, two open, 4 slots. -/
def streamOf (depth seals : Nat) : Media :=
  { claim := 0, handle := 63, period := 100, phase := 1000, depth := depth, slots := 4, sink := 9, cmte := 0, member := 0,
    win := 0x100000000, tick := 0, queue := 0, note := 2 ^ 15, sealCount := seals, fill := [], readPos := 0, late := 1,
    early := 2, full := 3, unread := 4, slid := 5, unreported := 0, pendingNote := false, ticks := [], current := 0 }
/-- `u1` with a stream installed and every service ready. -/
def deposited (m : Media) : State := { u1 with media := [m], ready := 0x1F }
/-- A record of `k` tokens with a time stamp. -/
def mediaRec (ts k : Nat) : BitVec 256 := BitVec.ofNat 256 (ts + 2 ^ 64 * 63 + 2 ^ 72 * k)

theorem witness_MediaRecords :
    (∀ p ∈ ([(999, 0), (1199, 2), (1200, 0), (1000, 0), (1199, 0)] : List (Nat × Nat)), ∀ k ∈ ([1, 4] : List Nat),
      (let m := streamOf 2 p.2
       let s := deposited m
       s.ready.getLsbD 3 = true ∧ s.media? 0 (mediaField (mediaRec p.1 k) 8 1) = some m ∧ Memory.wf s.mem = true ∧
       goodRecord m (mediaRec p.1 k) k)) ∧
    mediaField (mediaRec 999 1) 0 8 < 1000 ∧ intervalOf (streamOf 2 2) (mediaRec 1199 1) < 2 ∧
    0 + 2 ≤ intervalOf (streamOf 2 0) (mediaRec 1200 1) ∧ intervalOf (streamOf 2 0) (mediaRec 1000 4) = 0 ∧
    intervalOf (streamOf 2 0) (mediaRec 1199 4) < 0 + 2 ∧ (streamOf 2 0).filled 0 + 4 ≤ (streamOf 2 0).slots ∧
    (let m : Media := { streamOf 2 0 with fill := [(0, 1)] }
     (deposited m).media? 0 63 = some m ∧ m.slots < m.filled 0 + 4) ∧
    (∃ i, i < 4 ∧ 0xFFFFFFFE ≤ mediaField (BitVec.ofNat 256 (1000 + 2 ^ 64 * 63 + 2 ^ 72 + 2 ^ 224 * 0xFFFFFFFE)) (16 + 4 * i) 4) ∧
    mediaField (mediaRec 1000 5) 9 1 = 5 ∧ (deposited (streamOf 2 0)).media? 0 0 = none := by
  unfold goodRecord
  decide +kernel

theorem witness_MediaEvents_advance (n : Nat) (hn : n ∈ ([0, 1, 2] : List Nat)) :
    (let m : Media := { streamOf 2 1 with ticks := [1100 + 100 * n], fill := [(1, 2)], readPos := 2, current := 3 }
     let s := deposited m
     s.media? m.claim m.handle = some m ∧ s.ready.getLsbD 3 = true ∧ Memory.wf s.mem = true ∧
     m.tick = 0 ∧ m.win % 4 = 0 ∧ n ≤ m.depth ∧ m.phase + (m.sealCount + n) * m.period ≤ 1100 + 100 * n ∧
     1100 + 100 * n < m.phase + (m.sealCount + n + 1) * m.period) := by
  simp only [List.mem_cons, List.not_mem_nil, or_false] at hn
  rcases hn with rfl | rfl | rfl <;> decide +kernel

theorem witness_MediaEvents_idle : (streamOf 1 1).ticks = [] ∧ (streamOf 1 1).pendingNote = false := by decide

theorem witness_MediaEvents_note :
    (let m : Media := { streamOf 1 1 with pendingNote := true }
     let s := deposited m
     ∃ cl, s.claim? m.claim = some cl ∧ m.pendingNote = true ∧ s.runsFor m.claim (cl.rect.coreOf (m.note % 2 ^ 13)) = true ∧
       ((s.coreOf (cl.rect.coreOf (m.note % 2 ^ 13))).port 4).length < 8 ∧
       (s.coreOf (cl.rect.coreOf (m.note % 2 ^ 13))).notes = []) :=
  ⟨_, rfl, rfl, by decide +kernel, by decide +kernel, by decide +kernel⟩

theorem witness_MediaEvents_read (pos : Nat) (hp : pos ∈ ([0, 4] : List Nat)) :
    (let m : Media := { streamOf 1 1 with readPos := pos }
     let s : State := { gWith 0 63 0 with media := [m], ready := 0x1F }
     (s.ports [6] [5]).isOk = true ∧ s.isDet s.cur.core = false ∧
     s.media? (s.claimId s.cur.core) (s.readG 6).1.toNat = some m ∧ m.claim = s.claimId s.cur.core ∧
     m.handle = (s.readG 6).1.toNat ∧ m.handle < 64 ∧ 0 < m.sealCount ∧
     s.poisonedIn (s.mediaPlace m (m.sealCount - 1) m.readPos) 4 = false) := by
  simp only [List.mem_cons, List.not_mem_nil, or_false] at hp
  rcases hp with rfl | rfl <;> decide +kernel

theorem witness_MediaEvents_status (i : Nat) (hi : i ∈ ([0, 1, 2, 3, 4, 5] : List Nat)) :
    (let s : State := { gWith 0 (BitVec.ofNat 64 (256 * i + 63)) 0 with media := [streamOf 1 1] }
     (s.ports [6] [5]).isOk = true ∧ s.isDet s.cur.core = false ∧ (s.readG 6).1.toNat / 2 ^ 11 = 0 ∧
     (s.readG 6).1.toNat / 2 ^ 6 % 4 = 0 ∧ (s.readG 6).1.toNat / 2 ^ 8 = i ∧
     s.media? (s.claimId s.cur.core) ((s.readG 6).1.toNat % 64) = some (streamOf 1 1)) := by
  simp only [List.mem_cons, List.not_mem_nil, or_false] at hi
  rcases hi with rfl | rfl | rfl | rfl | rfl | rfl <;> decide +kernel

theorem witness_MediaEvents :
    u1.media? (u1.claimId u1.cur.core) (u1.readG 6).1.toNat = none ∧ okIs (u1.ports [6] [5]) () ∧
    ((gWith 0 0x800 0).readG 6).1.toNat / 2 ^ 11 ≠ 0 := by
  decide +kernel

/-- `u1` with one request of its slot under way, its slot waiting, and a set of its cluster's event unit. -/
def requesting (off : Nat) (data : Option Word) (f : UnitSet → UnitSet) : State :=
  let s := (slotWith (fun t => { t with wait := .request })).setUnit (f (u1.unitOf 1))
  { s with unitReqs := [⟨1, 0, off, data, false⟩] }

theorem witness_EventUnit_requests (i : Nat) (hi : i ∈ ([0, 15] : List Nat)) (d : Option Word)
    (hd : d ∈ ([none, some 1] : List (Option Word))) :
    oneRequest (requesting (8 * i) d id) 1 0 (8 * i) d ∧
    oneRequest (requesting (0x80 + 8 * i) d id) 1 0 (0x80 + 8 * i) d ∧
    oneRequest (requesting (0x100 + 8 * i) d id) 1 0 (0x100 + 8 * i) d := by
  unfold oneRequest
  simp only [List.mem_cons, List.not_mem_nil, or_false] at hi hd
  rcases hi with rfl | rfl <;> rcases hd with rfl | rfl <;> decide +kernel

theorem witness_EventUnit_lines :
    (∀ i ∈ ([0, 15] : List Nat),
      lineOf (requesting (8 * i) none id) 1 i = none ∧ mutexOf (requesting (0x100 + 8 * i) none id) 1 i = false ∧
      lineOf (requesting (8 * i) none (fun u => { u with lines := vset u.lines i (some 7) })) 1 i = some 7 ∧
      mutexOf (requesting (0x100 + 8 * i) none (fun u => { u with mutexes := vset u.mutexes i true })) 1 i = true) := by
  decide +kernel

theorem witness_EventUnit_barriers (i : Nat) (hi : i ∈ ([0, 3] : List Nat)) (v : Nat) (hv : v ∈ ([1, 64] : List Nat)) :
    oneRequest (requesting (0x180 + 8 * i) (some (BitVec.ofNat 64 v)) id) 1 0 (0x180 + 8 * i) (some (BitVec.ofNat 64 v)) ∧
    oneRequest (requesting (0x180 + 8 * i) none id) 1 0 (0x180 + 8 * i) none ∧
    (barrierOf (requesting (0x180 + 8 * i) none id) 1 i).waiters = [] ∧
    (barrierOf (requesting (0x180 + 8 * i) none id) 1 i).count = 0 := by
  unfold oneRequest
  simp only [List.mem_cons, List.not_mem_nil, or_false] at hi hv
  rcases hi with rfl | rfl <;> rcases hv with rfl | rfl <;> decide +kernel

theorem witness_EventUnit :
    (∀ n ∈ ([1, 2] : List Nat), ∀ i ∈ ([0, 3] : List Nat),
      (barrierOf (requesting (0x180 + 8 * i) none (fun u => { u with barriers := vset u.barriers i ⟨n, 9, []⟩ })) 1 i) =
        ⟨n, 9, []⟩) := by
  decide +kernel

/-- `u1` with a request to core 1 itself under way, and the slot waiting. -/
def sending (r : Req) (p : ReplyTo) : State :=
  { slotWith (fun t => { t with wait := .request }) with remotes := [⟨0, 1, 0, 1, 0xEFFF8, r, p, 0, 0, none, none⟩] }
/-- A page table entry of the 64 KiB page at 0x1000_0000_0000 for claim 0: tier HBM, R and W. -/
def pageEntry : Entry := BitVec.ofNat 128 (2 ^ 63 + 0x10000000 + 2 ^ 122 + 2 ^ 121)
/-- A miss of that page. -/
def missing : State :=
  { slotWith (fun t => { t with wait := .page 0x100000000000 }) with
    ready := 0x1F, misses := [⟨.slot 1 0, 0, 0x100000000000, false, 0⟩] }

theorem witness_RemoteAndPageRows_remote (p : Req × ReplyTo)
    (hp : p ∈ ([(.store 8 7, .nobody), (.load 8, .pipe), (.atomic 0 8 false 1 0, .pipe)] : List (Req × ReplyTo))) :
    (let s := sending p.1 p.2
     let r : Remote := ⟨0, 1, 0, 1, 0xEFFF8, p.1, p.2, 0, 0, none, none⟩
     remoteDue s 0 r ∧ Memory.wf s.mem = true ∧ (s.slotOf 1 0).wait = .request) := by
  unfold remoteDue
  simp only [List.mem_cons, List.not_mem_nil, or_false] at hp
  rcases hp with rfl | rfl | rfl <;> decide +kernel

theorem witness_RemoteAndPageRows_refused :
    (let r : Remote := ⟨0, 1, 0, 2, 0, .store 8 7, .nobody, 0, 0, none, none⟩
     let s : State := { u1 with remotes := [r] }
     r.after = 0 ∧ s.gated.contains (clusterOf r.dst) = false ∧
     s.remoteOk (s.claimId r.core) r.dst r.off r.req = false ∧ (s.residentOf r.core).isSome = true) := by
  decide +kernel

theorem witness_RemoteAndPageRows_page :
    missing.ready.getLsbD 1 = true ∧ missing.misses[0]? = some ⟨.slot 1 0, 0, 0x100000000000, false, 0⟩ ∧
    Memory.wf missing.mem = true ∧ entMatches 0 (entSize pageEntry) 0x100000000000 pageEntry = true ∧
    entOk pageEntry = true ∧ missing.walk 0 0x100000000000 = none ∧ missing.entClash pageEntry = false ∧
    (missing.entWay pageEntry).isSome = true ∧ (missing.slotOf 1 0).wait = .page 0x100000000000 ∧
    (missing.residentOf 1).isSome = true := by
  decide +kernel

/-- Core 0 with g5 and g6 as given. -/
def fwWith (x y : Word) : State := fw.modMe (fun t => { t with g := vset (vset t.g 5 x) 6 y })

theorem witness_FirmwareMemory :
    (fwWith 0 0).isFw 0 = true ∧ okIs ((fwWith 0x1FF 0xFFFFFFFFFFFF).ports [6, 5] []) () ∧
    (((fwWith 0x1FF 0xFFFFFFFFFFFF).readG 6).2.readG 5).1.toNat / 2 ^ 8 = 1 ∧
    ((fwWith 0x1FF 0xFFFFFFFFFFFF).readG 6).1.toNat < 2 ^ 48 ∧
    2 ^ 11 ≤ (((fwWith 0x800 0).readG 6).2.readG 5).1.toNat ∧ bits (((fwWith 0x600 0).readG 6).2.readG 5).1 9 2 = 3 ∧
    (let s := fwWith (BitVec.ofNat 64 (5119 + 2 ^ 16 * 7)) 0x40
     (((s.readG 6).2.readG 5).1).toNat = 5119 + 2 ^ 16 * 7 ∧ 5119 < numCores ∧ s.absent.contains 5119 = false ∧
     (s.readG 6).1.toNat % 16 = 0 ∧ okIs (ea (s.readG 6).1 0 0 0) 0x40 ∧ selfReady s 0x40 16 true false ∧
     regionBad (BitVec.ofNat 128 (bytesAt s (sram s.cur.core 0x40) 16)) = false) ∧
    (let s := (fwWith (BitVec.ofNat 64 (5119 + 2 ^ 16 * 7)) 0x40).writeBytes (sram 0 0x40) (List.replicate 16 0xFF)
     selfReady s 0x40 16 true false ∧
     regionBad (BitVec.ofNat 128 (bytesAt s (sram s.cur.core 0x40) 16)) = true) := by
  unfold selfReady noPending readable
  decide +kernel

/-- The firmware core about to save core 1, whose launch is stopped in mode `p`. -/
def saving (p : Preempt) : State :=
  let s : State := { u1 with launches := u1.launches.map (fun l => { l with preempt := p }), cur := ⟨0, 0⟩ }
  (s.modCore 1 (fun x => { x with stopped := true })).modMe
    (fun t => { t with g := vset (vset t.g 5 1) 6 (BitVec.ofNat 64 (2 ^ 48 - 0x14000)) })
/-- The firmware core about to load core 1 from the area at the lowest firmware address. -/
def loading : State :=
  (fwWith 1 0x800000000000).writeBytes (firmwareBase + 0x800000000000) [Config.step]

theorem witness_SavePreemptRestore_save :
    (let s := saving .saved
     s.isFw s.cur.core = true ∧ okIs (s.ports [6, 5] []) () ∧ ((s.readG 6).2.readG 5).1.toNat = 1 ∧ 1 < numCores ∧
     1 ≠ s.cur.core ∧ (s.readG 6).1.toNat % 256 = 0 ∧ 0x800000000000 ≤ (s.readG 6).1.toNat ∧
     (s.readG 6).1.toNat + 0x14000 ≤ 2 ^ 48 ∧ Memory.wf s.mem = true ∧
     (s.residentOf 1).any (fun l => l.preempt == .saved) = true ∧ (s.coreOf 1).stopped = true) ∧
    (let s := (saving .clean).modSlot 1 0 (fun t => { t with seq := [.mark 0 true] })
     (s.residentOf 1).any (fun l => l.preempt == .clean) = true ∧ (s.coreOf 1).stopped = true ∧ s.saveHeld 1 = true) := by
  decide +kernel

theorem witness_SavePreemptRestore_preempt (p : Preempt) (hp : p ∈ ([.none, .forced] : List Preempt)) :
    (let l := { u1.launches.head (by decide) with preempt := p }
     let s : State := { u1 with launches := [l] }
     notArrived s 1 ∧ 1 ∈ l.cores ∧ s.launch? l.id = some l ∧ (∀ g ∈ l.groups, g.entered = true) ∧ l.det = false ∧ s.drained l = true) := by
  unfold notArrived
  simp only [List.mem_cons, List.not_mem_nil, or_false] at hp
  rcases hp with rfl | rfl <;> decide +kernel

theorem witness_SavePreemptRestore_clean :
    (let s := runIn (arrived .arrived) 1 { DomRun.reset with executed := true }
     let z := runIn u1 1 { DomRun.reset with exchange := true }
     ∀ l ∈ u1.launches, l.preempt = .none ∧ s.launch? l.id = some l ∧ z.launch? l.id = some l ∧
       (∀ g ∈ l.groups, g.entered = true ∧ g.rect.cores ≠ [] ∧
         (∀ c ∈ g.rect.cores, domValid ((s.coreOf c).dom 0) = true ∧ (s.coreOf c).arrivedAt 0 = true ∧
           ((s.coreOf c).runOf 0).executed = true ∧ ((z.coreOf c).runOf 0).exchange = true))) := by
  decide +kernel

theorem witness_SavePreemptRestore :
    loading.isFw loading.cur.core = true ∧ okIs (loading.ports [6, 5] []) () ∧
    ((loading.readG 6).2.readG 5).1.toNat = 1 ∧ (loading.readG 6).1.toNat = 0x800000000000 ∧
    (loading.coreOf 1).resident = none ∧ loading.isFw 1 = false ∧ loading.absent.contains 1 = false ∧
    Memory.wf loading.mem = true ∧ loading.latches = [] ∧
    readCell loading.mem (firmwareBase + (loading.readG 6).1.toNat) = Config.step := by
  and_intros <;> first
    | exact writeCells_wf _ _ (by decide)
    | exact readCell_writeCells_in [Config.step] (m := []) rfl (firmwareBase + 0x800000000000) 0 (Nat.lt_succ_self 0)
    | decide +kernel

/-- The machine with every service ready and claim 0 on 2 by 2 cores. -/
def claimed : State :=
  { State.reset with ready := 0x1F, claims := [⟨0, ⟨2, 2, 2, 2⟩, false, Vector.replicate 16 0, [], false, 0⟩] }
/-- The bytes of a record in host memory. -/
def hostRec (s : State) (p : Nat) (r : Rec) : State := s.writeBytes (hostBase + p) (leBytes 64 r.toNat)
/-- A command of record `r`, submitted. -/
def submitted (r : Rec) : State := hostRec { claimed with commands := [0x1000] } 0x1000 r
/-- Queue 0 of claim 0, active, with `k` packets in its ring and packets running. -/
def queued (k : Nat) (run : List Running) : State :=
  claimed.setQueue 0
    { state := .active, base := 0x1000, host := true, logsize := 1, prio := 0, claim := 0, wr := k, rd := 0
      running := run, placing := none, noted := none, fault := none }
/-- Queue 0 with the packet `r` at its head. -/
def ringed (r : Rec) : State := hostRec (queued 1 []) 0x1000 r
/-- The same with the page at 0x1000_0000_0000 mapped to HBM. -/
def mapped (s : State) : State := s.writeEntry ((s.entWay pageEntry).getD 0) pageEntry

theorem witness_ClaimsAndQueues_claim :
    (let r := recWith [(0, 1), (16, 255), (17, 10), (18, 10), (19, 1), (20, 1), (21, 1)]
     commandAt (submitted r) 0x1000 1 [(16, 22)] r ∧ (submitted r).claim? (recField r 16 1) = none ∧ recField r 21 1 = 1 ∧
     (submitted r).grantable ⟨recField r 17 1, recField r 18 1, recField r 19 1, recField r 20 1⟩ = true) := by
  unfold commandAt
  decide +kernel

theorem witness_ClaimsAndQueues_overlap :
    (let r := recWith [(0, 1), (16, 255), (17, 3), (18, 3), (19, 1), (20, 1)]
     commandAt (submitted r) 0x1000 1 [(16, 22)] r ∧
     (submitted r).grantable ⟨recField r 17 1, recField r 18 1, recField r 19 1, recField r 20 1⟩ = false) ∧
    0x1000 ∉ claimed.commands := by
  unfold commandAt
  decide +kernel

/-- A launch of core `coreAt 2 2` in claim 0. -/
def launched : Launch :=
  { u1.launches.head (by decide) with groups := [⟨⟨2, 2, 1, 1⟩, true, Phase.start 0⟩] }

theorem witness_ClaimsAndQueues_running :
    (let r := recWith [(0, 2)]
     let s : State := { submitted r with launches := [launched] }
     let z : State := { s with copies := [{ cmdOf copyRec none with pusher := .slot (coreAt 2 2) 0 }] }
     commandAt s 0x1000 2 [(16, 17)] r ∧ (s.claim? (recField r 16 1)).isSome = true ∧
     (∀ l ∈ s.launches, l.claim = recField r 16 1 ∧ s.unwritten l.cores = []) ∧
     commandAt z 0x1000 2 [(16, 17)] r ∧ (z.claim? (recField r 16 1)).isSome = true ∧
     (∃ l ∈ z.launches, l.claim = recField r 16 1 ∧ z.unwritten l.cores ≠ [])) := by
  unfold commandAt
  decide +kernel

theorem witness_ClaimsAndQueues_release :
    (let r := recWith [(0, 2)]
     commandAt (submitted r) 0x1000 2 [(16, 17)] r ∧ ((submitted r).claim? (recField r 16 1)).isSome = true ∧
     (submitted r).closing = []) := by
  unfold commandAt
  decide +kernel

theorem witness_ClaimsAndQueues_queue (l : Nat) (hl : l ∈ ([1, 16] : List Nat)) :
    (let r := recWith [(0, 3), (16, 1023), (18, l), (19, 3), (21, 1), (24, 0x40)]
     commandAt (submitted r) 0x1000 3 [(16, 22), (24, 32)] r ∧ recField r 16 2 = 1023 ∧
     ((submitted r).queueOf (recField r 16 2)).state = .absent ∧ recField r 18 1 = l ∧ recField r 19 1 = 3 ∧
     ((submitted r).claim? (recField r 20 1)).isSome = true ∧ recField r 21 1 = 1 ∧ recField r 24 8 % 64 = 0) := by
  unfold commandAt
  simp only [List.mem_cons, List.not_mem_nil, or_false] at hl
  rcases hl with rfl | rfl <;> decide +kernel

theorem witness_ClaimsAndQueues_waits :
    (let r := recWith [(0, 3), (16, 1023), (18, 1), (20, 7), (21, 1)]
     commandAt (submitted r) 0x1000 3 [(16, 22), (24, 32)] r ∧ (submitted r).claim? (recField r 20 1) = none ∧
     (submitted r).queueForm r = true) := by
  unfold commandAt
  decide +kernel

theorem witness_ClaimsAndQueues_malformed (n l : Nat) (h : (n, l) ∈ ([(1024, 1), (0, 0), (0, 17)] : List (Nat × Nat))) :
    (let r := recWith [(0, 3), (16, n), (18, l), (20, 7), (21, 1)]
     commandAt (submitted r) 0x1000 3 [(16, 22), (24, 32)] r ∧ (submitted r).claim? (recField r 20 1) = none ∧
     (1023 < recField r 16 2 ∨ recField r 18 1 = 0 ∨ 16 < recField r 18 1)) := by
  unfold commandAt
  simp only [List.mem_cons, List.not_mem_nil, or_false, Prod.mk.injEq] at h
  rcases h with ⟨rfl, rfl⟩ | ⟨rfl, rfl⟩ | ⟨rfl, rfl⟩ <;> decide +kernel

theorem witness_ClaimsAndQueues_control (code : Nat) (hc : code ∈ ([4, 5] : List Nat)) (run : List Running)
    (hr : run ∈ ([[], [⟨0, 0, none⟩]] : List (List Running))) :
    (let r := recWith [(0, code)]
     let s := hostRec { queued 1 run with commands := [0x1000] } 0x1000 r
     commandAt s 0x1000 code [(16, 18)] r ∧ recField r 16 2 ≤ 1023 ∧ (s.queueOf (recField r 16 2)).state = .active ∧
     (s.queueOf (recField r 16 2)).running = run) := by
  unfold commandAt
  simp only [List.mem_cons, List.not_mem_nil, or_false] at hc hr
  rcases hc with rfl | rfl <;> rcases hr with rfl | rfl <;> decide +kernel

theorem witness_ClaimData_seed (sig : Nat) (hs : sig ∈ ([0, 0x2000] : List Nat)) (n : Nat)
    (hn : n ∈ ([0, 1, 15, 16] : List Nat)) :
    (let r := recWith [(0, 6), (8, sig), (17, n), (24, 7)]
     let s := submitted r
     commandAt s 0x1000 6 [(16, 18), (24, 32)] r ∧ (s.claim? (recField r 16 1)).isSome = true ∧
     Memory.wf s.mem = true ∧ recField r 17 1 = n ∧ recField r 8 8 = sig) := by
  unfold commandAt
  simp only [List.mem_cons, List.not_mem_nil, or_false] at hs hn
  rcases hs with rfl | rfl <;> rcases hn with rfl | rfl | rfl | rfl <;> decide +kernel

theorem witness_ClaimData_vocabulary :
    (let r := recWith [(0, 7), (17, 15), (24, 0x3000), (32, 16)]
     let s := (submitted r).writeBytes (hostBase + 0x3000) [1]
     commandAt s 0x1000 7 [(16, 18), (24, 36)] r ∧ (s.claim? (recField r 16 1)).isSome = true ∧ recField r 17 1 ≤ 15 ∧
     (vocabFrom (recField r 17 1) (s.readBytes (hostBase + recField r 24 8) (recField r 32 4))).isSome = true) := by
  unfold commandAt
  decide +kernel

theorem witness_ClaimData_stream :
    (let r := recWith [(0, 8), (17, 63), (24, 0x3000)]
     let s := hostRec (submitted r) 0x3000
       (recWith [(0, 1024), (16, 63), (17, 64), (18, 15), (19, 255), (24, 0x100000000)])
     commandAt s 0x1000 8 [(16, 18), (24, 32)] r ∧ (s.claim? (recField r 16 1)).isSome = true ∧ recField r 17 1 ≤ 63 ∧
     s.timers.length < 4096 ∧
     (s.streamFrom ⟨0, ⟨2, 2, 2, 2⟩, false, Vector.replicate 16 0, [], false, 0⟩ (recField r 17 1)
       (BitVec.ofNat 512 (bytesAt s (hostBase + recField r 24 8) 64))).isSome = true) := by
  unfold commandAt
  decide +kernel

theorem witness_ClaimData_map :
    (let r := recWith [(0, 9), (18, 1), (24, 0x3000)]
     let s := (submitted r).writeBytes (hostBase + 0x3000) (leBytes 16 pageEntry.toNat)
     commandAt s 0x1000 9 [(16, 17), (18, 20), (24, 32)] r ∧ recField r 18 2 = 1 ∧ recField r 8 8 = 0 ∧
     Memory.wf s.mem = true ∧ (s.claim? (recField r 16 1)).isSome = true ∧
     pageEntry = BitVec.ofNat 128 (bytesAt s (hostBase + recField r 24 8) 16) ∧
     entInvalid (recField r 16 1) pageEntry = false ∧ entV pageEntry = true ∧ s.entClash pageEntry = false ∧
     (s.entWay pageEntry).isSome = true) := by
  unfold commandAt
  decide +kernel

theorem witness_ClaimData_telemetry :
    (let r := recWith [(0, 10), (16, 0x3000), (24, 0x4000)]
     commandAt (submitted r) 0x1000 10 [(16, 32)] r ∧ recField r 8 8 = 0 ∧ Memory.wf (submitted r).mem = true ∧
     recField r 24 8 % 64 = 0) := by
  unfold commandAt
  decide +kernel

theorem witness_HostAccesses :
    0x1000 % 64 = 0 ∧ claimed.commands.length < 64 ∧ ((queued 1 []).queueOf 0).state = .active ∧
    ((queued 1 []).queueOf 0).wr ≤ (2 : Word).toNat ∧
    (2 : Word).toNat ≤ ((queued 1 []).queueOf 0).rd + 2 ^ ((queued 1 []).queueOf 0).logsize ∧
    (0 : Word).toNat < ((queued 1 []).queueOf 0).wr ∧ Memory.wf (queued 1 []).mem = true ∧
    (∀ n ∈ ([1, 2, 4, 8] : List Nat), memoryHas true (hostBase + 2 ^ 52 - n) n = true ∧
      (hostBase + 2 ^ 52 - n) % n = 0) ∧
    (∀ p ∈ ([0, sram numCores 0 - 8, hbmBase + 2 ^ 39 - 8] : List Nat),
      p % 8 = 0 ∧ memoryHas false p 8 = true ∧ claimed.poisonedIn p 8 = false ∧ bytesAt claimed p 8 = (0 : Word).toNat ∧
      bytesAt claimed p 8 ≠ (1 : Word).toNat ∧ claimed.gatedAt p = none) ∧
    (let s : State := { claimed with gated := [0] }
     s.gatedAt 0 = some 0 ∧ s.latches = []) := by
  decide +kernel

theorem witness_PacketResults :
    (let r := recWith [(0, 7)]
     Memory.wf (ringed r).mem = true ∧ packetAt (ringed r) 0 0 r 7 (packetOp r)) ∧
    (∀ op ∈ ([0, 1, 2] : List Nat),
      (let r := recWith [(0, 5), (16, op), (24, 0x10000000FFF8), (32, 9)]
       let s := mapped (ringed r)
       Memory.wf s.mem = true ∧ packetAt s 0 0 r 5 op ∧ (s.signalPlace (s.queueOf 0).claim (recWord r 24)).isSome = true)) ∧
    (∀ op ∈ ([1, 2] : List Nat),
      (let r := recWith [(0, 5), (16, op), (24, 0x10000000FFF8), (32, 9)]
       let z := mapped (ringed r)
       let s : State := { z with poisoned := [(z.signalPlace (z.queueOf 0).claim (recWord r 24)).getD 0] }
       packetAt s 0 0 r 5 op ∧
       (s.signalPlace (s.queueOf 0).claim (recWord r 24)).any (fun a => s.poisonedIn a 8) = true)) ∧
    (let r := recWith [(0, 2), (16, 0x100000000000)]
     packetAt (ringed r) 0 0 r 2 (packetOp r)) ∧
    (∀ v ∈ ([0, 1] : List Nat),
      (let s := (mapped (queued 1 [⟨0, 0, some [0x100000000000]⟩])).writeBytes hbmBase [BitVec.ofNat 8 v]
       (s.queueOf 0).state = .active ∧ s.ready.getLsbD 0 = true ∧
       s.signalValue (s.queueOf 0).claim 0x100000000000 = some (BitVec.ofNat 64 v) ∧
       (BitVec.ofNat 64 v).msb = false)) ∧
    (∀ op ∈ ([1, 2] : List Nat),
      (let r := recWith [(0, 5), (8, 0x100000000000), (16, op), (24, 0x10000000FFF8), (32, 9)]
       let z := mapped (ringed r)
       let s : State := { z with poisoned := [(z.signalPlace (z.queueOf 0).claim (recWord r 24)).getD 0] }
       s.nextPacket 0 = some (0, r) ∧ packetType r = 5 ∧ packetBad r = false ∧ (s.queueOf 0).running = [] ∧
       packetSignal r ≠ 0 ∧ (s.signalPlace (s.queueOf 0).claim (packetSignal r)).isSome = true ∧ packetOp r = op)) := by
  unfold packetAt
  decide +kernel

theorem witness_PacketResults_malformed :
    (∀ x ∈ packetTable, ∀ sig ∈ ([0, 0x100000000000] : List Nat),
      (let r := recWith [(0, x.2.1), (1, 8), (8, sig), (16, x.2.2.getD 1)]
       let s := mapped (ringed r)
       s.nextPacket 0 = some (0, r) ∧ (s.queueOf 0).running = [] ∧ x.2.1 = packetType r ∧ packetBad r = true ∧
       (x.2.2 = none ∨ x.2.2 = some (packetOp r)) ∧ packetSignal r = BitVec.ofNat 64 sig ∧
       (sig ≠ 0 → (s.signalPlace (s.queueOf 0).claim (packetSignal r)).isSome = true))) ∧
    (∀ ty ∈ ([4, 5, 6] : List Nat),
      (let r := recWith [(0, ty), (16, 3)]
       (ringed r).nextPacket 0 = some (0, r) ∧ packetType r = ty ∧ packetBad r = false ∧ 2 < packetOp r)) := by
  decide +kernel

/-- A descriptor of a committee of one member beside its assay core. -/
def descriptor : List Byte :=
  leBytes 576 ([(0, 1), (1, 1), (8, 1), (12, 0x01010000), (16, 0x10000), (20, 0x20000), (48, 0x40000), (52, 0x50000),
    (64, 1), (65, 1), (68, 0x3F800000), (76, 0x01010001), (80, 0x100000280), (88, 0x100000290)].map (fun p => p.2 * 2 ^ (8 * p.1))).sum
/-- Queue 0 with a COPY record of 8 raw bytes, or a descriptor, in the claim window behind its packet. -/
def pointed (r : Rec) (bs : List Byte) : State := (ringed r).writeBytes (sram (coreAt 2 2) 0x40) bs

/-- The firmware can write where it has a place for the bytes, whatever they are. -/
theorem firmwareWrite_isSome {s : State} {claim va n : Nat} {bs : List Byte} (hb : bs.length = n)
    (h : (s.firmwareSpan claim false true (n / 2 ^ 16 + 2) va n).isSome = true) :
    (s.firmwareWrite claim va bs).isSome = true := by
  unfold State.firmwareWrite
  rw [hb]
  rcases hl : s.firmwareSpan claim false true (n / 2 ^ 16 + 2) va n with _ | l
  · rw [hl] at h; cases h
  · rfl

theorem witness_FirmwarePackets_copy :
    (let r := recWith [(0, 3), (16, 0x100000040), (24, clusterOf (coreAt 2 2))]
     let s := pointed r (leBytes 64 copyRec.toNat)
     (s.claim? (s.queueOf 0).claim).isSome = true ∧ packetAt s 0 0 r 3 (packetOp r) ∧
     recField r 16 8 % 64 = 0 ∧ (started s 0 0 r).firmwareRead (s.queueOf 0).claim (recField r 16 8) 64 = some (leBytes 64 copyRec.toNat) ∧
     s.clusterInClaim (s.queueOf 0).claim (recField r 24 2) = true ∧ headerBad 1 copyRec = false ∧
     ((started s 0 0 r).copyChecks (s.queueOf 0).claim (Vector.replicate 16 0) copyRec).isOk = true) := by
  unfold packetAt
  decide +kernel

theorem witness_FirmwarePackets_timer (mode : Nat) (hm : mode ∈ ([0, 1, 2] : List Nat)) (per : Nat)
    (hp : per ∈ ([1024, 2 ^ 40] : List Nat)) :
    (let r := recWith [(0, 4), (16, mode), (17, 1), (24, 100), (32, per), (40, 3), (56, 0x100000080)]
     let s : State := { ringed r with timers := [⟨0, 0, 0, 5, 0, false, .element 0⟩] }
     packetAt s 0 0 r 4 mode ∧ s.timerTarget (s.queueOf 0).claim r = some (.element (coreAt 3 3)) ∧
     s.timers.length < 4096 ∧ periodOk (recField r 32 8) = true ∧ recField r 48 2 = 0 ∧ recField r 17 1 ≤ 1) := by
  unfold packetAt
  simp only [List.mem_cons, List.not_mem_nil, or_false] at hm hp
  rcases hm with rfl | rfl | rfl <;> rcases hp with rfl | rfl <;> decide +kernel

theorem witness_FirmwarePackets_handle (mode : Nat) (hm : mode ∈ ([0, 1] : List Nat)) :
    (let r := recWith [(0, 4), (16, mode), (17, 1), (24, 100), (32, 1024), (40, 3), (56, 0x100000080)]
     ∀ bs : List Byte, bs.length = 8 →
       ((started (ringed r) 0 0 r).firmwareWrite ((ringed r).queueOf 0).claim (recField r 56 8) bs).isSome = true) := by
  intro r bs hb
  simp only [List.mem_cons, List.not_mem_nil, or_false] at hm
  rcases hm with rfl | rfl <;> exact firmwareWrite_isSome hb (by decide +kernel)

theorem witness_FirmwarePackets_committee :
    (let r := recWith [(0, 6), (17, 15), (24, 0x100000040)]
     let s := pointed r (descriptor ++ leBytes 16 0 ++ [1])
     packetAt s 0 0 r 6 0 ∧ recField r 17 1 ≤ 15 ∧
     (started s 0 0 r).firmwareRead (s.queueOf 0).claim (recField r 24 8) 576 = some descriptor ∧
     s.committee? (s.queueOf 0).claim (recField r 17 1) = none ∧
     ((started s 0 0 r).committeeFrom ⟨0, ⟨2, 2, 2, 2⟩, false, Vector.replicate 16 0, [], false, 0⟩ 15 descriptor).isSome =
       true) := by
  unfold packetAt
  decide +kernel

theorem witness_FirmwarePackets_sequence (op : Nat) (ho : op ∈ ([1, 2] : List Nat)) :
    (let r := recWith [(0, 6), (16, op), (32, 7), (40, 9)]
     let cm := seated (coreAt 2 2) [coreAt 3 2] []
     let s : State := { ringed r with committees := [cm] }
     packetAt s 0 0 r 6 op ∧ s.committee? (s.queueOf 0).claim (recField r 17 1) = some cm ∧ cm.stopping = [] ∧
     cm.waiting = [] ∧ cm.slots = []) := by
  unfold packetAt
  simp only [List.mem_cons, List.not_mem_nil, or_false] at ho
  rcases ho with rfl | rfl <;> decide +kernel

/-- A claim of one queue whose head is a LAUNCH of one core, its image in host memory. -/
def launching (r : Rec) : State :=
  hostRec (ringed r) 0x3000 (recWith [(0, 1), (8, 0x4000), (16, 2), (20, 0x40), (28, 0x40)])
/-- `u1` with its launch changed. -/
def launchWith (f : Launch → Launch) : State := { u1 with launches := u1.launches.map f }

theorem witness_LaunchLife :
    (let r := recWith [(0, 1), (16, 0x3000), (28, 1), (29, 1), (30, 1), (32, 1)]
     let s := launching r
     let s0 := s.modClaim 0 (fun x => { x with ended := false, rounds := s.time / 10000 })
     let cl : Claim := ⟨0, ⟨2, 2, 2, 2⟩, false, Vector.replicate 16 0, [], false, 0⟩
     s.claim? 0 = some cl ∧ s.ready.getLsbD 0 = true ∧ s.pwr ≠ 2 ∧ s.latches = [] ∧ s.roundDue cl = true ∧ s.roundOrder 0 = [0] ∧
     s0.launchHead 0 = some (0, r) ∧ (s.queueOf 0).placing = none ∧
     s0.firstTry cl 0 0 r = some ⟨0, r, 1, 0, false, [], []⟩ ∧
     (s0.tryPlace cl 0 r ⟨0, r, 1, 0, false, [], []⟩).isSome = true ∧ (s0.imageOf cl.id r).isSome = true) ∧
    (let s : State := { launchWith (fun l => { l with groups := l.groups.map (fun g => { g with entered := false }) }) with
       ready := 0x1F }
     s.ready.getLsbD 0 = true ∧ s.latches = [] ∧ (s.launch? 0).isSome = true ∧
     ((s.launch? 0).bind (fun l => l.groups[0]?)).any (fun g => !g.entered) = true) ∧
    (let s := coreWith (fun x => { x with slots := Vector.replicate 4 (x.slots[0]) })
     let z := s.modMe (fun t => { t with run := .ended })
     let y := ([1, 2, 3] : List (Fin 4)).foldl (fun w k => w.modSlot 1 k.val (fun t => { t with run := .ended })) z
     (y.launch? 0).any (fun l => l.groups.all (·.entered) && l.preempt != .saved && !l.det &&
       l.cores.all (fun c => y.coreRetired c && y.sweepsDone c && decide ((y.coreOf c).resident = some (l.id, 0))) &&
       y.writesDone l) = true) ∧
    (let s : State := { u1 with remotes := [⟨0, 1, 0, 1, 0, .load 8, .pipe, 0, 0, none, none⟩] }
     (s.launch? 0).any (fun l => !s.writesDone l) = true) ∧
    (let s := (launchWith (fun l => { l with det := true, quantumLen := 1 })).modMyCore (fun x => { x with retired := 1 })
     (s.launch? 0).any (fun l => l.det && l.preempt == .none && l.groups.all (·.entered) &&
       l.cores.all (fun c => s.quantumOver l c && (s.coreOf c).resident.any (fun r => r.1 == l.id) && (s.coreOf c).coming.isEmpty && (s.coreOf c).backlog.isEmpty) &&
       l.tasks.isEmpty) = true ∧ s.committees = [] ∧ s.messages = []) ∧
    (let s := u1.modMyCore (fun x => { x with resident := none })
     (s.launch? 0).any (fun l => l.cores.any (fun c => (s.coreOf c).resident.isNone)) = true) := by
  decide +kernel

theorem witness_PlatformEvents :
    State.reset.up = false ∧ State.reset.modulesDown = [] ∧ ({ State.reset with up := true } : State).up = true ∧ State.reset.ready.getLsbD 4 = false ∧
    State.reset.linksDown.contains 11 = false ∧ claimed.ready.getLsbD 4 = true ∧ u1.gated.contains 319 = false ∧
    (∀ l ∈ u1.launches, ∀ c ∈ l.cores, clusterOf c = 319 → (u1.coreOf c).resident = none) ∧
    ({ u1 with gated := [319] } : State).gated.contains 319 = true ∧ u1.latches = [] := by
  decide +kernel

theorem witness_IllRule :
    (∀ n ∈ ([1, 2] : List Nat), (handler.modMe (fun t => { t with npc := t.pc + BitVec.ofNat 48 (2 * n) })).me.npc =
      (handler.modMe (fun t => { t with npc := t.pc + BitVec.ofNat 48 (2 * n) })).me.pc + BitVec.ofNat 48 (2 * n)) ∧
    handler.me.pc.toNat + 4 < 2 ^ 48 ∧ handler.me.crew = none ∧ handled handler handler.cur.core handler.cur.slot.val 0x01 ∧
    (some 0 : Option Nat) ≠ none ∧ (some 0 : Option Nat).toList.length + (some 0 : Option Nat).toList.length + [5, 6].length ≤ 4 ∧
    (none : Option Nat).toList.length + (some 0 : Option Nat).toList.length + [5, 6].length ≤ 3 := by
  unfold handled
  decide +kernel

/-- Two slots with handlers in one crew; each still owes the words `d`. -/
def crewed (d : List CrewWord) : State :=
  let f (i : Nat) (t : Slot) : Slot :=
    { t with trapvec := 0x100, crew := some ⟨0x1020000, i, 2, 0, 0, [(1, 0), (2, 0)], d⟩ }
  (twoWith 1 (f 0)).modSlot 2 0 (f 1)

theorem witness_CrewResults_ill :
    (let s := crewed [⟨.ill 0 0, 0, 2, 2⟩]
     s.me.crew = some ⟨0x1020000, 0, 2, 0, 0, [(1, 0), (2, 0)], [⟨.ill 0 0, 0, 2, 2⟩]⟩ ∧
     (s.slotOf 2 0).crew = some ⟨0x1020000, 1, 2, 0, 0, [(1, 0), (2, 0)], [⟨.ill 0 0, 0, 2, 2⟩]⟩) ∧
    (let s := crewed []
     s.me.crew = some ⟨0x1020000, 0, 2, 0, 0, [(1, 0), (2, 0)], []⟩ ∧ (s.cur.core, s.cur.slot.val) = (1, 0) ∧
     (s.slotOf 2 0).crew = some ⟨0x1020000, 1, 2, 0, 0, [(1, 0), (2, 0)], []⟩ ∧ handled s 1 0 0x01 ∧
     handled s 2 0 0x01) := by
  unfold handled
  decide +kernel

theorem witness_MoveAndCountRules :
    scalarTypes[7]? = some .bz ∧
    okIs (u1.ports [6] [5]) () ∧ (5 : GReg).val ≠ 25 ∧ okIs (u1.ports [6] [25]) () ∧ (25 : GReg).val = 25 ∧
    patternOf .b 0x100 = 0 := by
  decide +kernel

theorem witness_MoveAndCountRules_clz : (17, Instr.clz) ∈ [(1, Instr.mov), (17, Instr.clz), (18, Instr.popc)] := by
  simp

theorem witness_DecodeEncode :
    (Instr.vst 31 23 (-128) 7 .i64).isChain = true ∧ (Instr.vst 31 23 (-128) 7 .i64).wellFormed = true ∧
    decode [0xFF06, 0xFD38, 0x0CA6] = .ok (.add 5 6 (some 7) .hz) 3 := by decide

theorem witness_StepRunsDecoded :
    atMov.cur.core < 5120 ∧ atMov.schedule = [] ∧ fetches atMov ∧ fetches atMov.catchUp ∧
    decode [0x04A6] = .ok (.mov 5 6 .d) ([0x04A6] : List Half).length ∧ standsAtPc atMov [0x04A6] ∧
    standsAtPc atMov.catchUp [0x04A6] ∧
    ({ atMov with schedule := [.slot 1 0] } : State).schedule = .slot 1 0 :: [] := by
  have one : standsAtPc atMov [0x04A6] := by apply stands_one <;> decide +kernel
  have caught : standsAtPc atMov.catchUp [0x04A6] := by apply stands_one <;> decide +kernel
  unfold fetches mayFetch
  exact ⟨by decide, rfl, by decide +kernel, by decide +kernel, by decide, one, caught, rfl⟩

/-- The step answers a next state. -/
def goesOn (s : State) : Bool :=
  match step s with
  | .next _ => true
  | .fault _ => false
  | .refused _ => false

theorem witness_MemoryStaysCanonical : Memory.wf atMov.mem = true ∧ goesOn atMov = true := by decide +kernel

theorem witness_TimeNeverGoesBack :
    goesOn State.reset = true ∧ goesOn { claimed with schedule := [.elapse 5] } = true ∧
    goesOn { u1 with schedule := [.event (.throttleBubble 3)] } = true := by decide +kernel

end Sys2Proof.Tests
end

section
/-! PROOFS. The decoder on chains of page 0 written word by word: the words `pre` and `base` of the statements are those
of the encoder, so what is decoded is the chain that they spell. -/

namespace Sys2Proof

/-! ### The words of the statements and the words of a chain -/

theorem pre_eq_prefixOf (kind p : Nat) : Claims.pre kind p = prefixOf kind (p % 256) := by
  have h : 0xFC00 + 256 * kind + p % 256 = (252 + kind) * 256 + p % 256 % 256 := by omega
  rw [Claims.pre, prefixOf, h]

theorem base_eq_baseWord (op : Nat) (a b : Fin 32) : Claims.base op a b = BitVec.ofNat 16 (baseWord op a.val b.val) := by
  have h : 1024 * op + 32 * a.val + b.val = baseWord op a.val b.val := by simp only [baseWord]; omega
  rw [Claims.base, h]

@[simp] theorem opOf_baseWord {op : Nat} (h : op ≤ 62) (a b : Nat) : opOf (baseWord op a b) = op := by
  simp only [opOf, baseWord]; omega

@[simp] theorem fieldA_baseWord (op : Nat) (a : Fin 32) (b : Nat) : fieldA (baseWord op a.val b) = a.val := by
  simp only [fieldA, baseWord]; omega

@[simp] theorem fieldB_baseWord (op a : Nat) (b : Fin 32) : fieldB (baseWord op a b.val) = b.val := by
  simp only [fieldB, baseWord]; omega

@[simp] theorem gField_val (a : Fin 32) : gField a.val = a := by simp [gField]

/-- What the decoder answers for the words of a chain that 03 R50 allows, whatever follows them. -/
theorem decode_words {c : Chain} (hc : c.Legal) (rest : List Half) : decode (c.words ++ rest) = decodeChain c := by
  simp only [decode, parseChain_words c hc rest]

/-- The chain of an op with two fields and any prefixes, which carry eight bits each. -/
def spelledChain (page qual opb : Option Nat) (imms : List Nat) (op : Nat) (a b : Fin 32) : Chain :=
  ⟨page.map (· % 256), qual.map (· % 256), opb.map (· % 256), imms.map (· % 256), baseWord op a.val b.val⟩

theorem present_map (o : Option Nat) (f : Nat → Nat) : present (o.map f) = o.toList.length := by cases o <;> rfl

theorem spelledChain_legal {page qual opb : Option Nat} {imms : List Nat} {op : Nat} {a b : Fin 32}
    (hp : ∀ p, page = some p → p ≤ 5) (ho : op ≤ 62)
    (hn : page.toList.length + qual.toList.length + opb.toList.length + imms.length ≤ 4) :
    (spelledChain page qual opb imms op a b).Legal := by
  refine ⟨?_, opbMap_lt qual _ fun _ => Nat.mod_lt _ (by omega), opbMap_lt opb _ fun _ => Nat.mod_lt _ (by omega), ?_, ?_,
    baseWord_lt ho _ _⟩
  · intro p h
    obtain ⟨p', hp', rfl⟩ := Option.map_eq_some_iff.mp h
    exact Nat.le_trans (Nat.mod_le _ _) (hp p' hp')
  · intro p h
    obtain ⟨p', _, rfl⟩ := List.mem_map.mp h
    exact Nat.mod_lt _ (by omega)
  · simpa only [spelledChain, present_map, List.length_map] using hn

theorem spelledChain_words (page qual opb : Option Nat) (imms : List Nat) (op : Nat) (a b : Fin 32) :
    (spelledChain page qual opb imms op a b).words =
      page.toList.map (Claims.pre 2) ++ qual.toList.map (Claims.pre 3) ++ opb.toList.map (Claims.pre 1) ++
        imms.map (Claims.pre 0) ++ [Claims.base op a b] := by
  have hpre : ∀ k, Claims.pre k = fun p => prefixOf k (p % 256) := fun k => funext (pre_eq_prefixOf k)
  have hopt : ∀ (k : Nat) (o : Option Nat), (o.map fun p => prefixOf k (p % 256)).toList =
      o.toList.map fun p => prefixOf k (p % 256) := by
    intro k o; cases o <;> rfl
  simp only [Chain.words, spelledChain, hpre, base_eq_baseWord, Option.map_map, List.map_map, Function.comp_def, hopt]

/-- The decoder reads the chain that prefixes and a base word spell. -/
theorem decode_spelled (page qual opb : Option Nat) (imms : List Nat) {op : Nat} (a b : Fin 32)
    (hp : ∀ p, page = some p → p ≤ 5) (ho : op ≤ 62)
    (hn : page.toList.length + qual.toList.length + opb.toList.length + imms.length ≤ 4) :
    decode (page.toList.map (Claims.pre 2) ++ qual.toList.map (Claims.pre 3) ++ opb.toList.map (Claims.pre 1) ++
      imms.map (Claims.pre 0) ++ [Claims.base op a b]) = decodeChain (spelledChain page qual opb imms op a b) := by
  rw [← spelledChain_words, ← decode_words (spelledChain_legal (a := a) (b := b) hp ho hn) [], List.append_nil]

/-! ### Form UN (03 R62) -/

/-- The codes of the scalar types are those a QUAL of form UN may carry (03 R60). -/
theorem scalarTypes_code {q : Nat} {y : ScalarType} (h : Claims.scalarTypes[q]? = some y) :
    q < 8 ∧ qualScalar q = true ∧ scalarTypeOf (typeCode q) = some y := by
  have hq : q < 8 := (List.getElem?_eq_some_iff.mp h).1
  have hcode : ∀ q < 8, qualScalar q = true ∧ scalarTypeOf (typeCode q) = Claims.scalarTypes[q]? := by decide
  exact ⟨hq, (hcode q hq).1, (hcode q hq).2.trans h⟩

theorem qualScalar_of_ge {q : Nat} (h : 8 ≤ q) (h' : q < 256) : qualScalar q = false := by
  have hcode : scopeCode q ≠ 0 ∨ orderCode q ≠ 0 ∨ ¬ typeCode q < 8 := by
    simp only [scopeCode, orderCode, typeCode]
    omega
  rcases hcode with hc | hc | hc <;> simp [qualScalar, hc]

section
variable (f : GReg → GReg → ScalarType → Instr) (op : Nat) (a b : GReg)

theorem formUN_plain : formUN (spelledChain none none none [] op a b) f = .ok (f a b .d) 1 := by
  simp [formUN, Chain.form, spelledChain, Chain.sty, Chain.q, Chain.a, Chain.b, typeCode, scalarTypeOf, Chain.baseAt,
    Chain.immAt, present]

theorem formUN_typed {q : Nat} {y : ScalarType} (h : Claims.scalarTypes[q]? = some y) :
    formUN (spelledChain none (some q) none [] op a b) f = .ok (f a b y) 2 := by
  obtain ⟨hq, hok, hty⟩ := scalarTypes_code h
  have hm : q % 256 = q := Nat.mod_eq_of_lt (by omega)
  simp [formUN, Chain.form, spelledChain, Chain.sty, Chain.q, Chain.a, Chain.b, hm, hok, hty, Chain.baseAt, Chain.immAt,
    present]

theorem formUN_badType {q : Nat} (h : 8 ≤ q) (h' : q < 256) :
    formUN (spelledChain none (some q) none [] op a b) f = .bad (.prefixWord 0) := by
  simp [formUN, Chain.form, spelledChain, Nat.mod_eq_of_lt h', qualScalar_of_ge h h', Chain.qualAt, present]

theorem formUN_opb (p : Nat) : formUN (spelledChain none none (some p) [] op a b) f = .bad (.prefixWord 0) := by
  simp [formUN, Chain.form, spelledChain, never, Chain.opbAt, present]

theorem formUN_imm (p : Nat) : formUN (spelledChain none none none [p] op a b) f = .bad (.prefixWord 0) := by
  simp [formUN, Chain.form, spelledChain, Chain.immAt, present]

end

/-! ### Page 0, ops 0, 1, 17 and 18 (03 R65) -/

/-- MOV, CLZ and POPC stand on page 0 under their ops, in form UN. -/
theorem decodeChain_moveOrCount {op : Nat} {f : GReg → GReg → ScalarType → Instr}
    (h : (op, f) ∈ [(1, Instr.mov), (17, Instr.clz), (18, Instr.popc)]) (qual opb : Option Nat) (imms : List Nat)
    (a b : Fin 32) :
    decodeChain (spelledChain none qual opb imms op a b) = formUN (spelledChain none qual opb imms op a b) f := by
  simp only [List.mem_cons, Prod.mk.injEq, List.not_mem_nil, or_false] at h
  rcases h with ⟨rfl, rfl⟩ | ⟨rfl, rfl⟩ | ⟨rfl, rfl⟩ <;>
    simp [decodeChain, decodePage0, spelledChain]

/-- Op 0 of page 0 is ILL, with or without a PAGE of payload 0 (20 R329). -/
theorem decodeChain_ill {page : Option Nat} (h : ∀ p, page = some p → p = 0) (qual opb : Option Nat) (imms : List Nat)
    (a b : Fin 32) :
    decodeChain (spelledChain page qual opb imms 0 a b) = formILL (spelledChain page qual opb imms 0 a b) := by
  cases page with
  | none => simp [decodeChain, decodePage0, spelledChain]
  | some p => simp [decodeChain, decodePage0, spelledChain, h p rfl]

/-- ILL alone or behind a PAGE. -/
theorem formILL_plain (page : Option Nat) (op : Nat) (a b : Fin 32) :
    formILL (spelledChain page none none [] op a b) = .ok (.ill a b) (present page + 1) := by
  simp [formILL, Chain.form, spelledChain, Chain.a, Chain.b, Chain.baseAt, Chain.immAt, present]

/-- QUAL, OPB and IMM words are no part of ILL: the first of them, which stands behind the PAGE, is at fault. -/
theorem formILL_prefixed (page : Option Nat) {qual opb : Option Nat} {imms : List Nat} (op : Nat) (a b : Fin 32)
    (h : qual ≠ none ∨ opb ≠ none ∨ imms ≠ []) :
    formILL (spelledChain page qual opb imms op a b) = .bad (.prefixWord (present page)) := by
  cases qual with
  | some q => simp [formILL, Chain.form, spelledChain, never, Chain.qualAt, present]
  | none =>
    cases opb with
    | some p => simp [formILL, Chain.form, spelledChain, never, Chain.opbAt, present]
    | none =>
      have hi : imms ≠ [] := by simpa using h
      simp [formILL, Chain.form, spelledChain, hi, Chain.immAt, present]

end Sys2Proof
end

section
/-! PROOFS. MOV, CLZ and POPC (20 R308, 21 R353, R360): the model's bit-vector functions are the numbers of the
statements, and an instruction of form UN writes its function of field B. -/

open Sys2Proof.Claims

namespace Sys2Proof

theorem ScalarType.width_le (y : ScalarType) : y.width ≤ 64 := by cases y <;> decide

end Sys2Proof

namespace Sys2Proof.Machine

/-! ### Values -/

theorem patternOf_lt (y : ScalarType) (x : Word) : patternOf y x < 2 ^ y.width := Nat.mod_lt _ (Nat.two_pow_pos _)

theorem extBits_false (w : Nat) (x : Word) : extBits w false x = BitVec.ofNat 64 (x.toNat % 2 ^ w) := by
  apply BitVec.eq_of_toNat_eq
  simp [extBits]

theorem extBits_true (w : Nat) (x : Word) :
    extBits w true x = if 2 ^ w ≤ 2 * (x.toNat % 2 ^ w) then BitVec.ofInt 64 ((x.toNat % 2 ^ w : Nat) - 2 ^ w)
      else BitVec.ofNat 64 (x.toNat % 2 ^ w) := by
  simp only [extBits, if_true, BitVec.signExtend, BitVec.toInt_eq_toNat_cond, BitVec.toNat_setWidth]
  by_cases h : 2 ^ w ≤ 2 * (x.toNat % 2 ^ w)
  · rw [if_neg (by omega), if_pos h]
    push_cast
    rfl
  · rw [if_pos (by omega), if_neg h, BitVec.ofInt_natCast]

/-- `ext` of 20 R289 extends the pattern by the type's signedness. -/
theorem ext_eq_extend (y : ScalarType) (x : Word) : ext y x = extend y (patternOf y x) := by
  unfold ext extend patternOf
  cases y.signed with
  | false => simp [extBits_false]
  | true => simp [extBits_true]

theorem toNat_extBits_false (y : ScalarType) (x : Word) : (extBits y.width false x).toNat = patternOf y x := by
  have h : patternOf y x < 2 ^ 64 :=
    Nat.lt_of_lt_of_le (patternOf_lt y x) (Nat.pow_le_pow_right (by omega) y.width_le)
  rw [extBits_false, BitVec.toNat_ofNat]
  exact Nat.mod_eq_of_lt h

/-- Above the highest one bit of a nonzero word stand `clz` zeros. -/
theorem toNat_clz_add_log2 {x : Word} (h : x ≠ 0) : x.clz.toNat + Nat.log2 x.toNat = 63 := by
  have hlow := BitVec.two_pow_sub_clz_le_toNat_of_ne_zero (x := x) (by omega) h
  have hhigh := BitVec.toNat_lt_two_pow_sub_clz (x := x)
  have hx : x.toNat ≠ 0 := by simpa [BitVec.toNat_eq] using h
  have hlt : x.clz.toNat < 64 := by
    refine Nat.lt_of_not_le fun hc => ?_
    rw [Nat.sub_eq_zero_of_le hc] at hhigh
    omega
  have hlog : Nat.log2 x.toNat = 64 - 1 - x.clz.toNat :=
    (Nat.log2_eq_iff hx).mpr ⟨hlow, by rwa [show 64 - 1 - x.clz.toNat + 1 = 64 - x.clz.toNat by omega]⟩
  omega

/-- The leading zeros of the pattern are those of the word but for the bits above the width. -/
theorem clzOf_eq_leadingZeros (y : ScalarType) (x : Word) :
    clzOf y.width x = BitVec.ofNat 64 (leadingZeros y x) := by
  have hw := y.width_le
  have hv := toNat_extBits_false y x
  unfold clzOf leadingZeros
  by_cases h : patternOf y x = 0
  · have hz : extBits y.width false x = 0 := BitVec.eq_of_toNat_eq (by rw [hv, h]; rfl)
    have hc : (0 : Word).clz = 64 := BitVec.clz_eq_iff_eq_zero.mpr rfl
    rw [hz, hc, if_pos h]
    cases y <;> rfl
  · have hz : extBits y.width false x ≠ 0 := fun e => h (by rw [← hv, e]; rfl)
    have hsum := toNat_clz_add_log2 hz
    have hlog : Nat.log2 (patternOf y x) < y.width := (Nat.log2_lt h).mpr (patternOf_lt y x)
    rw [hv] at hsum
    rw [if_neg h]
    apply BitVec.eq_of_toNat_eq
    simp only [word, BitVec.toNat_sub, BitVec.toNat_ofNat]
    omega

/-- No bit stands at or above the width, so counting 64 places counts those of the pattern. -/
theorem popOf_eq_onesOf (y : ScalarType) (x : Word) : popOf y.width x = BitVec.ofNat 64 (onesOf y x) := by
  have hbits : ∀ i, (extBits y.width false x).getLsbD i = (patternOf y x).testBit i := by
    intro i; rw [BitVec.getLsbD, toNat_extBits_false]
  have hhigh : ∀ i ∈ (List.range (64 - y.width)).map (y.width + ·), (patternOf y x).testBit i ≠ true := by
    intro i hi
    obtain ⟨j, _, rfl⟩ := List.mem_map.mp hi
    have hle : 2 ^ y.width ≤ 2 ^ (y.width + j) := Nat.pow_le_pow_right (by omega) (by omega)
    simp [Nat.testBit_lt_two_pow (Nat.lt_of_lt_of_le (patternOf_lt y x) hle)]
  have hrange : List.range 64 = List.range y.width ++ (List.range (64 - y.width)).map (y.width + ·) := by
    rw [← List.range_add, Nat.add_sub_cancel' y.width_le]
  simp only [popOf, word, onesOf, hbits]
  rw [hrange, List.filter_append, List.filter_eq_nil_iff.mpr hhigh, List.append_nil]

theorem leadingZeros_le (y : ScalarType) (x : Word) : leadingZeros y x ≤ y.width := by
  unfold leadingZeros
  split <;> omega

theorem onesOf_le (y : ScalarType) (x : Word) : onesOf y x ≤ y.width :=
  Nat.le_trans (List.length_filter_le _ _) (Nat.le_of_eq List.length_range)

/-! ### Form UN -/

/-- A destination that is not q1 takes the value. -/
theorem State.writeG_put (s : State) {a : GReg} (h : a.val ≠ 25) (v : Word) : s.writeG a v = .ok (put s a v) := by
  by_cases hp : a.val < 24
  · rw [State.writeG_plain s hp]
    simp only [put, hp, if_true]
  · rw [State.writeG_port s (by omega) h]
    simp only [put, portOf, hp, show a.val ≠ 0 by omega, if_false]

/-- Where the operands can issue, an instruction of form UN writes its function of field B. -/
theorem State.unOp_ok {s : State} {a b : GReg} (h : s.ports [b] [a] = .ok ()) (f : Word → Word) :
    s.unOp f a b = (s.readG b).2.writeG a (f (s.readG b).1) := by
  unfold State.unOp
  rw [h]
  rfl

theorem State.finish_unOp {s : State} {a b : GReg} (h : s.ports [b] [a] = .ok ()) (ha : a.val ≠ 25) (f : Word → Word) :
    s.finish (s.unOp f a b) = .next (put (s.readG b).2 a (f (s.readG b).1)).retire := by
  rw [State.unOp_ok h, State.writeG_put _ ha, State.finish_ok]

theorem exec_mov (a b : GReg) (y : ScalarType) (s : State) :
    exec (.mov a b y) s = s.finish (s.unOp (fun x => extend y (patternOf y x)) a b) :=
  congrArg (fun f => s.finish (s.unOp f a b)) (funext (ext_eq_extend y))

theorem exec_clz (a b : GReg) (y : ScalarType) (s : State) :
    exec (.clz a b y) s = s.finish (s.unOp (fun x => BitVec.ofNat 64 (leadingZeros y x)) a b) :=
  congrArg (fun f => s.finish (s.unOp f a b)) (funext (clzOf_eq_leadingZeros y))

theorem exec_popc (a b : GReg) (y : ScalarType) (s : State) :
    exec (.popc a b y) s = s.finish (s.unOp (fun x => BitVec.ofNat 64 (onesOf y x)) a b) :=
  congrArg (fun f => s.finish (s.unOp f a b)) (funext (popOf_eq_onesOf y))

/-! ### The statement -/

/-- The words of MOV, CLZ and POPC: type codes 0 to 7 under QUAL; OPB and IMM words are at fault. -/
theorem decode_moveOrCount {op : Nat} {f : GReg → GReg → ScalarType → Instr}
    (h : (op, f) ∈ [(1, Instr.mov), (17, Instr.clz), (18, Instr.popc)]) (a b : GReg) :
    decode [base op a b] = .ok (f a b .d) 1 ∧
    (∀ q y, scalarTypes[q]? = some y → decode [pre 3 q, base op a b] = .ok (f a b y) 2) ∧
    (∀ q, 8 ≤ q → q < 256 → decode [pre 3 q, base op a b] = .bad (.prefixWord 0)) ∧
    (∀ p, decode [pre 1 p, base op a b] = .bad (.prefixWord 0) ∧
      decode [pre 0 p, base op a b] = .bad (.prefixWord 0)) := by
  have ho : op ≤ 62 := by
    simp only [List.mem_cons, Prod.mk.injEq, List.not_mem_nil, or_false] at h
    omega
  have hdec : ∀ (qual opb : Option Nat) (imms : List Nat), qual.toList.length + opb.toList.length + imms.length ≤ 4 →
      decode (qual.toList.map (pre 3) ++ opb.toList.map (pre 1) ++ imms.map (pre 0) ++ [base op a b]) =
        formUN (spelledChain none qual opb imms op a b) f := by
    intro qual opb imms hn
    rw [← decodeChain_moveOrCount h, ← decode_spelled none qual opb imms a b noPage ho (by simpa using hn)]
    rfl
  refine ⟨?_, fun q y hy => ?_, fun q hq hq' => ?_, fun p => ⟨?_, ?_⟩⟩
  · exact (hdec none none [] (by simp)).trans (formUN_plain f op a b)
  · exact (hdec (some q) none [] (by simp)).trans (formUN_typed f op a b hy)
  · exact (hdec (some q) none [] (by simp)).trans (formUN_badType f op a b hq hq')
  · exact (hdec none (some p) [] (by simp)).trans (formUN_opb f op a b p)
  · exact (hdec none none [p] (by simp)).trans (formUN_imm f op a b p)

/-- Settles O53: the words by the decoder on form UN, the results by the values of the three functions. -/
theorem moveAndCountRules : Obligations.MoveAndCountRules := by
  refine ⟨fun op f h a b => decode_moveOrCount h a b, fun s a b y h => ⟨fun ha => ?_, fun _ => ?_⟩, fun y x => ?_, ?_⟩
  · simp only [exec_mov, exec_clz, exec_popc, State.finish_unOp h ha, and_self]
  · simp only [exec_mov, exec_clz, exec_popc, State.unOp_ok h, and_self]
  · exact ⟨leadingZeros_le y x, onesOf_le y x, fun h => if_pos h⟩
  · decide

end Sys2Proof.Machine
end

section
/-! PROOFS. The illegal-instruction trap (20 R329, 03 R53, 13 R245, R246) at a slot that is in no crew. -/

open Sys2Proof.Claims

namespace Sys2Proof.Machine

/-! ### Elements given back leave the slot's trap registers -/

theorem CoreState.returned_slotOf (x : CoreState) (p : Nat) (w : Word) (k : Nat) :
    (x.returned p w).slotOf k = x.slotOf k := by
  unfold CoreState.returned
  simp only
  split
  · rfl
  · repeat' split
    all_goals rfl

theorem CoreState.foldr_returned_slotOf (l : List (Nat × Word)) (x : CoreState) (k : Nat) :
    (l.foldr (fun p (x : CoreState) => x.returned p.1 p.2) x).slotOf k = x.slotOf k := by
  induction l with
  | nil => rfl
  | cons p l ih => rw [List.foldr_cons, CoreState.returned_slotOf, ih]

/-- Giving elements back changes of its slot the elements and the copy of the ports alone. -/
theorem State.giveBack_me (s : State) : s.giveBack.me = { s.me with lent := [], taken := s.giveBack.me.taken } := by
  unfold State.giveBack
  split
  · rename_i h
    rw [List.isEmpty_iff] at h
    rw [← h]
  · rename_i h
    have hs : s.myCore.slotOf s.cur.slot.val = s.me := rfl
    rw [State.modMyCore_eq, State.me_setCore, CoreState.giveBack, hs, if_neg h]
    simp only [CoreState.slotOf_setSlot, CoreState.foldr_returned_slotOf, hs]

theorem State.giveBack_cur (s : State) : s.giveBack.cur = s.cur := by
  unfold State.giveBack
  split <;> rfl

/-! ### The trap -/

/-- A trap that does not end the launch, at a slot of no crew, enters the handler and changes nothing else. -/
theorem State.takeTrap_handled {s : State} {x : Trap} {c k : Nat} (deferred : Bool) (h : handled s c k x.code)
    (hc : (s.slotOf c k).crew = none) :
    s.takeTrap c k deferred x = s.modSlot c k (fun t => t.enterHandler deferred x) := by
  obtain ⟨h5, hE, hF, hinh, hvec⟩ := h
  have hstay : (firmwareCause x.code || (s.slotOf c k).inh || (s.slotOf c k).trapvec == 0) = false := by
    rw [hinh, beq_eq_false_iff_ne.mpr hvec]
    simp [firmwareCause, h5, hE, hF]
  have hcrew : s.dissolveCrew c k = s := by simp only [State.dissolveCrew, hc]
  simp only [State.takeTrap, if_neg hF, hstay, hcrew, Bool.false_eq_true, if_false]

/-- After a handled trap of the slot of the step its trap registers tell the cause, and TRAPPC the trapped instruction. -/
theorem trapped_me {s : State} {code detail : Nat} {value : Word} (h : handled s s.cur.core s.cur.slot.val code)
    (hc : s.me.crew = none) : (trapped s code detail value).me = s.giveBack.me.enterHandler false ⟨code, detail, value⟩ := by
  have hme : s.giveBack.slotOf s.cur.core s.cur.slot.val = s.giveBack.me := by
    rw [State.me, State.giveBack_cur]
  have hb := State.giveBack_me s
  have hh : handled s.giveBack s.cur.core s.cur.slot.val code := by
    unfold handled at h ⊢
    rw [hme, hb]
    exact h
  have hcrew : (s.giveBack.slotOf s.cur.core s.cur.slot.val).crew = none := by rw [hme, hb]; exact hc
  rw [trapped, State.takeTrap_handled false hh hcrew]
  rw [← State.giveBack_cur s]
  exact (State.me_setCore _ _).trans (CoreState.slotOf_setSlot _ _ _)

theorem trapped_registers {s : State} {code detail : Nat} {value : Word}
    (h : handled s s.cur.core s.cur.slot.val code) (hc : s.me.crew = none) :
    let t := trapped s code detail value
    t.me.trappc = s.me.pc ∧ t.me.trapcode = BitVec.ofNat 8 code ∧ t.me.trapdetail = BitVec.ofNat 8 detail ∧
      t.me.trapval = value := by
  simp only [trapped_me h hc]
  refine ⟨?_, rfl, rfl, rfl⟩
  show s.giveBack.me.pc = s.me.pc
  rw [State.giveBack_me]

/-- An illegal instruction of a slot in no crew takes the trap with cause 0x01. -/
theorem State.illegalInCrew_none {s : State} (h : s.me.crew = none) (detail : Nat) (value : Word) :
    s.illegalInCrew detail value = .next (Claims.trapped s 0x01 detail value) := by
  simp only [State.illegalInCrew, h]
  rfl

/-- The base word of an instruction of one or two words stands at its last word. -/
theorem State.baseAddr_eq {s : State} {n : Nat} (hn : n = 1 ∨ n = 2) (hnpc : s.me.npc = s.me.pc + BitVec.ofNat 48 (2 * n))
    (hpc : s.me.pc.toNat + 4 < 2 ^ 48) : s.baseAddr = BitVec.ofNat 64 (s.me.pc.toNat + 2 * (n - 1)) := by
  apply BitVec.eq_of_toNat_eq
  simp only [State.baseAddr, hnpc, BitVec.toNat_setWidth, BitVec.toNat_sub, BitVec.toNat_add, BitVec.toNat_ofNat,
    BitVec.ofNat_eq_ofNat]
  omega

/-! ### The statement -/

/-- The words of ILL, alone or after a PAGE of payload 0. -/
theorem decode_ill (a b : Fin 32) :
    decode [base 0 a b] = .ok (.ill a b) 1 ∧ decode [pre 2 0, base 0 a b] = .ok (.ill a b) 2 := by
  constructor
  · have h := decode_spelled none none none [] (op := 0) a b noPage (by omega) (by simp)
    rw [decodeChain_ill (by simp), formILL_plain] at h
    exact h
  · have h := decode_spelled (some 0) none none [] (op := 0) a b (page_le (by omega)) (by omega) (by simp)
    rw [decodeChain_ill (by simp), formILL_plain] at h
    exact h

/-- The first QUAL, OPB or IMM word before ILL is at fault (03 R53). -/
theorem decode_ill_prefixed {qual opb : Option Nat} {imms : List Nat} (a b : Fin 32)
    (h : qual ≠ none ∨ opb ≠ none ∨ imms ≠ []) (hn : qual.toList.length + opb.toList.length + imms.length ≤ 4) :
    decode (qual.toList.map (pre 3) ++ opb.toList.map (pre 1) ++ imms.map (pre 0) ++ [base 0 a b]) = .bad (.prefixWord 0) ∧
    (qual.toList.length + opb.toList.length + imms.length ≤ 3 →
      decode (pre 2 0 :: (qual.toList.map (pre 3) ++ opb.toList.map (pre 1) ++ imms.map (pre 0) ++ [base 0 a b])) =
        .bad (.prefixWord 1)) := by
  constructor
  · have hd := decode_spelled none qual opb imms (op := 0) a b noPage (by omega) (by simpa using hn)
    rw [decodeChain_ill (by simp), formILL_prefixed none 0 a b h] at hd
    exact hd
  · intro hn'
    have hd := decode_spelled (some 0) qual opb imms (op := 0) a b (page_le (by omega)) (by omega)
      (by simp only [Option.toList_some, List.length_singleton]; omega)
    rw [decodeChain_ill (by simp), formILL_prefixed (some 0) 0 a b h] at hd
    exact hd

/-- Settles O52: the words by the decoder on op 0 of page 0, the trap by what entering the handler writes. -/
theorem illRule : Obligations.IllRule := by
  refine ⟨decode_ill, by decide, fun _ _ _ a b h hn => decode_ill_prefixed a b h hn, fun _ => ⟨rfl, rfl⟩, ?_, ?_⟩
  · intro s a b n hn hnpc hpc hc
    have hexec : exec (.ill a b) s = .next (trapped s 0x01 0 (BitVec.ofNat 64 (s.me.pc.toNat + 2 * (n - 1)))) := by
      rw [← State.baseAddr_eq hn hnpc hpc]
      exact State.illegalInCrew_none hc 0 s.baseAddr
    exact ⟨hexec, fun hh => ⟨_, hexec, trapped_registers hh hc⟩⟩
  · intro s n _ hc
    have hexec : exec (.illegalInstruction n 1) s =
        .next (trapped s 0x01 1 (BitVec.ofNat 64 (s.me.pc.toNat + 2 * n))) :=
      State.illegalInCrew_none hc 1 (word (s.me.pc.toNat + 2 * n))
    exact ⟨hexec, fun hh => ⟨_, hexec, trapped_registers hh hc⟩⟩

end Sys2Proof.Machine
end
